-- ==== Sys2Proof/Word.lean ====
section
/-! DEFINITION. Words, bytes, and the small closed vocabularies of the VL7: payload formats (R44),
token kinds (R10), plane letters (R13), node addresses (R29), tokens (R9), rounding modes (R53),
compare conditions (R100) and cause codes (R363). -/

namespace Sys2Proof

/-- A 32-bit word: payloads, T-words, A-words, S-words. -/
abbrev Word := BitVec 32

/-- One byte of memory. -/
abbrev Byte := BitVec 8

/-- Payload formats, `FMT` codes 0 to 7 in order (R9, R44). -/
inductive Fmt where
  | w32 | f32 | b16 | h16 | q8 | i8 | x8 | x4
  deriving DecidableEq, Repr, Inhabited

/-- Token kinds, `KIND` codes 0 to 7 in order; the last two are reserved (R10). -/
inductive Kind where
  | data | blkh | eos | psn | mark | steer | rsv6 | rsv7
  deriving DecidableEq, Repr, Inhabited

/-- The plane letters A (0) and B (1) (R13, R14). -/
inductive Letter where
  | a | b
  deriving DecidableEq, Repr, Inhabited

/-- The nodes of the device: a panel node by panel index (row × 128 + column) and address 0 to 71,
a merge node by tree level, switch number and unit, a port collective unit by port and unit (R29). -/
inductive NodeId where
  | panel (p n : Nat)
  | mg (level sw unit : Nat)
  | pc (port unit : Nat)
  deriving DecidableEq, Repr, Inhabited

/-- A token (R9): 32-bit payload and 8-bit header `KIND`, `FMT`, `S`, `L`. -/
structure Token where
  kind : Kind := .data
  fmt : Fmt := .w32
  s : Bool := false
  l : Bool := false
  payload : Word := 0
  deriving DecidableEq, Repr, Inhabited

/-- Rounding modes (R53). -/
inductive Rnd where
  | rne | rtz | rdn | rup
  deriving DecidableEq, Repr, Inhabited

/-- The `RM` field of a form: the plane default or a named mode (R54). -/
inductive Rm where
  | dflt | rne | rtz | rdn | rup
  deriving DecidableEq, Repr, Inhabited

/-- The `CC` codes 0 to 7; the last two read as LTU and GEU on integers and as UN and ORD on floats (R100). -/
inductive Cc where
  | eq | ne | lt | le | gt | ge | ltu | geu
  deriving DecidableEq, Repr, Inhabited

/-- The reductions of `RED` (R102). -/
inductive Red where
  | sum | max | min
  deriving DecidableEq, Repr, Inhabited

/-- The cause codes of R363 that the device can raise (0x00, 0x27, 0x3E and 0x3F are never raised). -/
inductive Cause where
  | intOverflow | fpOverflow | fpInvalid | fpDivzero | fpUnderflow | convertRange | blockExponent
  | tagMismatch | scaleMismatch | kindReserved | poisonConsumed | steerUnrouted | portUnwired
  | operandReserved | illegalOpcode
  | windowBounds | windowAccess | pageNotPresent | pageProtection | atomicPath | alignment
  | peerUnreachable | promiseMissed
  | patternAbsent | callDepth | placementTimeout | castFault | spillFault | spillStall
  | callsiteInvalid | retWithoutCall
  | quotaSpent | signalNegative | packetMalformed | queueOverrun | launchInvalid | barrierTimeout
  | priorityInvalid
  | layerOverflow | layerVersion | layerShape | metadataInvalid | mergeOrder | mergeIndexRange
  | gatherIndex | collectiveMismatch
  | bespokeUnbound | bespokeLimit | bespokeIllegal | privilege | sysregInvalid | breakpoint
  | software | step
  | eccUncorrectable | planeParity | linkDown | watchdog | markTimeout | internal
  deriving DecidableEq, Repr, Inhabited

/-- The code of a format (R9). -/
def Fmt.code : Fmt → Nat
  | .w32 => 0 | .f32 => 1 | .b16 => 2 | .h16 => 3 | .q8 => 4 | .i8 => 5 | .x8 => 6 | .x4 => 7

/-- The format of a 3-bit code (R9). -/
def Fmt.ofCode : Nat → Fmt
  | 0 => .w32 | 1 => .f32 | 2 => .b16 | 3 => .h16 | 4 => .q8 | 5 => .i8 | 6 => .x8 | _ => .x4

/-- The code of a kind (R10). -/
def Kind.code : Kind → Nat
  | .data => 0 | .blkh => 1 | .eos => 2 | .psn => 3 | .mark => 4 | .steer => 5 | .rsv6 => 6 | .rsv7 => 7

/-- The kind of a 3-bit code (R10). -/
def Kind.ofCode : Nat → Kind
  | 0 => .data | 1 => .blkh | 2 => .eos | 3 => .psn | 4 => .mark | 5 => .steer | 6 => .rsv6 | _ => .rsv7

/-- The other plane letter. -/
def Letter.other : Letter → Letter
  | .a => .b
  | .b => .a

/-- The bit that names a letter (R13). -/
def Letter.bit : Letter → Bool
  | .a => false
  | .b => true

/-- The letter a bit names (R13). -/
def Letter.ofBit : Bool → Letter
  | false => .a
  | true => .b

/-- The 6-bit code of a cause (R363). -/
def Cause.code : Cause → Nat
  | .intOverflow => 0x01 | .fpOverflow => 0x02 | .fpInvalid => 0x03 | .fpDivzero => 0x04
  | .fpUnderflow => 0x05 | .convertRange => 0x06 | .blockExponent => 0x07 | .tagMismatch => 0x08
  | .scaleMismatch => 0x09 | .kindReserved => 0x0A | .poisonConsumed => 0x0B | .steerUnrouted => 0x0C
  | .portUnwired => 0x0D | .operandReserved => 0x0E | .illegalOpcode => 0x0F | .windowBounds => 0x10
  | .windowAccess => 0x11 | .pageNotPresent => 0x12 | .pageProtection => 0x13 | .atomicPath => 0x14
  | .alignment => 0x15 | .peerUnreachable => 0x16 | .promiseMissed => 0x17 | .patternAbsent => 0x18
  | .callDepth => 0x19 | .placementTimeout => 0x1A | .castFault => 0x1B | .spillFault => 0x1C
  | .spillStall => 0x1D | .callsiteInvalid => 0x1E | .retWithoutCall => 0x1F | .quotaSpent => 0x20
  | .signalNegative => 0x21 | .packetMalformed => 0x22 | .queueOverrun => 0x23 | .launchInvalid => 0x24
  | .barrierTimeout => 0x25 | .priorityInvalid => 0x26 | .layerOverflow => 0x28 | .layerVersion => 0x29
  | .layerShape => 0x2A | .metadataInvalid => 0x2B | .mergeOrder => 0x2C | .mergeIndexRange => 0x2D
  | .gatherIndex => 0x2E | .collectiveMismatch => 0x2F | .bespokeUnbound => 0x30 | .bespokeLimit => 0x31
  | .bespokeIllegal => 0x32 | .privilege => 0x33 | .sysregInvalid => 0x34 | .breakpoint => 0x35
  | .software => 0x36 | .step => 0x37 | .eccUncorrectable => 0x38 | .planeParity => 0x39
  | .linkDown => 0x3A | .watchdog => 0x3B | .markTimeout => 0x3C | .internal => 0x3D

/-- Natural-number bit field `[hi:lo]` of a value (R4). -/
def field (v hi lo : Nat) : Nat := v / 2 ^ lo % 2 ^ (hi + 1 - lo)

/-- Bit `i` of a value. -/
def bitOf (v i : Nat) : Bool := v / 2 ^ i % 2 == 1

/-- The signed reading of the low `w` bits of a value. -/
def signedOf (w v : Nat) : Int :=
  let u := v % 2 ^ w
  if u < 2 ^ (w - 1) then (u : Int) else (u : Int) - (2 ^ w : Nat)

/-- The `w`-bit two's-complement code of an integer (R45: wraps modulo 2^w). -/
def codeOf (w : Nat) (x : Int) : Nat := (x % (2 ^ w : Nat)).toNat

end Sys2Proof
end

