-- ==== Sys2Proof/Syntax.lean ====
section
/-! DEFINITION. The steps of the VL7: `Instr` has one constructor per row of the table of operations
and events. The first 149 are the A-words of slots, micro-words and armature code (R92 to R130); the
rest are the device's own events and the host's commands, each a step with the unit or input it
concerns. -/

namespace Sys2Proof

/-- A source specifier (R105): codes 0-7, 8-11 consumed, 12-15 peeked, 16-21 constants, 24-31 the
hidden temporaries (micro-words) or x registers (sequential mode); `imm` is an `IMMB` immediate (R94). -/
inductive Src where
  | g (n : Fin 8)
  | inC (n : Fin 4)
  | inP (n : Fin 4)
  | zero | one | ones | cyc | inst | plane
  | t (n : Fin 8)
  | imm (v : BitVec 5)
  deriving DecidableEq, Repr, Inhabited

/-- A destination specifier (R106): 0-7, out-ports 8-11, discard 12, predicates 16-23, 24-31. -/
inductive Dst where
  | g (n : Fin 8)
  | out (n : Fin 4)
  | disc
  | p (n : Fin 8)
  | t (n : Fin 8)
  deriving DecidableEq, Repr, Inhabited

/-- `SPAR`: dense, 2:4, 4:8 (R101). -/
inductive Spar where
  | dense | s24 | s48
  deriving DecidableEq, Repr, Inhabited

/-- The edge of a matrix array, `EDGE` 0 west, 1 north (R101). -/
inductive Edge where
  | west | north
  deriving DecidableEq, Repr, Inhabited

/-- What the protection code of a memory word reports when an access performs (R266): an input from outside. -/
inductive Ecc where
  | clean | corrected | uncorrectable
  deriving DecidableEq, Repr, Inhabited

/-- A firmware image offered at boot, with the digest, version and signatures that it carries (R421). -/
structure FwImage where
  bytes : List Byte := []
  digest : List Byte := []
  version : Nat := 0
  sigE : List Byte := []
  sigM : List Byte := []
  deriving DecidableEq, Repr, Inhabited

/-- Where a Flosy message came from, over a packet delivery context or with `roce` over a RoCEv2 queue pair, and the tag it carries
(R402, R403, R415, R417, R426). -/
structure Flosy where
  conn : Nat := 0
  link : Nat := 0
  tag : BitVec 16 := 0
  roce : Bool := false
  deriving DecidableEq, Repr, Inhabited

/-- The host transports and delivery modes a connection may ask for (R402, R403). -/
inductive ConnKind where
  | rud | rod | uud | rudi | roceRc | roceOther
  deriving DecidableEq, Repr, Inhabited

/-- What a peer asks of this device's memory (R407, R408). -/
inductive PeerOp where
  | load
  | store (v : Word)
  | atomic (op : Nat) (fmt : Fmt) (b c : Word)
  | sigw (v : Word)
  deriving DecidableEq, Repr, Inhabited

/-- One element stream piece that reaches a collective member from the network (R411). `child` is the
position of the sending child, or none for the stream that comes down from the parent. -/
structure Partial where
  child : Option Nat := none
  fmt : Fmt := .f32
  red : Red := .sum
  s : Bool := false
  index : Nat := 0
  val : Word := 0
  eos : Bool := false
  psn : Bool := false
  deriving DecidableEq, Repr, Inhabited

/-- The steps of the device, one constructor per row of the table. -/
inductive Instr where
  -- integer and bit lane instructions, groups 0x0 and 0x1 (R139 to R142)
  | add (f : Fmt) (d : Dst) (a b : Src) (sat : Bool)
  | sub (f : Fmt) (d : Dst) (a b : Src) (sat : Bool)
  | addi (d : Dst) (a : Src) (imm : BitVec 11)
  | mul (f : Fmt) (d : Dst) (a b : Src) (sat : Bool)
  | mulh (f : Fmt) (d : Dst) (a b : Src)
  | mulhu (f : Fmt) (d : Dst) (a b : Src)
  | and (d : Dst) (a b : Src)
  | or (d : Dst) (a b : Src)
  | xor (d : Dst) (a b : Src)
  | andn (d : Dst) (a b : Src)
  | shl (d : Dst) (a b : Src)
  | shr (d : Dst) (a b : Src)
  | sar (d : Dst) (a b : Src)
  | rol (d : Dst) (a b : Src)
  | andi (d : Dst) (a : Src) (imm : BitVec 11)
  | ori (d : Dst) (a : Src) (imm : BitVec 11)
  | min (f : Fmt) (d : Dst) (a b : Src)
  | max (f : Fmt) (d : Dst) (a b : Src)
  | minu (f : Fmt) (d : Dst) (a b : Src)
  | maxu (f : Fmt) (d : Dst) (a b : Src)
  | abs (f : Fmt) (d : Dst) (a : Src) (sat : Bool)
  | neg (f : Fmt) (d : Dst) (a : Src) (sat : Bool)
  | clz (d : Dst) (a : Src)
  | popc (d : Dst) (a : Src)
  | ext (d : Dst) (a b c : Src)
  | ins (d : Dst) (a b c : Src)
  | sel (d : Dst) (a b c : Src)
  | cmp (f : Fmt) (cc : Cc) (d : Dst) (a b : Src)
  | cmpi (f : Fmt) (cc : Cc) (d : Dst) (a : Src) (imm : BitVec 8)
  | adds (f : Fmt) (d : Dst) (a b : Src)
  | subs (f : Fmt) (d : Dst) (a b : Src)
  | mad (f : Fmt) (d : Dst) (a b c : Src) (sat : Bool)
  -- float lane instructions, group 0x2 (R143, R144)
  | fadd (f : Fmt) (d : Dst) (a b : Src) (rm : Rm)
  | fsub (f : Fmt) (d : Dst) (a b : Src) (rm : Rm)
  | fmul (f : Fmt) (d : Dst) (a b : Src) (rm : Rm)
  | fma (f : Fmt) (d : Dst) (a b c : Src)
  | fmin (f : Fmt) (d : Dst) (a b : Src)
  | fmax (f : Fmt) (d : Dst) (a b : Src)
  | fabs (f : Fmt) (d : Dst) (a : Src)
  | fneg (f : Fmt) (d : Dst) (a : Src)
  | fcmp (f : Fmt) (cc : Cc) (d : Dst) (a b : Src)
  | fhsum (f : Fmt) (d : Dst) (a : Src) (rm : Rm)
  | fdot (f : Fmt) (d : Dst) (a b c : Src)
  | fcls (f : Fmt) (d : Dst) (a : Src)
  | fclp (f : Fmt) (d : Dst) (a b c : Src)
  -- transcendentals, conversion, packing, group 0x3 (R145 to R150)
  | frcp (f : Fmt) (d : Dst) (a : Src) (rm : Rm)
  | frsq (f : Fmt) (d : Dst) (a : Src) (rm : Rm)
  | fsqrt (f : Fmt) (d : Dst) (a : Src) (rm : Rm)
  | fex2 (f : Fmt) (d : Dst) (a : Src) (rm : Rm)
  | flg2 (f : Fmt) (d : Dst) (a : Src) (rm : Rm)
  | ftnh (f : Fmt) (d : Dst) (a : Src) (rm : Rm)
  | cvt (f : Fmt) (d : Dst) (a : Src) (rm : Rm) (nanov : Bool)
  | pack (f : Fmt) (d : Dst) (a b : Src)
  | unpk (f : Fmt) (d : Dst) (a : Src) (hi : Bool)
  | scl (f : Fmt) (d : Dst) (a b : Src) (rm : Rm) (clr : Bool)
  | itof (f : Fmt) (d : Dst) (a : Src) (rm : Rm) (u : Bool)
  | ftoi (f : Fmt) (d : Dst) (a : Src) (rm : Rm) (sat u : Bool)
  | rndi (f : Fmt) (d : Dst) (a : Src) (rm : Rm)
  -- moves, headers, predicates, identity, group 0x4 (R151 to R155)
  | mov (f : Fmt) (d : Dst) (a : Src)
  | movi (d : Dst) (imm : BitVec 16)
  | movhi (d : Dst) (imm : BitVec 16)
  | mktag (d : Dst) (a : Src) (hdr : BitVec 8)
  | gtag (d : Dst) (a : Src)
  | plog (pd pa pb : Fin 8) (lut : BitVec 4)
  | pmov (pd pa : Fin 8)
  | pseti (mask vals : BitVec 8)
  | wid (d : Dst) (n : BitVec 16)
  | clk (d : Dst) (half : BitVec 16)
  | iid (d : Dst) (sel : BitVec 16)
  -- seam instructions, group 0x5 (R160 to R166)
  | emit (d : Dst) (a : Src)
  | drop (a : Src)
  | fwd (d : Dst) (a : Src)
  | steer (d : Dst) (a : Src) (k : BitVec 8)
  | swpt (d : Dst) (a : Src)
  | stky (a : Src) (n : BitVec 8)
  | dmnd (a : Src) (n : BitVec 11)
  | halt
  | nop
  | waitt (d : Dst) (a : Src)
  -- calls, group 0x6 (R181 to R186)
  | call (d : Dst) (site : BitVec 4) (pat : BitVec 12)
  | callb (d : Dst) (n : BitVec 3) (site : BitVec 4) (pat : BitVec 12)
  | ret
  | spwn (d : Dst) (a b : Src)
  | spwnt (pd : Fin 8) (a b : Src)
  | plt (d : Dst) (a : Src)
  | csto (d : Dst) (a : Src)
  | csti (d : Dst) (a : Src)
  | prio (c : BitVec 16)
  -- system, group 0x7 (R187 to R191, R173, R178, R179)
  | trap (arg : BitVec 16)
  | brk (arg : BitVec 16)
  | rdsr (d : Dst) (sr : BitVec 10)
  | wrsr (a : Src) (sr : BitVec 10)
  | pload (d : Dst) (pat : BitVec 12)
  | arm (d : Dst) (a : Src)
  | rlat (d : Dst) (w : BitVec 4)
  | bsld (a : Src) (j : BitVec 9)
  | bsbd (a : Src) (k : BitVec 5)
  | eretContinue
  | eretReplay
  | eretRetire
  | eretTerminate
  | jmpr (a : Src)
  | lnk (d : Dst) (off : BitVec 16)
  | emul (d : Dst) (a : Src)
  -- bespoke, groups 0xD and 0xE-0xF (R120, R194)
  | bsp (n : Fin 32) (f : Fmt) (d : Dst) (a b c : Src) (sat : Bool)
  | mbr (a : Src) (off : BitVec 11)
  | mlp (h : Fin 8) (off : BitVec 11)
  | mend (a : Src)
  -- loads and stores, group 0x8 (R209 to R213)
  | lds (f : Fmt) (d : Dst) (w : BitVec 4) (a : Src) (acq rel : Bool)
  | ldl (f : Fmt) (d : Dst) (w : BitVec 4) (a : Src) (acq rel : Bool)
  | ldd (f : Fmt) (d : Dst) (w : BitVec 4) (a : Src) (acq rel : Bool)
  | ldp (f : Fmt) (d : Dst) (w : BitVec 4) (a : Src) (acq rel : Bool)
  | ldx (f : Fmt) (d : Dst) (w : BitVec 4) (a : Src) (acq rel : Bool)
  | sts (f : Fmt) (d : Dst) (w : BitVec 4) (a b : Src) (acq rel : Bool)
  | stl (f : Fmt) (d : Dst) (w : BitVec 4) (a b : Src) (acq rel : Bool)
  | std (f : Fmt) (d : Dst) (w : BitVec 4) (a b : Src) (acq rel : Bool)
  | stp (f : Fmt) (d : Dst) (w : BitVec 4) (a b : Src) (acq rel : Bool)
  | stx (f : Fmt) (d : Dst) (w : BitVec 4) (a b : Src) (acq rel : Bool)
  | fen (d : Dst) (scope : BitVec 4)
  | ldv (f : Fmt) (d : Dst) (w : BitVec 4) (a : Src) (acq rel : Bool)
  | stv (f : Fmt) (d : Dst) (w : BitVec 4) (a b : Src) (acq rel : Bool)
  | xbar (d : Dst)
  | pfd (w : BitVec 4) (a : Src)
  -- atomics, group 0x9 (R214 to R216)
  | aadd (d : Dst) (w : BitVec 4) (a b : Src) (acq rel : Bool)
  | afadd (f : Fmt) (d : Dst) (w : BitVec 4) (a b : Src) (acq rel : Bool)
  | amin (d : Dst) (w : BitVec 4) (a b : Src) (acq rel : Bool)
  | amax (d : Dst) (w : BitVec 4) (a b : Src) (acq rel : Bool)
  | aand (d : Dst) (w : BitVec 4) (a b : Src) (acq rel : Bool)
  | aor (d : Dst) (w : BitVec 4) (a b : Src) (acq rel : Bool)
  | axor (d : Dst) (w : BitVec 4) (a b : Src) (acq rel : Bool)
  | axch (d : Dst) (w : BitVec 4) (a b : Src) (acq rel : Bool)
  | acas (d : Dst) (w : BitVec 4) (a b : Src) (acq rel : Bool)
  | sigw (d : Dst) (w : BitVec 4) (a b : Src) (acq rel : Bool)
  | bupd (f : Fmt) (d : Dst) (w : BitVec 4) (a b : Src) (acq rel : Bool)
  | bred (f : Fmt) (d : Dst) (w : BitVec 4) (a b : Src) (acq rel : Bool)
  -- copies, gather and scatter, layered tensors, discard, group 0xA (R217 to R226)
  | cpy (d : Dst) (w : BitVec 4) (a : Src) (acq rel : Bool)
  | cpys (d : Dst) (w : BitVec 4) (a : Src) (acq rel : Bool)
  | gth (f : Fmt) (d : Dst) (w : BitVec 4) (a : Src) (acq rel : Bool)
  | sct (f : Fmt) (d : Dst) (w : BitVec 4) (a b : Src) (acq rel : Bool)
  | ltb (d : Dst) (w : BitVec 4) (a b : Src) (acq rel : Bool)
  | lta (d : Dst) (w : BitVec 4) (a b : Src) (acq rel : Bool)
  | ltd (d : Dst) (w : BitVec 4) (a b : Src) (acq rel : Bool)
  | ltp (d : Dst) (w : BitVec 4) (a b : Src) (acq rel : Bool)
  | ltq (d : Dst) (w : BitVec 4) (a : Src) (acq rel : Bool)
  | dsc (d : Dst) (w : BitVec 4) (a : Src) (acq rel : Bool)
  -- matrix array, group 0xB (R236 to R242)
  | mma (f : Fmt) (bank : Bool) (kcnt : BitVec 8) (chn : Bool)
  | mmas (f : Fmt) (sp : Spar) (bank : Bool) (kcnt : BitVec 8) (chn : Bool)
  | ldt (f : Fmt) (e : Edge) (w : BitVec 4) (kcnt : BitVec 8)
  | mdl (mreg : BitVec 4) (kcnt : BitVec 8)
  | drn (f : Fmt) (bank : Bool)
  | zac (f : Fmt) (bank : Bool)
  | cmpr (f : Fmt) (sp : Spar) (kcnt : BitVec 8)
  | accl (f : Fmt) (bank : Bool)
  | lde (f : Fmt) (e : Edge) (w : BitVec 4) (kcnt : BitVec 8)
  -- streams, collectives and narrow-tree barriers, group 0xC (R246 to R250)
  | mrg (f : Fmt) (r : Red) (d : Dst) (a b : Src)
  | dns (f : Fmt) (d : Dst) (a : Src)
  | sps (f : Fmt) (d : Dst) (a : Src)
  | cred (f : Fmt) (r : Red) (d : Dst) (a : Src) (grp : BitVec 4)
  | cbcs (f : Fmt) (d : Dst) (a : Src) (grp : BitVec 4)
  | nbar (d : Dst) (grp : BitVec 4)
  | nred (f : Fmt) (r : Red) (d : Dst) (a : Src) (grp : BitVec 4)
  -- tokens, seams and planes
  | tokenArrival (n : NodeId) (l : Letter) (port : Fin 4)
  | cvConversion (n : NodeId) (l : Letter) (port : Fin 4)
  | lazyRequest (n : NodeId) (l : Letter) (out : Nat) (k : Nat)
  | outPortSend (n : NodeId) (l : Letter) (out : Nat)
  | writeBack (n : NodeId) (l : Letter) (op : Nat)
  | microOperationStart (n : NodeId)
  | autoEosForward (n : NodeId) (l : Letter)
  | markAction (n : NodeId) (l : Letter)
  | markTimeout (n : NodeId) (l : Letter) (port : Fin 4)
  | poisonForward (n : NodeId) (l : Letter)
  | planeLoadComplete (p : Nat) (l : Letter)
  | scratchpadZeroing (p : Nat)
  -- memory
  | accessPerform (acc : Nat) (ecc : Ecc)
  | windowRelease (i : Nat)
  | exchangeSwap (i : Nat)
  | nbarRelease (i grp : Nat)
  | nredDelivery (i grp : Nat)
  | translationAnswer (acc : Nat)
  | shootdown (c : Nat)
  | rltMarkEmerge (c : Nat) (n : NodeId)
  | lowWaterQuery (c : Nat)
  | lowWaterResult (c : Nat)
  | reclaim (c : Nat)
  | reclaimAnswer (c : Nat)
  | ltSerialisation (acc : Nat)
  | layerUnitLoad (acc : Nat)
  | pressAccept (die : Nat)
  | pressComplete (die : Nat)
  | pressFail (die : Nat)
  | copyStart (n : NodeId)
  | copyComplete (n : NodeId)
  | promiseMissed (n : NodeId)
  | sliceBankZeroing (level sw way : Nat)
  -- matrix array, streams, collectives
  | laneDistribute (p : Nat) (l : Letter) (e : Edge)
  | tileComplete (p : Nat) (l : Letter)
  | drainComplete (p : Nat) (l : Letter)
  | edgeLoadComplete (p : Nat) (l : Letter) (e : Edge)
  | metadataLoadComplete (p : Nat) (l : Letter)
  | cmprComplete (p : Nat) (l : Letter)
  | streamOperationEnd (n : NodeId)
  | collectiveResult (n : NodeId) (parts : List Partial)
  -- placement
  | patternFetch (c pat : Nat)
  | cutterSearch (req : Nat)
  | memberPlaced (req : Nat)
  | bundleWaitBound (b : Nat)
  | castComplete (i : Nat)
  | placementTimeout (b : Nat)
  | castResume (i : Nat)
  | spillWrite (n : NodeId) (l : Letter) (out : Fin 4)
  | spillStall (n : NodeId) (l : Letter) (out : Fin 4)
  | instanceEnd (i : Nat)
  -- queues
  | nopPacket (q : Nat)
  | launch (q : Nat)
  | barrier (q : Nat)
  | copy (q : Nat)
  | signal (q : Nat)
  | pattern (q : Nat)
  | spawned (c : Nat)
  | packetSkip (q : Nat)
  | barrierPeriodicEvaluation
  | barrierTimeout (run : Nat)
  | copyPacketComplete (run : Nat)
  | completionAdd (run : Nat)
  -- traps, pre-emption, debugging
  | trapDelivery (core : Nat)
  | replayHold (i : Nat)
  | replayDivergence (i : Nat)
  | watchdog (i : Nat)
  | quiescence (i : Nat)
  | pmkInjection (c : Nat)
  | switchOutSave (i : Nat)
  | switchIn (i : Nat)
  | tstep (core n : Nat)
  | dbgcmdFreeze (c : Nat)
  | dbgcmdStep (c : Nat)
  | dbgcmdResume (c : Nat)
  | stepReport (c : Nat)
  | planeParity (n : NodeId) (l : Letter)
  -- tenancy
  | sliceEnd (pt : Nat)
  | eslInjection (pt : Nat)
  | outgoingLetterSave (p : Nat)
  | panelExchange (p : Nat)
  | prectWrite (h : Flosy) (pt : Nat) (v : BitVec 64)
  | selvageRewrite (pt : Nat)
  | vflimWrite (h : Flosy) (vf k : Nat) (v : BitVec 64)
  -- ports and peers
  | pcfgWrite (h : Flosy) (q : Nat) (v : BitVec 64)
  | linkDown (link : Nat)
  | peerAccessArrival (src seq c va : Nat) (op : PeerOp)
  -- host commands
  | regRd (h : Flosy) (off len : Nat)
  | regWr (h : Flosy) (off len : Nat) (v : BitVec 64)
  | memRd (h : Flosy) (c va len : Nat)
  | memWr (h : Flosy) (c va : Nat) (data : List Byte)
  | doorbell (h : Flosy) (c qcb : Nat) (tail : BitVec 64)
  | makeResident (h : Flosy) (c qcb : Nat)
  | switchOut (h : Flosy) (c qcb : Nat)
  | enable (h : Flosy) (c qcb : Nat)
  | resume (h : Flosy) (c qcb : Nat)
  | disable (h : Flosy) (c qcb : Nat)
  | queueDisabled (q : Nat)
  | sigwr (h : Flosy) (c va : Nat) (v : BitVec 64)
  | power (h : Flosy) (island st : Nat)
  | powerTransitionComplete (island : Nat)
  | attest (h : Flosy) (nonce : List Byte)
  | powerOnReset (imgs : List FwImage)
  | thermalTrip (temp : Nat)
  | tripRecovery
  | linkUp (link : Nat)
  | memoryLinkDown (link : Nat)
  | linkLevelRetry (link : Nat)
  | connectionSetUp (port : Nat) (k : ConnKind)
  deriving DecidableEq, Repr, Inhabited

end Sys2Proof
end

