-- ==== Sys2Proof/Config.lean ====
section
/-! DEFINITION. What the spec leaves to the implementation or to the outside world: the order in which
the units of the device act, and the values it does not fix. Every constant here is opaque: no proof
can see its value (log entries 1, 2 and 8). -/

namespace Sys2Proof

/-- One turn of the device: which unit acts next. `issue` lets a node issue from a slot (R15, R328),
`micro` lets a node's bespoke sequencer start its next micro-operation (R193), `core` lets an armature
core run its next position (R91), `work` advances the engine of a node's plane by one cycle (R229 to
R247), `qcopy` lets a queue copy engine move its next chunk (R317), `event` is one of the device's own steps or an input from outside, `tick` is the end of a
device cycle (R1), `press` lets a press engine write its next row (R225, R290), and `upset` puts a bit error into a word of
memory, one that the protection code cannot correct where `double` (R266); `message` is a Flosy message that arrives, as its bytes
(R415). DESIGN CHOICE (log 1): the spec fixes what each unit does, not the order in which
units act within a cycle. -/
inductive Turn where
  | issue (n : NodeId)
  | micro (n : NodeId)
  | core (c : Nat)
  | work (n : NodeId) (l : Letter)
  | qcopy (e : Nat)
  | press (die : Nat)
  | upset (a : Nat) (double : Bool)
  | message (h : Flosy) (bytes : List Byte)
  | event (i : Instr)
  | tick
  deriving DecidableEq, Repr, Inhabited

/-- The turn the device takes when no turn is pending in the state: a free value (log 1). -/
opaque Config.turn : Nat → Turn

/-- A word the spec bounds but does not fix, drawn afresh for each use (log 2). -/
opaque Config.freeWord : Nat → Word

/-- A natural number the spec does not fix, drawn afresh for each use (log 2). -/
opaque Config.freeNat : Nat → Nat

/-- Which of the two neighbouring results the model's enclosure of a transcendental leaves, when it leaves two
(R65 fixes it; log 10): by operation and operand bits. -/
opaque Config.transUp : Nat → Nat → Bool

/-- SHA-512 of a byte string (R421, R422). The spec names the function and does not define it (log 8). -/
opaque Config.sha512 : List Byte → List Byte

/-- The interleave map that boot firmware writes: `IRMAP0` and `IRMAP1` of each region (R271, R272, R420; log 8). -/
opaque Config.bootMap : List (Nat × Nat)

/-- The secret in the die's fuses (R422; log 8). -/
opaque Config.fusedSecret : List Byte

/-- The root Ed25519 and ML-DSA-65 public keys in fuses, which verify firmware images (R421; log 8). -/
opaque Config.rootKeys : List Byte × List Byte

/-- The private and public halves of the Ed25519 identity key pair that a secret derives (R422; log 8). -/
opaque Config.edDerive : List Byte → List Byte × List Byte

/-- The private and public halves of the ML-DSA-65 identity key pair that a secret derives (R422; log 8). -/
opaque Config.mlDerive : List Byte → List Byte × List Byte

/-- An Ed25519 signature: private key, message (R421, R422; log 8). -/
opaque Config.edSign : List Byte → List Byte → List Byte

/-- An ML-DSA-65 signature: private key, message (R421, R422; log 8). -/
opaque Config.mlSign : List Byte → List Byte → List Byte

/-- Whether an Ed25519 signature verifies: public key, message, signature (R421; log 8). -/
opaque Config.edVerify : List Byte → List Byte → List Byte → Bool

/-- Whether an ML-DSA-65 signature verifies: public key, message, signature (R421; log 8). -/
opaque Config.mlVerify : List Byte → List Byte → List Byte → Bool

/-- The two signatures that the root keys put on the certificate of a die's two public keys: the Ed25519 one and the ML-DSA-65 one
(R422; log 8). -/
opaque Config.rootSigs : List Byte → List Byte → List Byte × List Byte

end Sys2Proof
end

