-- ==== Sys2Proof/Machine/State.lean ====
section
/-! DEFINITION. The state of the VL7 as plain data: one structure per kind of unit, and `State.reset`,
the device right after power-on (R2, R420). A map from numbers to units is a list of pairs; a unit that
is not listed holds its default, which is its reset or post-load value (R14). Docstrings name the rule
that gives each piece of state. -/

namespace Sys2Proof.Machine
open Sys2Proof

/-- A map as a list of pairs, at most one for each key; an absent key reads as the type's default. -/
abbrev Map (κ ν : Type) := List (κ × ν)

/-! ### Tokens at ports -/

/-- A token in an in-port's FIFO with the fault it raises when it becomes the head, if arrival already
fixed one (R22, R117), whether cv has already returned it, and its sender, none for a token from
outside the device (R384). -/
structure Flit where
  tok : Token := {}
  bad : Option Cause := none
  back : Bool := false
  from_ : Option (NodeId × Letter) := none
  deriving DecidableEq, Repr, Inhabited

/-- An operand token that a firing consumed: its port, the token as it stood in the FIFO, and whether it stays at the head, a
sticky one whose residue the read has lowered (R20, R21, R371). -/
structure Consumed where
  port : Nat := 0
  flit : Flit := {}
  stays : Bool := false
  deriving DecidableEq, Repr, Inhabited

/-- A token travelling on a seam with the first cycle in which it can be a head, the one after it reaches the in-port
(R25, R40, R172, R258); `seg` says that it comes out of a spill segment (R353, R355). -/
structure Flight where
  tok : Token := {}
  due : Nat := 0
  from_ : Option (NodeId × Letter) := none
  seg : Bool := false
  deriving DecidableEq, Repr, Inhabited

/-- An in-port of a plane: R19 to R24, R40, R164, R167, R171, R258. `settled` says that the head has been
checked and its residue loaded (R10, R21 to R23); `callFed` says that the wiring of a call site has fed it (R167);
`freed` holds the cycles from which its last dequeued tokens no longer take an entry, which a sender learns over the
return wire (R24); `blk` counts the element tokens of an open block that have still to reach it, and `pend` is an injected mark that
waits for the last of them (R49). -/
structure InPort where
  fifo : List Flit := []
  settled : Bool := false
  residue : Nat := 0
  fed : Bool := false
  callFed : Bool := false
  credit : Nat := 0
  lane : List Flight := []
  buf : Option Flight := none
  cv : Option Flight := none
  markSince : Option Nat := none
  freed : List Nat := []
  blk : Nat := 0
  pend : Option Token := none
  deriving DecidableEq, Repr, Inhabited

/-- One entry of a memory port's return queue: the load and the index of its access, the token once the access has
performed, the commit window it counts in, and the first cycle in which it may depart (R207, R212, R257). Operation 0
is a mark or EOS that the port itself places. -/
structure RetEntry where
  op : Nat := 0
  k : Nat := 0
  tok : Option Token := none
  win : Option Nat := none
  due : Nat := 0
  deriving DecidableEq, Repr, Inhabited

/-- An out-port of a plane: its token slot, the operation that reserves it, the requests its lazy consumers have sent,
each with the consumer's place and the cycle from which it stands here, the return queue of a memory port, what happens
as the token departs, the cycle in which one last left, the first cycle in which the token may depart, and the element
tokens of an open block still to depart (R24 to R27, R49, R176, R178, R207, R257, R353). -/
structure OutPort where
  slot : Option Token := none
  res : Option Nat := none
  reqs : List (Nat × Nat) := []
  retq : List RetEntry := []
  swap : Bool := false
  heldSince : Option Nat := none
  left : Option Nat := none
  since : Nat := 0
  blk : Nat := 0
  deriving DecidableEq, Repr, Inhabited

/-! ### Windows and layered tensors -/

/-- The five spaces (R37). -/
inductive Space where
  | scratch | slice | device | peer | exchange
  deriving DecidableEq, Repr, Inhabited

/-- A window of an instance (R35, R198, R199), with what placement bound (R392, R349, R223): `bank` is
the switch of a slice window, `base` is after relocation and way offset, `handle` the handle's VA. -/
structure Window where
  described : Bool := false
  space : Space := .scratch
  rd : Bool := false
  wr : Bool := false
  at_ : Bool := false
  swz : Nat := 0
  cwe : Bool := false
  ord : Bool := false
  lset : Bool := false
  hv : Bool := false
  hslot : Nat := 0
  cwn : Nat := 0
  len : Nat := 0
  base : Nat := 0
  level : Nat := 0
  bank : Nat := 0
  dx : Int := 0
  dy : Int := 0
  peer : Nat := 0
  roww : Nat := 0
  rstr : Nat := 0
  handle : Option Nat := none
  deriving DecidableEq, Repr, Inhabited

/-- A layer of a latched list: its attach number and its descriptor as read at the latch (R222, R223). -/
structure Layer where
  seq : Nat := 0
  low : Bool := false
  vfmt : Fmt := .f32
  rank : Nat := 0
  nnz : Nat := 0
  ava : Nat := 0
  bva : Nat := 0
  ok : Bool := true
  deriving DecidableEq, Repr, Inhabited

/-- A latched snapshot of a handle record (R223). -/
structure Snapshot where
  ok : Bool := false
  base : Nat := 0
  bver : Nat := 0
  rows : Nat := 0
  cols : Nat := 0
  efmt : Fmt := .f32
  rstride : Nat := 0
  layers : List Layer := []
  deriving DecidableEq, Repr, Inhabited

/-- A translated page, as tiles and latch files hold it (R274, R276, R277). `absent` is a run-ahead
answer of not present, `bad` a walk that met a word which could not be read (R266, R272), which no tile or file keeps; `size` is in
bytes. -/
structure Page where
  vpn : Nat := 0
  pa : Nat := 0
  size : Nat := 65536
  r : Bool := false
  w : Bool := false
  at_ : Bool := false
  loc : Nat := 0
  d : Bool := false
  absent : Bool := false
  bad : Bool := false
  leafPa : Nat := 0
  deriving DecidableEq, Repr, Inhabited

/-- The latch file of one window of one memory port or copy node (R277, R283, R223, R224): the translated
pages, the low-water mark, the last two distinct pages, the snapshot, and the latched handle's VA. -/
structure LatchFile where
  pages : List Page := []
  low : Option Nat := none
  recent : List Nat := []
  snap : Option Snapshot := none
  handle : Option Nat := none
  deriving DecidableEq, Repr, Inhabited

/-! ### In-flight instructions -/

/-- What an in-flight instruction is waiting for, beyond its latency; `pe` is a `PE` update that goes ahead of its instruction
(R260, R358). -/
inductive OpKind where
  | lane
  | bsp
  | access
  | fence (scope : Nat)
  | copy
  | call (bundle : Nat)
  | spawn
  | pload (pat : Nat)
  | move
  | xbar | nbar (grp : Nat) | nred (grp : Nat)
  | mxa
  | stream
  | press
  | wrsr
  | bsld
  | bsbd
  | prio
  | pe
  deriving DecidableEq, Repr, Inhabited

/-- An in-flight instruction of a plane (R17, R18, R25). `ready` says its result is in `toks` (and `preds`),
`due` is the earliest cycle of write-back, `ops` are the operand tokens the firing consumed with their
ports, `fault` a value condition to be raised at write-back (R60). A memory port's operation has `total`
accesses of which `done` have performed; `queued` sends its results through the return queue and `load` says that it is a
load, whose results leave in issue order (R207). `fire` is its firing's number (R370). -/
structure Op where
  id : Nat := 0
  slot : Nat := 0
  tw : Word := 0
  aw : Word := 0
  issued : Nat := 0
  due : Nat := 0
  kind : OpKind := .lane
  ready : Bool := true
  dst : Dst := .disc
  toks : List Token := []
  preds : List (Nat × Bool) := []
  pmask : List Nat := []
  gmask : List Nat := []
  ops : List Consumed := []
  fault : Option Cause := none
  win : Nat := 0
  arg : Nat := 0
  done : Nat := 0
  total : Nat := 0
  fold : Word := 0
  queued : Bool := false
  load : Bool := false
  fire : Nat := 0
  deriving DecidableEq, Repr, Inhabited

/-! ### Memory-port state -/

/-- A store held in a commit buffer (R212): its window, the number and operation it was issued under, its instance and launch, its
space, peer, address and home, and the order that it asks for (R204, R205). -/
structure BufStore where
  id : Nat := 0
  win : Nat := 0
  op : Nat := 0
  k : Nat := 0
  inst : Nat := 0
  run : Nat := 0
  ctx : Nat := 0
  space : Space := .scratch
  peer : Nat := 0
  va : Nat := 0
  home : Nat := 0
  opAt : Nat := 0
  acq : Bool := false
  rel : Bool := false
  ord : Bool := false
  val : Word := 0
  deriving DecidableEq, Repr, Inhabited

/-- What a memory-port plane holds beside a stitch's state: tokens since the last WIN mark by window and
out-port (window × 4 + out-port) and marks sent by window, both also as they stood at the last release, commit buffers,
committed counts, the log of consumed tokens and the tokens a replay still has to take from it, how long the port is busy, and the
operation whose later tokens it is taking (R207, R209, R212, R368, R370, R373). -/
structure MemPort where
  since : Map Nat Nat := []
  wins : Map Nat Nat := []
  sinceRel : Map Nat Nat := []
  winsRel : Map Nat Nat := []
  buf : List BufStore := []
  committed : Nat := 0
  discarded : Nat := 0
  log : List (Nat × Token) := []
  logOver : Bool := false
  relog : List (Nat × Token) := []
  busy : Nat := 0
  feed : Option Nat := none
  held : Option BufStore := none
  deriving DecidableEq, Repr, Inhabited

/-- A copy of a copy node, memory port or queue copy engine (R217 to R219, R317): the slot and words of its
firing, its windows and extent, and the snapshot that its source is read through when that is a handle window, as it stood
at issue (R305); `run` is the launch whose completion waits for it (R318, R335), `pos` the byte reached, `since` the cycle from
which its next chunk has waited (R268). -/
structure CopyJob where
  op : Nat := 0
  slot : Nat := 0
  tw : Word := 0
  aw : Word := 0
  fire : Nat := 0
  inst : Nat := 0
  ctx : Nat := 0
  swin : Window := {}
  dwin : Window := {}
  gwin : Window := {}
  signal : Bool := false
  soff : Nat := 0
  doff : Nat := 0
  goff : Nat := 0
  clen : Nat := 0
  rows : Nat := 1
  sstr : Nat := 0
  dstr : Nat := 0
  swn : Nat := 0
  dwn : Nat := 0
  snap : Option Snapshot := none
  run : Nat := 0
  issued : Nat := 0
  promise : Nat := 0
  missed : Bool := false
  pos : Nat := 0
  since : Option Nat := none
  started : Bool := false
  acq : Bool := false
  rel : Bool := false
  deriving DecidableEq, Repr, Inhabited

/-! ### Matrix array -/

/-- The block structure of a lane of X8 or X4 (R50, R51): the header's payload and format and how many elements
of its block have been taken; 32 when no block is open. -/
structure BlkSt where
  hdr : Word := 0
  fmt : Fmt := .x8
  used : Nat := 32
  deriving DecidableEq, Repr, Inhabited

/-- An accumulator bank: 256 accumulators row-major, its kind and scale state (R228). -/
structure Bank where
  acc : Vector Word 256 := Vector.replicate 256 0
  int : Bool := false
  s : Option Bool := none
  deriving DecidableEq, Repr, Inhabited

/-- A token that a row or column of the grid has taken from its lane: the cycle, its block's header, and whether it is the
first of its block (R50, R230, R231). -/
structure Taken where
  at_ : Nat := 0
  tok : Token := {}
  hdr : Word := 0
  first : Bool := false
  deriving DecidableEq, Repr, Inhabited

/-- A tile operation in the grid (R231, R236): the cycle of its issue, the tokens that each of the 16 rows and columns has
taken, and the steps that each of the 256 elements has performed; `fin` is the cycle after its last element's last step. -/
structure TileOp where
  op : Nat := 0
  fmt : Fmt := .f32
  bank : Bool := false
  k : Nat := 0
  spar : Spar := .dense
  chn : Bool := false
  issued : Nat := 0
  rows : Vector (List Taken) 16 := Vector.replicate 16 []
  cols : Vector (List Taken) 16 := Vector.replicate 16 []
  steps : Vector Nat 256 := Vector.replicate 256 0
  fin : Option Nat := none
  deriving DecidableEq, Repr, Inhabited

/-- A running drain or accumulator load (R239, R240). -/
structure DrainOp where
  op : Nat := 0
  fmt : Fmt := .f32
  bank : Bool := false
  acc : Bool := false
  route : Nat := 0
  pos : Nat := 0
  since : Nat := 0
  out : List (Nat × Token) := []
  deriving DecidableEq, Repr, Inhabited

/-- A running edge loader (R241): `pos` cycles of reading done and `blk` block headers delivered, the next read not before
cycle `next`; `slab` holds the tokens that an LDT has assembled and a lane has still to take, by lane. -/
structure LoadOp where
  op : Nat := 0
  trans : Bool := false
  fmt : Fmt := .f32
  win : Nat := 0
  addr : Nat := 0
  k : Nat := 0
  pos : Nat := 0
  blk : Nat := 0
  next : Nat := 0
  slab : List (Nat × Token) := []
  deriving DecidableEq, Repr, Inhabited

/-- A running metadata load (R238). -/
structure MdlOp where
  op : Nat := 0
  reg : Nat := 0
  left : Nat := 0
  deriving DecidableEq, Repr, Inhabited

/-- A running compression (R242). -/
structure CmprOp where
  op : Nat := 0
  fmt : Fmt := .f32
  spar : Spar := .s24
  k : Nat := 0
  taken : Nat := 0
  s : Option Bool := none
  vals : List Word := []
  kept : List Word := []
  meta_ : Nat := 0
  nkept : Nat := 0
  placed : Nat := 0
  metas : List Word := []
  deriving DecidableEq, Repr, Inhabited

/-- What a chained tile carries to the next array: its format, `SPAR`, number of steps and metadata (R232). -/
structure ChainTile where
  fmt : Fmt := .f32
  spar : Spar := .dense
  k : Nat := 0
  m : Vector Word 16 := Vector.replicate 16 0
  deriving DecidableEq, Repr, Inhabited

/-- The matrix array of one plane (R228 to R242): lanes 0 to 15 are west, 16 to 31 north; `dw` and `dn` are the cycles
from which the distributors may move again; `reqs` are the requests of lazy consumers of its drain ports, by drain route × 4 +
port, with the cycle from which each stands here (R24, R240); `cw` and `cn` are the tiles whose tokens chaining brings (R232); `east` and
`south` hold the tokens that leave the grid there, by lane, with the cycle in which each does (R231). -/
structure Mxa where
  lanes : Vector (List Token) 32 := Vector.replicate 32 []
  blks : Vector BlkSt 32 := Vector.replicate 32 {}
  jw : Nat := 0
  jn : Nat := 0
  bank0 : Bank := {}
  bank1 : Bank := {}
  m : Vector Word 16 := Vector.replicate 16 0
  sbank0 : Bank := {}
  sbank1 : Bank := {}
  sm : Vector Word 16 := Vector.replicate 16 0
  tiles : List TileOp := []
  drain : Option DrainOp := none
  loadW : Option LoadOp := none
  loadN : Option LoadOp := none
  mdl : Option MdlOp := none
  cmpr : Option CmprOp := none
  east : List (Nat × Nat × Token) := []
  south : List (Nat × Nat × Token) := []
  cw : List ChainTile := []
  cn : List ChainTile := []
  dw : Nat := 0
  dn : Nat := 0
  reqs : List (Nat × Nat) := []
  deriving DecidableEq, Repr, Inhabited

/-! ### Stream engine of merge nodes and port units -/

/-- The decode state of one input of a stream operation (R243, R244, R248). -/
structure StreamIn where
  port : Nat := 0
  dense : Bool := false
  run : Option Nat := none
  lane : Nat := 0
  last : Option Nat := none
  idx : Option Nat := none
  pend : List (Nat × Word) := []
  s : Option Bool := none
  ended : Bool := false
  count : Nat := 0
  deriving DecidableEq, Repr, Inhabited

/-- The operations of the stream engine (R246, R247, R249). -/
inductive StreamKind where
  | mrg | dns | sps | cred | cbcs
  deriving DecidableEq, Repr, Inhabited

/-- What a stream engine keeps across marks and in its shadow: output form, fill history, pending entry,
partly filled token, and `OVF` (R245, R246). -/
structure StreamOut where
  dense : Bool := false
  hist : List Nat := []
  emitted : Nat := 0
  base : Option Nat := none
  open_ : Option (Nat × List Word) := none
  next : Nat := 0
  ovf : Nat := 0
  deriving DecidableEq, Repr, Inhabited

/-- A running stream operation (R245, R249, R411). `idx` is the next index of a DNS run or the next element that a
collective completes, `resAt` the cycle in which pieces from the network last came in, `acc` holds entries or partial sums by index, `child` counts the elements received from each
child, `ceos` the counts at which children ended, `down` is the final stream still to be placed, `placed` counts the
elements placed on d, and `up` says that the end has gone to the parent. -/
structure StreamOp where
  op : Nat := 0
  letter : Letter := .a
  kind : StreamKind := .mrg
  fmt : Fmt := .f32
  red : Red := .sum
  dst : Dst := .disc
  ina : StreamIn := {}
  inb : Option StreamIn := none
  queue : List Token := []
  grp : Nat := 0
  idx : Nat := 0
  acc : List (Nat × Word) := []
  child : Map Nat Nat := []
  ceos : Map Nat Nat := []
  down : List Partial := []
  placed : Nat := 0
  sbit : Option Bool := none
  up : Bool := false
  fin : Bool := false
  resAt : Option Nat := none
  deriving DecidableEq, Repr, Inhabited

/-! ### Planes and nodes -/

/-- The checkpoint shadow of a plane (R14). -/
structure Shadow where
  g : Vector Token 8 := Vector.replicate 8 {}
  p : Vector Bool 8 := Vector.replicate 8 false
  residue : Vector Nat 4 := Vector.replicate 4 0
  deriving DecidableEq, Repr, Inhabited

/-- Why a plane issues nothing (R165, R365, R366, R368, R373, R376, R381). -/
inductive Stop where
  | run
  | poison
  | fault (trap : Nat)
  | stall (trap : Nat)
  | held
  | winHold
  | pmkHold
  deriving DecidableEq, Repr, Inhabited

/-- One plane of a node (R14 and the tables of R108, R212, R228, R245, R370). `psn` is the PSN
that its poison or fault stop sends and `psnDone` the places it has reached (R365); `worked` is the cycle in which its
engine last worked (log 1), `out` says that a swap has left it inactive, to be swapped back or overwritten (R177), `phase` is the
cycle in which it last became active (R293), `bspArgs` the slot of a faulted BSP that a handler has continued, with the tokens it read at its
issue (R195), `inject` a PMK or ESL mark injected here that waits for its mark action (R376, R394), and `lastFire` the slot that
issued last, 15 for an action (R380). -/
structure Plane where
  slots : Vector (Word × Word) 16 := Vector.replicate 16 (0, 0)
  p : Vector Bool 8 := Vector.replicate 8 false
  g : Vector Token 8 := Vector.replicate 8 {}
  h : Vector Token 8 := Vector.replicate 8 {}
  ins : Vector InPort 4 := Vector.replicate 4 {}
  outs : Vector OutPort 4 := Vector.replicate 4 {}
  inw : Vector Word 4 := Vector.replicate 4 0
  rw : Vector Word 4 := Vector.replicate 4 0
  sw : Vector Word 4 := Vector.replicate 4 0
  pcw : Word := 0
  ext : List Word := []
  shadow : Shadow := {}
  bspArgs : Option (Nat × List Token) := none
  active : Bool := false
  basted : Bool := false
  out : Bool := false
  halted : Bool := false
  stop : Stop := .run
  frozen : Bool := false
  budget : Option Nat := none
  replay : Option Nat := none
  replaySince : Nat := 0
  ops : List Op := []
  fires : Nat := 0
  lastFire : Nat := 15
  psn : Option Word := none
  psnDone : List Nat := []
  winCopy : Option Token := none
  inject : Option Token := none
  pid : Nat := 0
  patVer : Nat := 0
  inst : Nat := 0
  mp : MemPort := {}
  latch : Map Nat LatchFile := []
  copies : List CopyJob := []
  mxa : Mxa := {}
  sout : StreamOut := {}
  ssout : StreamOut := {}
  parity : Option Nat := none
  phase : Option Nat := none
  worked : Option Nat := none
  deriving DecidableEq, Repr, Inhabited

/-- A running bespoke sequence (R192 to R195): the invoking plane's operation, the position, the h
registers, the micro-operations in flight, the g and p writes not yet visible, the operand tokens read at issue, and the
value faults that a write-back will raise, by cycle and position (R133, R135). -/
structure Seqr where
  letter : Letter := .a
  op : Nat := 0
  start : Nat := 0
  len : Nat := 0
  upc : Nat := 0
  count : Nat := 0
  started : Bool := false
  next : Option Nat := none
  readyAt : Nat := 0
  h : Vector Token 8 := Vector.replicate 8 {}
  g : Vector Token 8 := Vector.replicate 8 {}
  p : Vector Bool 8 := Vector.replicate 8 false
  gw : List Nat := []
  pw : List Nat := []
  busyH : Map Nat Nat := []
  busyG : Map Nat Nat := []
  busyP : Map Nat Nat := []
  args : List Token := []
  late : List (Cause × Nat × Nat) := []
  deriving DecidableEq, Repr, Inhabited

/-- A node: its two planes and what they share (R14, R15, R136, R192, R245, R328). -/
structure Node where
  pa : Plane := {}
  pb : Plane := {}
  ca : Int := 0
  cb : Int := 0
  last : Letter := .b
  trans : Nat := 0
  seqr : Option Seqr := none
  lastIssue : Option Nat := none
  engine : Option StreamOp := none
  deriving DecidableEq, Repr, Inhabited

/-! ### Patterns -/

/-- A call-site descriptor (R338): callee pattern, and the pairs of each member. -/
structure Pair where
  cport : Nat := 0
  kport : Nat := 0
  result : Bool := false
  deriving DecidableEq, Repr, Inhabited

/-- A call-site descriptor (R338). -/
structure Site where
  cpid : Nat := 0
  members : List (List Pair) := [[]]
  deriving DecidableEq, Repr, Inhabited

/-- A node record of an image (R124, R125). -/
structure NodeRec where
  node : NodeId := .panel 0 0
  npl : Bool := false
  words : List Word := []
  deriving DecidableEq, Repr, Inhabited

/-- A panel record of an image (R124); `size` is its number of 32-bit words (R175). -/
structure PanelRec where
  dx : Nat := 0
  dy : Nat := 0
  routes : List Word := []
  nodes : List NodeRec := []
  size : Nat := 0
  deriving DecidableEq, Repr, Inhabited

/-- A validated pattern (R32, R123 to R126). In `tnodes` a merge node is named by level and unit, a port
unit by port and unit. -/
structure Pattern where
  pid : Nat := 0
  ver : Nat := 0
  fw : Nat := 1
  fh : Nat := 1
  level : Nat := 0
  len : Nat := 0
  wins : List Window := []
  sites : List Site := []
  handles : List Nat := []
  panels : List PanelRec := []
  tnodes : List NodeRec := []
  deriving DecidableEq, Repr, Inhabited

/-! ### Instances, launches, placement -/

/-- A launch header (R33, R34). -/
structure Work where
  nf : Nat := 1
  widths : List Nat := []
  origins : List Nat := []
  extents : List Nat := []
  fixed : List Nat := []
  deriving DecidableEq, Repr, Inhabited

/-- How an instance stands (R39, R183, R349, R351, R376, R379); `moving` is one that is being pleated: the cycle in which its
plane load ends, its new origin and letter, and the rise of its scratchpad windows. -/
inductive InstSt where
  | live
  | cutting
  | moving (due origin rise : Nat) (l : Letter)
  | casting (due : Nat)
  | cast
  | saved
  deriving DecidableEq, Repr, Inhabited

/-- A call seam wired by placement (R340): the sender's out-port and the targets. -/
structure Wire where
  caller : Nat := 0
  callee : Nat := 0
  panel : Nat := 0
  node : Nat := 0
  letter : Letter := .a
  out : Nat := 0
  entries : List Nat := []
  result : Bool := false
  deriving DecidableEq, Repr, Inhabited

/-! ### Accesses -/

/-- What one access does at its home (R206, R209, R214, R216, R226). -/
inductive AccAct where
  | load
  | store (v : Word)
  | atomic (op : Nat) (fmt : Fmt) (b c : Word)
  | sigw (v : Word)
  | bupd (fmt : Fmt) (b : Word)
  | bred (fmt : Fmt) (n : Nat)
  | dsc
  | lt (op : Nat) (a b : Word)
  deriving DecidableEq, Repr, Inhabited

/-- Where one access stands: waiting for a translation (R277), ready to perform, stalled by a fault (R281,
R413), or, of a DSC, discarded and waiting for its marks to emerge at the nodes, layer units and press engines that hold the page
(R287). -/
inductive AccSt where
  | trans
  | ready
  | stalled (trap : Nat)
  | marks (at_ : Nat) (nodes : List NodeId) (units dies : List Nat)
  deriving DecidableEq, Repr, Inhabited

/-- One access of an engine node that has issued (R206 to R208). `va` is the offset in a physical space and
the VA in device and peer memory; `home` is its place in `State.mem`; `k` its index within its instruction; `run` the
launch whose completion waits for it (R318, R319), `opAt` the cycle in which its instruction issued (R293). `commit` says that it is a
buffered store on its way home (R212), `swept` counts the words that a BRED has read and `part` is their sum (R216, R268), or says
that a layer unit has fetched its data (R289); `resent` is the number from which accesses to its peer wait for it, once a link has
failed under it (R412). -/
structure Access where
  node : NodeId := .panel 0 0
  letter : Letter := .a
  op : Nat := 0
  k : Nat := 0
  inst : Nat := 0
  ctx : Nat := 0
  space : Space := .scratch
  win : Nat := 0
  act : AccAct := .load
  fmt : Fmt := .w32
  va : Nat := 0
  home : Nat := 0
  viaTile : Bool := false
  layered : Option Snapshot := none
  lset : Bool := false
  due : Nat := 0
  acq : Bool := false
  rel : Bool := false
  ord : Bool := false
  xn : Nat := 0
  peer : Nat := 0
  run : Nat := 0
  link : Option Nat := none
  issued : Nat := 0
  opAt : Nat := 0
  commit : Bool := false
  swept : Nat := 0
  part : Option Word := none
  resent : Option Nat := none
  st : AccSt := .ready
  deriving DecidableEq, Repr, Inhabited

/-! ### Saved state -/

/-- What a letter of a panel is to the cutters and the loader (R173, R174, R180, R343, R349). -/
inductive Hold where
  | free
  | inst (i : Nat)
  | pleating (i : Nat)
  | basted (i pat : Nat)
  | loading (i pat due : Nat)
  | claimed (req : Nat)
  deriving DecidableEq, Repr, Inhabited

/-- What a panel keeps for one plane letter: the route table (R112), the cv table (R117), the bespoke store
and bindings (R118), its holder (R343), and the image, with its `NPL`, that a load in progress writes
(R173, R342). `ploads` lists the PLOADs that wait, with their operations and patterns (R174); `uses` holds what each
bound sequence reads and writes, fixed as it was bound: g read, g written, p read, p written (R192); `was` the cycle of the last
load's start and the instance and pattern of the basted planes that it replaces (R174). -/
structure PanelSide where
  routes : Map Nat Word := []
  cvt : Vector Word 8 := Vector.replicate 8 0
  micro : Map Nat Word := []
  bind : Map Nat Word := []
  hold : Hold := .free
  ploads : List (NodeId × Letter × Nat × Nat) := []
  uses : Map Nat (List Nat × List Nat × List Nat × List Nat) := []
  ldrec : Option Pattern := none
  ldnpl : Bool := false
  was : Option (Nat × Nat × Nat) := none
  deriving DecidableEq, Repr, Inhabited

/-- A plane of an instance that is cast or switched out, kept as data; what its units in memory hold is read back from
them (R351, R353, R377). -/
structure SavedPlane where
  node : NodeId := .panel 0 0
  letter : Letter := .a
  plane : Plane := {}
  deriving DecidableEq, Repr, Inhabited

/-- A letter of a panel of such an instance, kept as data. -/
structure SavedSide where
  panel : Nat := 0
  letter : Letter := .a
  side : PanelSide := {}
  deriving DecidableEq, Repr, Inhabited

/-- One arrival count of a barrier of an instance (R211, R250): panels that have arrived for generation
`gen`, with their operands, and the release cycle once all have. -/
structure Gather where
  gen : Nat := 1
  arrived : List (Nat × Nat) := []
  waiting : List (Nat × Nat) := []
  vals : List (Nat × Fmt × Red × Token) := []
  release : Option Nat := none
  deriving DecidableEq, Repr, Inhabited

/-- A handed-over pre-emption, cast or pleat in progress on an instance: why it is being cut (R185, R347,
R349, R351, R376). -/
inductive CutFor where
  | none
  | preempt
  | castBy (node : NodeId) (l : Letter) (op : Nat)
  | pleatBy (node : NodeId) (l : Letter) (op : Nat)
  | bundle
  deriving DecidableEq, Repr, Inhabited

/-- A placed copy of a pattern (R32, R34, R183 to R187, R340, R366 to R369, R377 to R379). `replay` is the trap whose replay
runs (R373), `savedSides`, `savedAccs` and `saved` hold what a cast or switched-out instance has no place for in memory;
`xn` and `xs` count the XBARs and swaps of its panels, by offset in the gusset (R210, R211); `quiet` counts the cycles in
which nothing of it has moved (R282). `spill` counts the entries that its spill segment holds (R286, R353), `callAt` is the stitch
that called it (R339, R352), and `fresh` the bundle of a member that was cast before its first placement (R348). -/
structure Inst where
  ctx : Nat := 0
  pat : Pattern := {}
  origin : Nat := 0
  letter : Letter := .a
  depth : Nat := 0
  caller : Nat := 0
  member : Nat := 0
  site : Nat := 0
  run : Nat := 0
  setCls : Nat := 0
  inhCls : Nat := 0
  relatch : Nat := 0
  twin : Nat := 0
  fault : Bool := false
  trap : Nat := 0
  tmulti : Nat := 0
  work : Work := {}
  wins : List Window := []
  st : InstSt := .live
  pleated : Bool := false
  winArr : List (NodeId × Letter) := []
  winAt : Option Nat := none
  pmkArr : List (NodeId × Letter) := []
  impr : Bool := false
  xbar : Gather := {}
  xn : Map Nat Nat := []
  xs : Map Nat Nat := []
  quiet : Nat := 0
  nbars : Map Nat Gather := []
  nreds : Map Nat Gather := []
  wires : List Wire := []
  cut : CutFor := .none
  saved : List SavedPlane := []
  savedSides : List SavedSide := []
  savedAccs : Map Nat Access := []
  castUnit : Option Nat := none
  cswUnit : Option Nat := none
  ways : List (Nat × Nat × Nat) := []
  spillSeg : Option (Nat × Nat) := none
  spill : Nat := 0
  callAt : Option (NodeId × Letter) := none
  fresh : Option Nat := none
  progress : Nat := 0
  idle : Nat := 0
  frozen : Bool := false
  replay : Option Nat := none
  age : Nat := 0
  tie : Nat := 0
  region : List (NodeId × Letter) := []
  logPorts : List (NodeId × Letter × Nat) := []
  deriving DecidableEq, Repr, Inhabited

/-- Who a placement request is for (R324, R346). -/
inductive ReqFor where
  | launch (run : Nat)
  | member (bundle m : Nat)
  deriving DecidableEq, Repr, Inhabited

/-- The state of a placement request: at a cutter's level, claiming the panels of a grant of a level one by one, loading
its planes until a cycle, or waiting at the top cutter (R344, R345, R356). -/
inductive ReqSt where
  | search (level : Nat)
  | claiming (origin level done due : Nat)
  | loading (origin : Nat) (due : Nat)
  | waiting
  deriving DecidableEq, Repr, Inhabited

/-- A placement request (R343 to R346): `at_` is the earliest cycle of its next search, `letter` the letter its
instance takes, `pleat` says that it enters the free letter of a held gusset (R349), `ways` are the slice ways it has claimed. -/
structure Req where
  ctx : Nat := 0
  pat : Pattern := {}
  for_ : ReqFor := .launch 0
  anchor : Nat := 0
  age : Nat := 0
  tiePanel : Nat := 0
  tieNode : Nat := 0
  work : Work := {}
  st : ReqSt := .search 1
  at_ : Nat := 0
  letter : Letter := .a
  pleat : Bool := false
  ways : List (Nat × Nat × Nat) := []
  deriving DecidableEq, Repr, Inhabited

/-- The state of one member of a bundle (R346 to R348); `ended` keeps the instance that it was, for the call token, and
whether that was pleated or cast (R181). -/
inductive MemberSt where
  | waiting
  | placed (inst : Nat)
  | pleated (inst : Nat)
  | cast (inst : Nat)
  | ended (inst : Nat) (pleat cast : Bool)
  deriving DecidableEq, Repr, Inhabited

/-- A call or bundle (R181, R346 to R348): `runs` are the caller's reserved route entries, by out-port, first
entry and length (R359). -/
structure Bundle where
  ctx : Nat := 0
  caller : Nat := 0
  node : NodeId := .panel 0 0
  letter : Letter := .a
  op : Nat := 0
  pat : Pattern := {}
  site : Nat := 0
  issued : Nat := 0
  members : List MemberSt := []
  runs : List (Nat × Nat × Nat) := []
  deriving DecidableEq, Repr, Inhabited

/-! ### Traps and armature cores -/

/-- A trap as it is queued and served, with the record of R370 that its entry sets; `ports` are the in-ports
whose heads are the operands of a firing that a replay has brought back (R371, R373); `lanes` the tokens that a faulting
tile had consumed from each of the 32 lanes (R236), `args` those that a faulting BSP read at its issue (R195). -/
structure Trap where
  cause : Cause := .internal
  node : NodeId := .panel 0 0
  letter : Letter := .a
  inst : Nat := 0
  ctx : Nat := 0
  slot : Nat := 0
  slotKind : Nat := 0
  fire : Nat := 0
  tw : Word := 0
  aw : Word := 0
  arg : Nat := 0
  va : Nat := 0
  acc : Nat := 0
  upc : Option Nat := none
  done : Nat := 0
  ops : List Consumed := []
  op : Nat := 0
  ports : List Nat := []
  prec : Bool := false
  phase : Bool := false
  div : Bool := false
  px : Option (Nat × Bool) := none
  lanes : List Nat := []
  args : List Token := []
  deriving DecidableEq, Repr, Inhabited

/-- An entry of an image: a token and whether it is present (R370); of a token that a FIFO holds also what arrival knew of it
and its sender (R22, R384). -/
structure Entry where
  tok : Token := {}
  present : Bool := false
  bad : Option Cause := none
  back : Bool := false
  from_ : Option (NodeId × Letter) := none
  deriving DecidableEq, Repr, Inhabited

/-- The image of a node plane that a handler sees and changes (R370, R371): three FIFO entries of each in-port,
the out-port slots, registers, predicates, residues and the control word. `opd` names the ports whose head is
still an operand of the faulting firing; `shown` counts the tokens of each FIFO that its image shows; `more` holds what EMUL has
appended behind an out-port slot, by out-port (R190). -/
structure Image where
  slots : Vector Entry 12 := Vector.replicate 12 {}
  outs : Vector Entry 4 := Vector.replicate 4 {}
  more : List (Nat × Token) := []
  g : Vector Token 8 := Vector.replicate 8 {}
  h : Vector Token 8 := Vector.replicate 8 {}
  p : Vector Bool 8 := Vector.replicate 8 false
  sticky : Vector Nat 4 := Vector.replicate 4 0
  pcw : Word := 0
  opd : List Nat := []
  shown : Vector Nat 4 := Vector.replicate 4 0
  deriving DecidableEq, Repr, Inhabited

/-- An armature core (R91, R364, R370): its queue of traps, those that wait for an entry of it, the trap it serves, its position,
registers, mode register, the writable trap registers, the nodes as they stood at the entry, the images that have changed since, the next position an instruction has chosen
(R189), whether its instruction has still to complete (R138), the pattern of a PLOAD that has issued and whether its load is
complete (R174), and the cause an EMUL in progress has met (R190). -/
structure Core where
  queue : List Nat := []
  late : List Nat := []
  serving : Option Nat := none
  pos : Nat := 0
  g : Vector Token 8 := Vector.replicate 8 {}
  x : Vector Token 8 := Vector.replicate 8 {}
  p : Vector Bool 8 := Vector.replicate 8 false
  amode : Nat := 0
  tselNode : NodeId := .panel 0 0
  tselLetter : Letter := .a
  tact : Nat := 0
  entry : Map NodeId Node := []
  images : Map (NodeId × Letter) Image := []
  branch : Option Int := none
  wait : Bool := false
  pload : Option (Nat × Bool) := none
  emst : Nat := 0
  deriving DecidableEq, Repr, Inhabited

/-! ### Queues -/

/-- A copy of a resident queue's pointers and state (R309 to R312, R322). `comp` lists completed indices not
yet passed by `PROG`, `waiters` the disable commands to be answered once the queue is disabled (R417). -/
structure Queue where
  ctx : Nat := 0
  qcb : Nat := 0
  base : Nat := 0
  log2 : Nat := 4
  cls : Nat := 0
  inh : Nat := 0
  state : Nat := 0
  errc : Nat := 0
  erridx : Nat := 0
  tail : Nat := 0
  prog : Nat := 0
  disp : Nat := 0
  comp : List Nat := []
  disabling : Bool := false
  waiters : List Flosy := []
  res : Bool := true
  deriving DecidableEq, Repr, Inhabited

/-- Where a dispatched packet came from (R311, R325): a queue and index, or a context's spawn queue. -/
inductive RunSrc where
  | queue (q idx : Nat)
  | spawn (c : Nat)
  deriving DecidableEq, Repr, Inhabited

/-- What a dispatched packet is doing (R317, R319, R321). -/
inductive RunKind where
  | plain
  | launch (live todo : Nat)
  | barrier (sigs : List Nat) (deadline : Option Nat)
  | copy (engine : Nat)
  deriving DecidableEq, Repr, Inhabited

/-- A dispatched packet that has not completed (R317 to R319). `ended` says its work has completed and only
its completion add is left, `seq` orders the packets so ended (R336); `cause` is the fault it completes with, and `reads` are the
signals that a barrier's evaluation in progress has still to read, `pos` that one it has read was above zero, and `again` that another
evaluation has been asked for meanwhile (R320, R321). -/
structure Run where
  ctx : Nat := 0
  src : RunSrc := .queue 0 0
  kind : RunKind := .plain
  csig : Nat := 0
  pcl : Nat := 0
  inh : Nat := 0
  cause : Option Cause := none
  ended : Bool := false
  seq : Nat := 0
  reads : List Nat := []
  pos : Bool := false
  again : Bool := false
  deriving DecidableEq, Repr, Inhabited

/-- A spawn-queue packet (R184, R325). -/
structure SpawnPkt where
  bytes : List Byte := []
  cls : Nat := 0
  deriving DecidableEq, Repr, Inhabited

/-! ### Contexts -/

/-- A context (R31): its virtual function, page-table root, pattern table, context registers (R187, R350,
R380, R382), memory-management registers (R272), spawn queue and pre-emption count. DESIGN CHOICE (log 5): every context
is unprivileged and of VF 0 at reset, and nothing in the spec makes one privileged.
`sdmarks`, `sdunits` and `sdpress` are the nodes, layer units and press engines at which a shootdown's mark has not yet
emerged (R280). `dbgop` is the number from which a debugger's step counts its operations, `dbgrec` a fault it met, `dbglate` one that an
earlier step's operation met and `dbgdone` that the engine operation it launched has completed (R380). -/
structure Ctx where
  vf : Nat := 0
  priv : Bool := false
  ptroot : Nat := 0
  pats : Map Nat Pattern := []
  patVer : Nat := 0
  maxcls : Nat := 3
  spquota : Nat := 0
  spused : Nat := 0
  spbase : Nat := 0
  splen : Nat := 0
  spnum : Nat := 0
  sperr : Nat := 0
  spawns : List SpawnPkt := []
  markto : Nat := 1024
  dbgen : Nat := 0
  waitb : Nat := 4096
  wdog : Nat := 0
  castbase : Nat := 0
  castunits : Nat := 0
  hndbase : Nat := 0
  hndlen : Nat := 0
  cswbase : Nat := 0
  cswunits : Nat := 0
  dbgsel : Nat := 0
  dbgcmd : Nat := 0
  dbgst : Nat := 0
  dbgpr : Nat := 0
  dbgop : Option Nat := none
  dbgrec : Option (Nat × Cause) := none
  dbglate : Option (Nat × Cause) := none
  dbgdone : Bool := false
  sdva : Nat := 0
  sdlen : Nat := 0
  sdgo : Bool := false
  sdsig : Nat := 0
  sdmarks : List NodeId := []
  sdunits : List Nat := []
  sdpress : List Nat := []
  sdat : Nat := 0
  lwqva : Nat := 0
  lwqlen : Nat := 0
  lwqgo : Bool := false
  lwqres : Nat := 0
  lwqst : Option Nat := none
  rcva : Nat := 0
  rcgo : Bool := false
  rcres : Nat := 0
  rcst : Option Nat := none
  rcmarks : List NodeId := []
  rcat : Nat := 0
  pmk : Nat := 0
  preempt : Bool := false
  castUsed : List Nat := []
  bound : List (Nat × Word) := []
  micro : List (Nat × Word) := []
  deriving DecidableEq, Repr, Inhabited

/-! ### Panels, banks, tiles, dies -/

/-- A panel (R42, R210, R211, R293, R396): `front` says which physical exchange bank is in front, `xlast` is the cycle in
which an STX of its ports last performed, `zero` the cycle in which a zeroing in progress ends, `swapping` that its memories have still
to change tenant, and `exch` the cycle in which an exchange that has begun can end. -/
structure Panel where
  sa : PanelSide := {}
  sb : PanelSide := {}
  front : Bool := false
  xlast : Nat := 0
  lastCtx : Option Nat := none
  zero : Option Nat := none
  swapping : Bool := false
  exch : Option Nat := none
  deriving DecidableEq, Repr, Inhabited

/-- One way of a slice bank, or the whole bank (R269, R391, R392). -/
structure Way where
  claim : Option Nat := none
  lastCtx : Option Nat := none
  users : Nat := 0
  zero : Option Nat := none
  deriving DecidableEq, Repr, Inhabited

/-- A slice bank (R391): its share map and its ways; way 0 stands for the whole bank when not split. -/
structure SliceBank where
  sw : Nat := 0xFFFFFFFF
  split : Bool := false
  ways : Vector Way 4 := Vector.replicate 4 {}
  deriving DecidableEq, Repr, Inhabited

/-- A press (R225, R290): its number in issue order, the launch that its completion add waits for (R318), what the record held at its acceptance
or the fault of reading it, the engine's latch file (R290), and the next row and column that it writes. -/
structure Press where
  id : Nat := 0
  ctx : Nat := 0
  run : Nat := 0
  handle : Nat := 0
  snap : Snapshot := {}
  nbase : Nat := 0
  swing : Bool := false
  seq : Nat := 0
  row : Nat := 0
  col : Nat := 0
  latch : Map Nat LatchFile := []
  fault : Option Cause := none
  op : Option (NodeId × Letter × Nat) := none
  deriving DecidableEq, Repr, Inhabited

/-! ### Tenancy, ports, host -/

/-- An event that a descheduled virtual function withholds (R398), an add to a signal of another peer among them; `sp` says that
`SPUSED` decreases with it (R325). -/
inductive Withheld where
  | add (ctx va : Nat) (v : Int) (sp : Bool)
  | peerAdd (ctx peer va : Nat) (v : Int)
  | minus1 (ctx va : Nat) (sp : Bool)
  | trap (t : Nat)
  deriving DecidableEq, Repr, Inhabited

/-- One limiter: rate, burst, level (R330, R387). -/
structure Limiter where
  rate : Nat := 0
  burst : Nat := 0
  level : Int := 0
  deriving DecidableEq, Repr, Inhabited

/-- A virtual function (R387, R398). -/
structure Vf where
  cfg : Nat := 0
  lims : Vector Limiter 3 := Vector.replicate 3 {}
  withheld : List Withheld := []
  deriving DecidableEq, Repr, Inhabited

/-- A partition (R387 to R389, R394): its rectangle and ring registers, a rewrite in progress, the swap
count, the slice clock and whether the slice has ended. -/
structure Part where
  prect : Nat := 0
  pring : Nat := 0xFFFFFFFF
  rcur : Nat := 0
  rewrite : Option (Nat × Nat) := none
  swaps : Nat := 0
  sliceFrom : Nat := 0
  ended : Bool := false
  deriving DecidableEq, Repr, Inhabited

/-- An Ethernet port's registers (R401), the delivery modes of its packet delivery contexts, by number, and how many queue pairs it has
(R402, R403), the tries that the flit at each link's head has
failed (R412), the tokens that each unit's network seam and the elements that each edge of its groups, by unit, group and edge, have
on their way (R409, R411), and group entries (R410). -/
structure Port where
  pcfg : Nat := 0
  lup : Nat := 0
  ldn : Nat := 0
  llrc : Nat := 0
  netb : Vector Nat 4 := Vector.replicate 4 0
  pdcs : List ConnKind := []
  qps : Nat := 0
  tries : Vector Nat 4 := Vector.replicate 4 0
  net : Vector Nat 4 := Vector.replicate 4 0
  edges : Map (Nat × Nat × Nat) Nat := []
  groups : Map Nat (Nat × Nat × Nat × Nat) := []
  deriving DecidableEq, Repr, Inhabited

/-- A reply or notification sent to the host (R415, R418). -/
structure Reply where
  conn : Nat := 0
  link : Nat := 0
  tag : BitVec 16 := 0
  op : Nat := 0
  stat : Nat := 0
  data : List Byte := []
  deriving DecidableEq, Repr, Inhabited

/-- What a port unit sends to another device: a token of its network seam (R409), or a piece of a collective's stream on an edge of its
group (R411). -/
inductive Sent where
  | token (t : Token)
  | part (x : Partial)
  deriving DecidableEq, Repr, Inhabited

/-- What this device's peer controller answers to an access of another device (R407): the value, or the fault. -/
structure PeerAns where
  src : Nat := 0
  seq : Nat := 0
  fault : Option Cause := none
  val : Word := 0
  deriving DecidableEq, Repr, Inhabited

/-- A NOTIFY message (R418): event, detail and where it was sent. -/
structure Note where
  event : Nat := 0
  detail : Nat := 0
  conn : Nat := 0
  deriving DecidableEq, Repr, Inhabited

/-- An identity certificate: both public keys, and the signatures of both root keys (R422). -/
structure Certificate where
  edPub : List Byte := []
  mlPub : List Byte := []
  sigE : List Byte := []
  sigM : List Byte := []
  deriving DecidableEq, Repr, Inhabited

/-- The die's identity (R422): the private and public halves of its Ed25519 and ML-DSA-65 key pairs, derived at each boot, and
its certificate. -/
structure Identity where
  edPriv : List Byte := []
  edPub : List Byte := []
  mlPriv : List Byte := []
  mlPub : List Byte := []
  cert : Certificate := {}
  deriving DecidableEq, Repr, Inhabited

/-- An accepted firmware image (R421, R422). -/
structure Accepted where
  digest : List Byte := []
  version : Nat := 0
  deriving DecidableEq, Repr, Inhabited

/-- The deficit round robin of a memory link controller or an Ethernet port (R399): the VF that is being served and the bytes
that each VF may still be served. -/
structure Drr where
  cur : Nat := 0
  left : Map Nat Nat := []
  deriving DecidableEq, Repr, Inhabited

/-- A command of the host (R416), and the named writes of registers (R388, R399, R400). -/
inductive HostCmd where
  | regRd (off len : Nat)
  | regWr (off len : Nat) (v : BitVec 64)
  | prectWrite (pt : Nat) (v : BitVec 64)
  | vflimWrite (vf k : Nat) (v : BitVec 64)
  | pcfgWrite (q : Nat) (v : BitVec 64)
  | memRd (c va len : Nat)
  | memWr (c va : Nat) (data : List Byte)
  | doorbell (c qcb : Nat) (tail : BitVec 64)
  | makeResident (c qcb : Nat)
  | switchOut (c qcb : Nat)
  | enable (c qcb : Nat)
  | resume (c qcb : Nat)
  | disable (c qcb : Nat)
  | sigwr (c va : Nat) (v : BitVec 64)
  | power (island st : Nat)
  | attest (nonce : List Byte)
  deriving DecidableEq, Repr, Inhabited

/-- The device control block, boot and power state (R419 to R426). An island's state is 0 OFF, 1 RETAIN,
8 to 15 point 0 to 7. `hostq` holds the commands that wait for an earlier one of their connection (R417). DESIGN CHOICE (log 6): island 23, the only one that R420 lets run at power-on, stands at point 7;
the spec names no point for it. -/
structure Dev where
  devid : Nat := 0x00010007
  bootst : Nat := 0
  hostconn : Nat := 0
  cecnt : Nat := 0
  uecnt : Nat := 0
  parcnt : Nat := 0
  temp : Nat := 0
  ttrip : Nat := 0x690
  islands : Map Nat Nat := [(23, 15)]
  power : Option (Nat × Nat × Nat × Flosy) := none
  powerq : List (Nat × Nat × Flosy) := []
  hostq : List (Flosy × HostCmd) := []
  lastLink0 : Nat := 0
  images : List Accepted := []
  ident : Identity := {}
  rollback : Nat := 0
  devnum : Nat := 0
  domen : Bool := false
  ctxsel : Nat := 0
  shsel : Nat := 0
  irmap : Map Nat (Nat × Nat) := []
  irboot : Map Nat (Nat × Nat) := []
  linksDown : List Nat := []
  deriving DecidableEq, Repr, Inhabited

/-- The unit that carries out the present step (the model's own, log 1): a slot of a plane, a node's
bespoke sequencer, an armature core, an EMUL on a core's image (R190), or the device itself. -/
inductive Actor where
  | slot (n : NodeId) (l : Letter) (k : Nat)
  | micro (n : NodeId) (l : Letter)
  | core (c : Nat)
  | emul (c : Nat)
  | device
  deriving DecidableEq, Repr, Inhabited

/-- The whole device. `walks` are the tiles' caches of non-leaf entries, by context, level, VA prefix and the table they
name (R276); `handles` the device's own state of each handle record in use, by context and VA (R221); `lunits` the layer
units' buffers of lines, by context and line address (R265, R289); `upsets` the words in which a bit error stands, true for
an uncorrectable one (R266); `used` the banks and units that have served an access in the present cycle (R201, R267, R268);
`drr` the round robin of each memory link controller, kind 3, and Ethernet port, kind 4 (R399); `rr` the queue each class served last (R326). -/
structure State where
  turns : List Turn := []
  turnNo : Nat := 0
  free : Nat := 0
  cur : Actor := .device
  ids : Nat := 1
  cycle : Nat := 0
  mem : List Host.Cell := []
  nodes : Map NodeId Node := []
  panels : Map Nat Panel := []
  banks : Map (Nat × Nat) SliceBank := []
  ctxs : Map Nat Ctx := []
  insts : Map Nat Inst := []
  reqs : Map Nat Req := []
  bundles : Map Nat Bundle := []
  accs : Map Nat Access := []
  traps : Map Nat Trap := []
  cores : Map Nat Core := []
  queues : Map Nat Queue := []
  runs : Map Nat Run := []
  qcopies : Map Nat (List (Nat × CopyJob)) := []
  copyNext : Nat := 0
  rr : Map Nat Nat := []
  dispAt : Nat := 0
  barEval : Nat := 0
  tiles : Map Nat (List (Nat × Page)) := []
  walks : Map Nat (List (Nat × Nat × Nat × Nat)) := []
  handles : Map (Nat × Nat) (List Byte) := []
  lunits : Map Nat (List (Nat × Nat × List Byte)) := []
  upsets : Map Nat Bool := []
  used : List (Nat × Nat) := []
  drr : Map (Nat × Nat) Drr := []
  presses : Map Nat (List Press) := []
  pcache : Map Nat (List (Nat × Nat)) := []
  fetches : List (Nat × Nat × Nat × Nat) := []
  vfs : Map Nat Vf := []
  parts : Map Nat Part := []
  ports : Map Nat Port := []
  peers : Map Nat (Nat × Bool) := []
  ends : Map Nat (Nat × Nat) := []
  served : Map (Nat × Nat) Nat := []
  netOut : List (NodeId × Sent) := []
  peerOut : List PeerAns := []
  replies : List Reply := []
  notes : List Note := []
  dev : Dev := {}
  deriving DecidableEq, Repr, Inhabited

/-- Why a step can stop with a fault. -/
inductive Fault where
  /-- Raised by a turn or an input that names a unit the device does not have (a node address of 72 or
  above, a panel of 16,384 or above, a core of 1,024 or above). Safe: no such unit exists to act (R29). -/
  | noSuchUnit
  deriving DecidableEq, Repr

/-- Why a step can be refused. -/
inductive Refusal where
  /-- Raised by `exec` for an instruction that has no meaning yet, with its mnemonic. Safe: the model
  stops where the device goes on. -/
  | notModelled (mnemonic : String)
  deriving DecidableEq, Repr

/-- The device right after power-on reset (R2, R420): only island 23 runs, every other island is OFF, and
every register holds its reset value. -/
def State.reset : State := {}

end Sys2Proof.Machine
end

