-- ==== Sys2Proof/WellFormed.lean ====
section
/-! DEFINITION. Which instruction words are well formed in which setting: the load-time checks of
specifiers (R105, R106), formats (R137, R157, R202, R235, R251), immediates and fields (R94 to R104)
on the decoded instruction, and which node kinds accept it (R127, R128). -/

namespace Sys2Proof

/-- The three settings in which an A-word stands (R105, R106). -/
inductive Setting where
  | slot | micro | seq
  deriving DecidableEq, Repr, Inhabited

/-- The kinds of unit that accept instruction groups (R29, R127). -/
inductive NodeKind where
  | stitch | mp | cp | cv | mxa | nt | mg | pc | core | bespoke
  deriving DecidableEq, Repr, Inhabited

/-- Lanes of a token of a format (R44, R230). -/
def Fmt.lanes : Fmt → Nat
  | .w32 => 1 | .f32 => 1 | .b16 => 2 | .h16 => 2 | .q8 => 4 | .i8 => 4 | .x8 => 4 | .x4 => 8

/-- Format sets of R137. -/
def Fmt.isInt : Fmt → Bool
  | .w32 => true | .i8 => true | _ => false

/-- F32, B16, H16, Q8 (R137). -/
def Fmt.isFlt : Fmt → Bool
  | .f32 => true | .b16 => true | .h16 => true | .q8 => true | _ => false

/-- B16, H16, Q8 (R137, R144). -/
def Fmt.isNarrowFlt : Fmt → Bool
  | .b16 => true | .h16 => true | .q8 => true | _ => false

/-- F32, B16, H16 (R145, R202, R251). -/
def Fmt.isWideFlt : Fmt → Bool
  | .f32 => true | .b16 => true | .h16 => true | _ => false

/-- The formats of PACK and UNPK (R147). -/
def Fmt.isPacked : Fmt → Bool
  | .b16 => true | .h16 => true | .q8 => true | .i8 => true | .x8 => true | .x4 => true | _ => false

/-- The formats of a tile operation (R235). -/
def Fmt.isTile : Fmt → Bool
  | .q8 => true | .i8 => true | .x8 => true | .x4 => true | .b16 => true | .h16 => true | _ => false

/-- Whether a source specifier is legal in a setting, immediates apart (R105). -/
def Src.ok : Setting → Src → Bool
  | .slot, .t _ => false
  | .micro, .inC _ => false
  | .micro, .inP _ => false
  | .seq, .inC _ => false
  | .seq, .inP _ => false
  | _, .imm _ => false
  | _, _ => true

/-- A source that may be an `IMMB` immediate (R94, R131). -/
def Src.okB (c : Setting) : Src → Bool
  | .imm _ => true
  | s => s.ok c

/-- A consuming in-port specifier, codes 8 to 11 (R161, R203, R251). -/
def Src.isInC : Src → Bool
  | .inC _ => true
  | _ => false

/-- A peeking in-port specifier, codes 12 to 15 (R157). -/
def Src.isInP : Src → Bool
  | .inP _ => true
  | _ => false

/-- Whether a destination specifier is legal in a setting (R106). -/
def Dst.ok : Setting → Dst → Bool
  | .slot, .t _ => false
  | .micro, .out _ => false
  | .seq, .out _ => false
  | _, _ => true

/-- An out-port destination (R157). -/
def Dst.isOut : Dst → Bool
  | .out _ => true
  | _ => false

/-- A register destination g, h or x (R152). -/
def Dst.isReg (c : Setting) : Dst → Bool
  | .g _ => true
  | .t n => Dst.ok c (.t n)
  | _ => false

/-- A register g0 to g7 (R203). -/
def Dst.isG : Dst → Bool
  | .g _ => true
  | _ => false

/-- A signed micro-word offset in -64 to 63 (R96). -/
def microOffOk (off : BitVec 11) : Bool := decide (-64 ≤ off.toInt) && decide (off.toInt ≤ 63)

/-- Every field of a word instruction is legal in the setting; an event is not an instruction word. -/
def Instr.wf (c : Setting) : Instr → Bool
  | .add f d a b _ | .sub f d a b _ | .mul f d a b _ => f.isInt && d.ok c && a.ok c && b.okB c
  | .addi d a _ => d.ok c && a.ok c
  | .mulh f d a b | .mulhu f d a b => f.isInt && d.ok c && a.ok c && b.okB c
  | .and d a b | .or d a b | .xor d a b | .andn d a b | .shl d a b | .shr d a b | .sar d a b | .rol d a b =>
      d.ok c && a.ok c && b.okB c
  | .andi d a _ | .ori d a _ => d.ok c && a.ok c
  | .min f d a b | .max f d a b | .minu f d a b | .maxu f d a b => f.isInt && d.ok c && a.ok c && b.okB c
  | .abs f d a _ | .neg f d a _ => f.isInt && d.ok c && a.ok c
  | .clz d a | .popc d a => d.ok c && a.ok c
  | .ext d a b e | .ins d a b e | .sel d a b e => d.ok c && a.ok c && b.ok c && e.ok c
  | .cmp f _ d a b => f.isInt && d.ok c && a.ok c && b.okB c
  | .cmpi f _ d a _ => f.isInt && d.ok c && a.ok c
  | .adds f d a b | .subs f d a b => f.isInt && d.ok c && a.ok c && b.okB c
  | .mad f d a b e _ => f.isInt && d.ok c && a.ok c && b.ok c && e.ok c
  | .fadd f d a b _ | .fsub f d a b _ | .fmul f d a b _ => f.isFlt && d.ok c && a.ok c && b.ok c
  | .fma f d a b e => f.isFlt && d.ok c && a.ok c && b.ok c && e.ok c
  | .fmin f d a b | .fmax f d a b => f.isFlt && d.ok c && a.ok c && b.ok c
  | .fabs f d a | .fneg f d a => f.isFlt && d.ok c && a.ok c
  | .fcmp f _ d a b => f.isFlt && d.ok c && a.ok c && b.ok c
  | .fhsum f d a _ => f.isNarrowFlt && d.ok c && a.ok c
  | .fdot f d a b e => f.isNarrowFlt && d.ok c && a.ok c && b.ok c && e.ok c
  | .fcls f d a => f.isFlt && d.ok c && a.ok c
  | .fclp f d a b e => f.isFlt && d.ok c && a.ok c && b.ok c && e.ok c
  | .frcp f d a _ | .frsq f d a _ | .fsqrt f d a _ | .fex2 f d a _ | .flg2 f d a _ | .ftnh f d a _ =>
      f.isWideFlt && d.ok c && a.ok c
  | .cvt f d a _ nv => f.isFlt && d.ok c && a.ok c && (!nv || f == .q8)
  | .pack f d a b => f.isPacked && d.ok c && a.ok c && b.ok c
  | .unpk f d a _ => f.isPacked && d.ok c && a.ok c
  | .scl f d a b _ _ => (f.isFlt || f.isInt) && d.ok c && a.ok c && b.ok c
  | .itof f d a _ _ => f.isFlt && d.ok c && a.ok c
  | .ftoi f d a _ _ _ => f.isInt && d.ok c && a.ok c
  | .rndi f d a _ => f.isFlt && d.ok c && a.ok c
  | .mov _ d a => d.ok c && a.ok c
  | .movi d _ => d.ok c
  | .movhi d _ => d.isReg c
  | .mktag d a hdr => d.ok c && a.ok c && decide (hdr.toNat / 32 < 6)
  | .gtag d a => d.ok c && a.ok c
  | .plog _ _ _ _ => true
  | .pmov _ _ => true
  | .pseti mask vals => mask != 0 && vals &&& mask == vals
  | .wid d n => d.ok c && decide (1 ≤ n.toNat) && decide (n.toNat ≤ 6)
  | .clk d h => d.ok c && decide (h.toNat ≤ 1)
  | .iid d s => d.ok c && decide (s.toNat ≤ 4)
  | .emit d a => c == .slot && d.ok c && a.ok c
  | .drop a => c == .slot && a.isInC
  | .fwd d a => c == .slot && d.ok c && (a.isInC || a.isInP)
  | .steer d a _ => c == .slot && d.ok c && a.ok c
  | .swpt d a => c == .slot && d.isOut && a.ok c
  | .stky a _ => c == .slot && a.isInP
  | .dmnd a n => c == .slot && a.isInP && decide (1 ≤ n.toNat) && decide (n.toNat ≤ 2)
  | .halt => c == .slot
  | .nop => c != .micro
  | .waitt d a => c == .slot && d.ok c && a.ok c
  | .call d _ _ => c == .slot && d.ok c
  | .callb d _ _ _ => c == .slot && d.ok c
  | .ret => c == .slot
  | .spwn d a b => c == .slot && d.ok c && a.ok c && b.ok c
  | .spwnt _ a b => c == .slot && a.ok c && b.ok c
  | .plt d a | .csto d a | .csti d a => c == .slot && d.ok c && a.ok c
  | .prio v => c == .slot && decide (v.toNat ≤ 3)
  | .trap _ | .brk _ => c != .micro
  | .rdsr d _ => c != .micro && d.ok c
  | .wrsr a _ => c != .micro && a.ok c
  | .pload d _ => c != .micro && d.ok c
  | .arm d a => c == .slot && d.isOut && a.ok c
  | .rlat d _ => c == .slot && d.isOut
  | .bsld a _ => c != .micro && a.ok c
  | .bsbd a _ => c != .micro && a.ok c
  | .eretContinue | .eretReplay | .eretRetire | .eretTerminate => c == .seq
  | .jmpr a => c == .seq && a.ok c
  | .lnk d _ => c == .seq && d.ok c
  | .emul d a => c == .seq && d.ok c && a.ok c
  | .bsp _ _ d a b e _ => c == .slot && d.ok c && a.ok c && b.ok c && e.ok c
  | .mbr a off => c == .micro && a.ok c && microOffOk off
  | .mlp _ off => c == .micro && microOffOk off
  | .mend a => c == .micro && a.ok c
  | .lds _ d _ a _ _ | .ldl _ d _ a _ _ | .ldd _ d _ a _ _ | .ldp _ d _ a _ _ | .ldx _ d _ a _ _ =>
      c != .micro && d.ok c && a.ok c
  | .sts _ d _ a b _ _ | .stl _ d _ a b _ _ | .std _ d _ a b _ _ | .stp _ d _ a b _ _ | .stx _ d _ a b _ _ =>
      c != .micro && d.ok c && a.ok c && b.ok c
  | .fen d sc => c != .micro && d.ok c && decide (1 ≤ sc.toNat) && decide (sc.toNat ≤ 9)
  | .ldv _ d _ a _ _ => c != .micro && d.ok c && a.ok c
  | .stv _ d _ a b _ _ => c == .slot && d.ok c && a.ok c && b.isInC
  | .xbar d => c == .slot && d.ok c
  | .pfd _ a => c != .micro && a.ok c
  | .aadd d _ a b _ _ | .amin d _ a b _ _ | .amax d _ a b _ _ | .aand d _ a b _ _ | .aor d _ a b _ _
  | .axor d _ a b _ _ | .axch d _ a b _ _ => c != .micro && d.ok c && a.ok c && b.ok c
  | .afadd f d _ a b _ _ => c != .micro && f.isWideFlt && d.ok c && a.ok c && b.ok c
  | .acas d _ a b _ _ => c != .micro && d.isG && a.ok c && b.ok c
  | .sigw d _ a b _ _ => c != .micro && d.ok c && a.ok c && b.ok c
  | .bupd f d _ a b _ _ => c != .micro && (f == .f32 || f == .b16) && d.ok c && a.ok c && b.ok c
  | .bred f d _ a b _ _ => c != .micro && f.isWideFlt && d.ok c && a.ok c && b.ok c
  | .cpy d _ a _ _ | .cpys d _ a _ _ => c == .slot && d.ok c && a.ok c
  | .gth _ d _ a _ _ => c == .slot && d.ok c && a.ok c
  | .sct _ d _ a b _ _ => c == .slot && d.ok c && a.ok c && b.isInC
  | .ltb d _ a b _ _ | .lta d _ a b _ _ | .ltd d _ a b _ _ | .ltp d _ a b _ _ =>
      c == .slot && d.ok c && a.ok c && b.ok c
  | .ltq d _ a _ _ | .dsc d _ a _ _ => c == .slot && d.ok c && a.ok c
  | .mma f _ _ _ => c == .slot && f.isTile
  | .mmas f sp _ k _ => c == .slot && f.isTile && sp != .dense && decide ((k.toNat + 1) * f.lanes ≤ 16)
  | .ldt f _ _ k => c == .slot && f.isTile && (k.toNat + 1) % (16 / f.lanes) == 0
      && ((f != .x8 && f != .x4) || (k.toNat + 1) * f.lanes % 32 == 0)
  | .mdl m k => c == .slot && decide (m.toNat + k.toNat ≤ 15)
  | .drn f _ => c == .slot && (f.isFlt || f.isInt)
  | .zac f _ | .accl f _ => c == .slot && (f == .f32 || f == .w32)
  | .cmpr f sp _ => c == .slot && (f == .q8 || f == .i8 || f == .b16 || f == .h16) && sp != .dense
  | .lde f _ _ k => c == .slot && f.isTile
      && ((f != .x8 && f != .x4) || (k.toNat + 1) * f.lanes % 32 == 0)
  | .mrg f _ d a b => c == .slot && f.isWideFlt && d.ok c && a.isInC && b.isInC
  | .dns f d a | .sps f d a => c == .slot && f.isWideFlt && d.ok c && a.isInC
  | .cred f _ d a _ => c == .slot && f.isWideFlt && d.ok c && a.isInC
  | .cbcs f d a _ => c == .slot && f.isWideFlt && d.ok c && a.isInC
  | .nbar d _ => c == .slot && d.ok c
  | .nred f _ d a _ => c == .slot && (f.isWideFlt || f == .w32) && d.ok c && a.isInC
  | _ => false

end Sys2Proof
end

