-- ==== Sys2Proof/Decode.lean ====
section
/-! DEFINITION. Instruction words, both ways (R88 to R107, R119, R120, R127 to R129): the T-word and
S-word fields, `encode` from an instruction to its A-word, and the total decoder, which refuses a word
by the cause that load, bind or issue would give. A word decodes to an instruction only when that
instruction encodes to the very same word, so no unused or reserved bit is ever ignored (R103). -/

namespace Sys2Proof

/-! ### Codes of fields -/

/-- The code of a source specifier (R105); an immediate's code is its value (R94). -/
def Src.code : Src → Nat
  | .g n => n.val
  | .inC n => 8 + n.val
  | .inP n => 12 + n.val
  | .zero => 16 | .one => 17 | .ones => 18 | .cyc => 19 | .inst => 20 | .plane => 21
  | .t n => 24 + n.val
  | .imm v => v.toNat

/-- Whether a source is an `IMMB` immediate (R94). -/
def Src.isImm : Src → Bool
  | .imm _ => true
  | _ => false

/-- The source a 5-bit code names (R105); the reserved codes 22 and 23 read as `zero` here and are
refused because they are not that source's code. -/
def srcOfCode (n : Nat) : Src :=
  if n < 8 then .g (Fin.ofNat 8 n)
  else if n < 12 then .inC (Fin.ofNat 4 (n - 8))
  else if n < 16 then .inP (Fin.ofNat 4 (n - 12))
  else if n < 24 then
    match n with
    | 17 => .one
    | 18 => .ones
    | 19 => .cyc
    | 20 => .inst
    | 21 => .plane
    | _ => .zero
  else .t (Fin.ofNat 8 (n - 24))

/-- The code of a destination specifier (R106). -/
def Dst.code : Dst → Nat
  | .g n => n.val
  | .out n => 8 + n.val
  | .disc => 12
  | .p n => 16 + n.val
  | .t n => 24 + n.val

/-- The destination a 5-bit code names (R106); the reserved codes 13 to 15 read as discard here and
are refused because they are not its code. -/
def dstOfCode (n : Nat) : Dst :=
  if n < 8 then .g (Fin.ofNat 8 n)
  else if n < 12 then .out (Fin.ofNat 4 (n - 8))
  else if n < 16 then .disc
  else if n < 24 then .p (Fin.ofNat 8 (n - 16))
  else .t (Fin.ofNat 8 (n - 24))

/-- The code of a rounding field (R54). -/
def Rm.code : Rm → Nat
  | .dflt => 0 | .rne => 1 | .rtz => 2 | .rdn => 3 | .rup => 4

/-- The rounding field of a code; 5 to 7 are refused (R54, R94). -/
def rmOfCode : Nat → Rm
  | 1 => .rne | 2 => .rtz | 3 => .rdn | 4 => .rup | _ => .dflt

/-- The code of a condition (R100). -/
def Cc.code : Cc → Nat
  | .eq => 0 | .ne => 1 | .lt => 2 | .le => 3 | .gt => 4 | .ge => 5 | .ltu => 6 | .geu => 7

/-- The condition of a 3-bit code (R100). -/
def ccOfCode : Nat → Cc
  | 0 => .eq | 1 => .ne | 2 => .lt | 3 => .le | 4 => .gt | 5 => .ge | 6 => .ltu | _ => .geu

/-- The code of a reduction (R102). -/
def Red.code : Red → Nat
  | .sum => 0 | .max => 1 | .min => 2

/-- The reduction of a 2-bit code; 3 is refused (R102). -/
def redOfCode : Nat → Red
  | 1 => .max | 2 => .min | _ => .sum

/-- The code of a sparsity (R101). -/
def Spar.code : Spar → Nat
  | .dense => 0 | .s24 => 1 | .s48 => 2

/-- The sparsity of a 2-bit code; 3 is refused (R101). -/
def sparOfCode : Nat → Spar
  | 1 => .s24 | 2 => .s48 | _ => .dense

/-- The code of an edge (R101). -/
def Edge.code : Edge → Nat
  | .west => 0 | .north => 1

/-- The edge of a bit (R101). -/
def edgeOfCode : Nat → Edge
  | 0 => .west | _ => .north

/-! ### Forms (R93): packing fields into a word, most significant field first -/

/-- T and Q forms: `op` fmt dst sA sB and the low six bits (R93). -/
def packT (op f d a b m : Nat) : Nat := ((((op * 8 + f) * 32 + d) * 32 + a) * 32 + b) * 64 + m

/-- The T form's mod field: `IMMB`, `RM` or `CC`, `SAT`, `OPB` (R93, R94). -/
def modT (immb : Bool) (rmcc : Nat) (sat opb : Bool) : Nat :=
  ((immb.toNat * 8 + rmcc) * 2 + sat.toNat) * 2 + opb.toNat

/-- The I form (R93, R96). -/
def packI (op f d a imm : Nat) : Nat := (((op * 8 + f) * 32 + d) * 32 + a) * 2048 + imm

/-- The W form (R93, R97). -/
def packW (op d wx imm : Nat) : Nat := ((op * 32 + d) * 8 + wx) * 65536 + imm

/-- The P form (R93, R98). -/
def packP (op pd pa pb lut : Nat) : Nat := ((((op * 8 + pd) * 8 + pa) * 8 + pb) * 16 + lut) * 2048

/-- The M form (R93, R99). -/
def packM (op win d a b m : Nat) : Nat := ((((op * 16 + win) * 32 + d) * 32 + a) * 32 + b) * 32 + m

/-- The M form's mod field: `REL`, `ACQ`, `FMT` (R99). -/
def modM (f : Nat) (acq rel : Bool) : Nat := (rel.toNat * 2 + acq.toNat) * 8 + f

/-- The X form (R93, R101). -/
def packX (op f bank mreg k sp e chn aux : Nat) : Nat :=
  (((((((op * 8 + f) * 2 + bank) * 16 + mreg) * 256 + k) * 4 + sp) * 2 + e) * 2 + chn) * 16 + aux

/-- The G form (R93, R102). -/
def packG (op f d a b red grp : Nat) : Nat := packT op f d a b (red * 16 + grp)

/-! ### The encoder -/

/-- T form with a plain mod field. -/
def encT (op : Nat) (f : Fmt) (d : Dst) (a : Nat) (b : Src) (rmcc : Nat) (sat opb : Bool) : Nat :=
  packT op f.code d.code a b.code (modT b.isImm rmcc sat opb)

/-- Q form. -/
def encQ (op : Nat) (f : Fmt) (d : Dst) (a b c : Src) (sat : Bool) : Nat :=
  packT op f.code d.code a.code b.code (c.code * 2 + sat.toNat)

/-- I form. -/
def encI (op : Nat) (f : Fmt) (d : Dst) (a : Src) (imm : Nat) : Nat := packI op f.code d.code a.code imm

/-- M form. -/
def encM (op : Nat) (f : Fmt) (d : Dst) (w : BitVec 4) (a b : Src) (acq rel : Bool) : Nat :=
  packM op w.toNat d.code a.code b.code (modM f.code acq rel)

/-- The A-word of an instruction as a number (R92 to R104, R119, R120, R129); 0 for an event, which
has no word. -/
def encodeNat : Instr → Nat
  | .add f d a b s => encT 0x00 f d a.code b 0 s false
  | .sub f d a b s => encT 0x01 f d a.code b 0 s false
  | .addi d a imm => encI 0x02 .w32 d a imm.toNat
  | .mul f d a b s => encT 0x03 f d a.code b 0 s false
  | .mulh f d a b => encT 0x04 f d a.code b 0 false false
  | .mulhu f d a b => encT 0x05 f d a.code b 0 false false
  | .and d a b => encT 0x06 .w32 d a.code b 0 false false
  | .or d a b => encT 0x07 .w32 d a.code b 0 false false
  | .xor d a b => encT 0x08 .w32 d a.code b 0 false false
  | .andn d a b => encT 0x09 .w32 d a.code b 0 false false
  | .shl d a b => encT 0x0A .w32 d a.code b 0 false false
  | .shr d a b => encT 0x0B .w32 d a.code b 0 false false
  | .sar d a b => encT 0x0C .w32 d a.code b 0 false false
  | .rol d a b => encT 0x0D .w32 d a.code b 0 false false
  | .andi d a imm => encI 0x0E .w32 d a imm.toNat
  | .ori d a imm => encI 0x0F .w32 d a imm.toNat
  | .min f d a b => encT 0x10 f d a.code b 0 false false
  | .max f d a b => encT 0x11 f d a.code b 0 false false
  | .minu f d a b => encT 0x12 f d a.code b 0 false false
  | .maxu f d a b => encT 0x13 f d a.code b 0 false false
  | .abs f d a s => encT 0x14 f d a.code .zero 0 s false
  | .neg f d a s => encT 0x15 f d a.code .zero 0 s false
  | .clz d a => encT 0x16 .w32 d a.code .zero 0 false false
  | .popc d a => encT 0x17 .w32 d a.code .zero 0 false false
  | .ext d a b c => encQ 0x18 .w32 d a b c false
  | .ins d a b c => encQ 0x19 .w32 d a b c false
  | .sel d a b c => encQ 0x1A .w32 d a b c false
  | .cmp f cc d a b => encT 0x1B f d a.code b cc.code false false
  | .cmpi f cc d a imm => encI 0x1C f d a (cc.code * 256 + imm.toNat)
  | .adds f d a b => encT 0x1D f d a.code b 0 false false
  | .subs f d a b => encT 0x1E f d a.code b 0 false false
  | .mad f d a b c s => encQ 0x1F f d a b c s
  | .fadd f d a b r => encT 0x20 f d a.code b r.code false false
  | .fsub f d a b r => encT 0x21 f d a.code b r.code false false
  | .fmul f d a b r => encT 0x22 f d a.code b r.code false false
  | .fma f d a b c => encQ 0x23 f d a b c false
  | .fmin f d a b => encT 0x24 f d a.code b 0 false false
  | .fmax f d a b => encT 0x25 f d a.code b 0 false false
  | .fabs f d a => encT 0x26 f d a.code .zero 0 false false
  | .fneg f d a => encT 0x27 f d a.code .zero 0 false false
  | .fcmp f cc d a b => encT 0x28 f d a.code b cc.code false false
  | .fhsum f d a r => encT 0x29 f d a.code .zero r.code false false
  | .fdot f d a b c => encQ 0x2A f d a b c false
  | .fcls f d a => encT 0x2B f d a.code .zero 0 false false
  | .fclp f d a b c => encQ 0x2C f d a b c false
  | .frcp f d a r => encT 0x30 f d a.code .zero r.code false false
  | .frsq f d a r => encT 0x31 f d a.code .zero r.code false false
  | .fsqrt f d a r => encT 0x32 f d a.code .zero r.code false false
  | .fex2 f d a r => encT 0x33 f d a.code .zero r.code false false
  | .flg2 f d a r => encT 0x34 f d a.code .zero r.code false false
  | .ftnh f d a r => encT 0x35 f d a.code .zero r.code false false
  | .cvt f d a r nv => encT 0x36 f d a.code .zero r.code false nv
  | .pack f d a b => encT 0x37 f d a.code b 0 false false
  | .unpk f d a hi => encT 0x38 f d a.code .zero 0 false hi
  | .scl f d a b r clr => encT 0x39 f d a.code b r.code false clr
  | .itof f d a r u => encT 0x3A f d a.code .zero r.code false u
  | .ftoi f d a r s u => encT 0x3B f d a.code .zero r.code s u
  | .rndi f d a r => encT 0x3C f d a.code .zero r.code false false
  | .mov f d a => encT 0x40 f d a.code .zero 0 false false
  | .movi d imm => packW 0x41 d.code 0 imm.toNat
  | .movhi d imm => packW 0x42 d.code 0 imm.toNat
  | .mktag d a hdr => encI 0x43 .w32 d a hdr.toNat
  | .gtag d a => encT 0x44 .w32 d a.code .zero 0 false false
  | .plog pd pa pb lut => packP 0x45 pd.val pa.val pb.val lut.toNat
  | .pseti mask vals => packW 0x46 12 0 (mask.toNat * 256 + vals.toNat)
  | .pmov pd pa => packP 0x47 pd.val pa.val 0 0
  | .wid d n => packW 0x48 d.code 0 n.toNat
  | .clk d h => packW 0x49 d.code 0 h.toNat
  | .iid d s => packW 0x4A d.code 0 s.toNat
  | .emit d a => encT 0x50 .w32 d a.code .zero 0 false false
  | .drop a => encT 0x51 .w32 .disc a.code .zero 0 false false
  | .fwd d a => encT 0x52 .w32 d a.code .zero 0 false false
  | .steer d a k => encI 0x53 .w32 d a k.toNat
  | .swpt d a => encT 0x54 .w32 d a.code .zero 0 false false
  | .stky a n => encI 0x55 .w32 .disc a n.toNat
  | .dmnd a n => encI 0x56 .w32 .disc a n.toNat
  | .halt => packW 0x57 12 0 0
  | .nop => packW 0x58 12 0 0
  | .waitt d a => encT 0x59 .w32 d a.code .zero 0 false false
  | .call d site pat => packW 0x60 d.code 0 (site.toNat * 4096 + pat.toNat)
  | .callb d n site pat => packW 0x61 d.code n.toNat (site.toNat * 4096 + pat.toNat)
  | .ret => packW 0x62 12 0 0
  | .spwn d a b => encT 0x63 .w32 d a.code b 0 false false
  | .spwnt pd a b => encT 0x64 .w32 (.p pd) a.code b 0 false false
  | .plt d a => encT 0x65 .w32 d a.code .zero 0 false false
  | .csto d a => encT 0x66 .w32 d a.code .zero 0 false false
  | .csti d a => encT 0x67 .w32 d a.code .zero 0 false false
  | .prio v => packW 0x68 12 0 v.toNat
  | .trap arg => packW 0x70 12 0 arg.toNat
  | .brk arg => packW 0x71 12 0 arg.toNat
  | .rdsr d sr => encI 0x72 .w32 d .zero sr.toNat
  | .wrsr a sr => encI 0x73 .w32 .disc a sr.toNat
  | .pload d pat => packW 0x74 d.code 0 pat.toNat
  | .arm d a => encT 0x75 .w32 d a.code .zero 0 false false
  | .rlat d w => packW 0x76 d.code 0 w.toNat
  | .bsld a j => encI 0x77 .w32 .disc a j.toNat
  | .bsbd a k => encI 0x78 .w32 .disc a k.toNat
  | .eretContinue => packW 0x79 12 0 0
  | .eretReplay => packW 0x79 12 0 0
  | .eretRetire => packW 0x79 12 0 0
  | .eretTerminate => packW 0x79 12 0 0
  | .jmpr a => encT 0x7A .w32 .disc a.code .zero 0 false false
  | .lnk d off => packW 0x7B d.code 0 off.toNat
  | .emul d a => encT 0x7C .w32 d a.code .zero 0 false false
  | .bsp n f d a b c s => encQ (0xE0 + n.val) f d a b c s
  | .mbr a off => encI 0xD0 .w32 .disc a off.toNat
  | .mlp h off => encI 0xD1 .w32 (.t h) (.t h) off.toNat
  | .mend a => encT 0xD2 .w32 .disc a.code .zero 0 false false
  | .lds f d w a q r => encM 0x80 f d w a .zero q r
  | .sts f d w a b q r => encM 0x81 f d w a b q r
  | .ldl f d w a q r => encM 0x82 f d w a .zero q r
  | .stl f d w a b q r => encM 0x83 f d w a b q r
  | .ldd f d w a q r => encM 0x84 f d w a .zero q r
  | .std f d w a b q r => encM 0x85 f d w a b q r
  | .ldp f d w a q r => encM 0x86 f d w a .zero q r
  | .stp f d w a b q r => encM 0x87 f d w a b q r
  | .ldx f d w a q r => encM 0x88 f d w a .zero q r
  | .stx f d w a b q r => encM 0x89 f d w a b q r
  | .fen d scope => packM 0x8A 0 d.code 16 16 scope.toNat
  | .ldv f d w a q r => encM 0x8B f d w a .zero q r
  | .stv f d w a b q r => encM 0x8C f d w a b q r
  | .xbar d => packM 0x8D 0 d.code 16 16 0
  | .pfd w a => packM 0x8E w.toNat 12 a.code 16 0
  | .aadd d w a b q r => encM 0x90 .w32 d w a b q r
  | .afadd f d w a b q r => encM 0x91 f d w a b q r
  | .amin d w a b q r => encM 0x92 .w32 d w a b q r
  | .amax d w a b q r => encM 0x93 .w32 d w a b q r
  | .aand d w a b q r => encM 0x94 .w32 d w a b q r
  | .aor d w a b q r => encM 0x95 .w32 d w a b q r
  | .axor d w a b q r => encM 0x96 .w32 d w a b q r
  | .axch d w a b q r => encM 0x97 .w32 d w a b q r
  | .acas d w a b q r => encM 0x98 .w32 d w a b q r
  | .sigw d w a b q r => encM 0x99 .w32 d w a b q r
  | .bupd f d w a b q r => encM 0x9A f d w a b q r
  | .bred f d w a b q r => encM 0x9B f d w a b q r
  | .cpy d w a q r => encM 0xA0 .w32 d w a .zero q r
  | .cpys d w a q r => encM 0xA1 .w32 d w a .zero q r
  | .gth f d w a q r => encM 0xA2 f d w a .zero q r
  | .sct f d w a b q r => encM 0xA3 f d w a b q r
  | .ltb d w a b q r => encM 0xA4 .w32 d w a b q r
  | .lta d w a b q r => encM 0xA5 .w32 d w a b q r
  | .ltd d w a b q r => encM 0xA6 .w32 d w a b q r
  | .ltp d w a b q r => encM 0xA7 .w32 d w a b q r
  | .ltq d w a q r => encM 0xA8 .w32 d w a .zero q r
  | .dsc d w a q r => encM 0xA9 .w32 d w a .zero q r
  | .mma f b k c => packX 0xB0 f.code b.toNat 0 k.toNat 0 0 c.toNat 0
  | .mmas f sp b k c => packX 0xB1 f.code b.toNat 0 k.toNat sp.code 0 c.toNat 0
  | .ldt f e w k => packX 0xB2 f.code 0 0 k.toNat 0 e.code 0 w.toNat
  | .mdl m k => packX 0xB3 0 0 m.toNat k.toNat 0 0 0 0
  | .drn f b => packX 0xB4 f.code b.toNat 0 0 0 0 0 0
  | .zac f b => packX 0xB5 f.code b.toNat 0 0 0 0 0 0
  | .cmpr f sp k => packX 0xB6 f.code 0 0 k.toNat sp.code 0 0 0
  | .accl f b => packX 0xB7 f.code b.toNat 0 0 0 0 0 0
  | .lde f e w k => packX 0xB8 f.code 0 0 k.toNat 0 e.code 0 w.toNat
  | .mrg f r d a b => packG 0xC0 f.code d.code a.code b.code r.code 0
  | .dns f d a => packG 0xC1 f.code d.code a.code 16 0 0
  | .sps f d a => packG 0xC2 f.code d.code a.code 16 0 0
  | .cred f r d a g => packG 0xC3 f.code d.code a.code 16 r.code g.toNat
  | .cbcs f d a g => packG 0xC4 f.code d.code a.code 16 0 g.toNat
  | .nbar d g => packG 0xC5 0 d.code 16 16 0 g.toNat
  | .nred f r d a g => packG 0xC6 f.code d.code a.code 16 r.code g.toNat
  | _ => 0

/-- The A-word of an instruction. -/
def encode (i : Instr) : Word := BitVec.ofNat 32 (encodeNat i)

/-! ### The decoder -/

/-- fmt, bits [23:21]. -/
def wF (w : Nat) : Fmt := Fmt.ofCode (w / 2097152 % 8)
/-- dst of the T, Q, I and G forms, bits [20:16]. -/
def wD (w : Nat) : Dst := dstOfCode (w / 65536 % 32)
/-- sA, bits [15:11]. -/
def wA (w : Nat) : Src := srcOfCode (w / 2048 % 32)
/-- sB as a specifier, bits [10:6]. -/
def wB (w : Nat) : Src := srcOfCode (w / 64 % 32)
/-- sB of the T form, an immediate when `IMMB` is set (R94). -/
def wBI (w : Nat) : Src := if w / 32 % 2 = 1 then .imm (BitVec.ofNat 5 (w / 64 % 32)) else wB w
/-- sC of the Q form, bits [5:1]. -/
def wC (w : Nat) : Src := srcOfCode (w / 2 % 32)
/-- `SAT` of the Q form, bit [0]. -/
def wSatQ (w : Nat) : Bool := w % 2 == 1
/-- `SAT` of the T form, bit [1]. -/
def wSat (w : Nat) : Bool := w / 2 % 2 == 1
/-- `OPB` of the T form, bit [0]. -/
def wOpb (w : Nat) : Bool := w % 2 == 1
/-- `RM` of the T form, bits [4:2]. -/
def wRm (w : Nat) : Rm := rmOfCode (w / 4 % 8)
/-- `CC` of the T form, bits [4:2]. -/
def wCc (w : Nat) : Cc := ccOfCode (w / 4 % 8)
/-- The I form's immediate, bits [10:0]. -/
def wImm (w : Nat) : BitVec 11 := BitVec.ofNat 11 w
/-- The W form's dst, bits [23:19]. -/
def wDW (w : Nat) : Dst := dstOfCode (w / 524288 % 32)
/-- The W form's imm16. -/
def wImm16 (w : Nat) : BitVec 16 := BitVec.ofNat 16 w
/-- The M form's win, bits [23:20]. -/
def wWin (w : Nat) : BitVec 4 := BitVec.ofNat 4 (w / 1048576)
/-- The M form's dst, bits [19:15]. -/
def wDM (w : Nat) : Dst := dstOfCode (w / 32768 % 32)
/-- sAddr, bits [14:10]. -/
def wAM (w : Nat) : Src := srcOfCode (w / 1024 % 32)
/-- sData, bits [9:5]. -/
def wBM (w : Nat) : Src := srcOfCode (w / 32 % 32)
/-- The M form's `FMT`, bits [2:0]. -/
def wFM (w : Nat) : Fmt := Fmt.ofCode (w % 8)
/-- `ACQ`, bit [3]. -/
def wAcq (w : Nat) : Bool := w / 8 % 2 == 1
/-- `REL`, bit [4]. -/
def wRel (w : Nat) : Bool := w / 16 % 2 == 1
/-- `BANK`, bit [20]. -/
def wBank (w : Nat) : Bool := w / 1048576 % 2 == 1
/-- `KCNT`, bits [15:8]. -/
def wK (w : Nat) : BitVec 8 := BitVec.ofNat 8 (w / 256)
/-- `SPAR`, bits [7:6]. -/
def wSp (w : Nat) : Spar := sparOfCode (w / 64 % 4)
/-- `EDGE`, bit [5]. -/
def wE (w : Nat) : Edge := edgeOfCode (w / 32 % 2)
/-- `CHN`, bit [4]. -/
def wChn (w : Nat) : Bool := w / 16 % 2 == 1
/-- `AUX`, bits [3:0], also `GRP` and the P form's low fields. -/
def wAux (w : Nat) : BitVec 4 := BitVec.ofNat 4 w
/-- `RED`, bits [5:4]. -/
def wRed (w : Nat) : Red := redOfCode (w / 16 % 4)
/-- A predicate number at a bit position (R98). -/
def wP (w lo : Nat) : Fin 8 := Fin.ofNat 8 (w / 2 ^ lo)

/-- Groups 0x0 and 0x1 (R129). -/
def cand01 (op w : Nat) : Option Instr :=
  match op with
  | 0x00 => some (.add (wF w) (wD w) (wA w) (wBI w) (wSat w))
  | 0x01 => some (.sub (wF w) (wD w) (wA w) (wBI w) (wSat w))
  | 0x02 => some (.addi (wD w) (wA w) (wImm w))
  | 0x03 => some (.mul (wF w) (wD w) (wA w) (wBI w) (wSat w))
  | 0x04 => some (.mulh (wF w) (wD w) (wA w) (wBI w))
  | 0x05 => some (.mulhu (wF w) (wD w) (wA w) (wBI w))
  | 0x06 => some (.and (wD w) (wA w) (wBI w))
  | 0x07 => some (.or (wD w) (wA w) (wBI w))
  | 0x08 => some (.xor (wD w) (wA w) (wBI w))
  | 0x09 => some (.andn (wD w) (wA w) (wBI w))
  | 0x0A => some (.shl (wD w) (wA w) (wBI w))
  | 0x0B => some (.shr (wD w) (wA w) (wBI w))
  | 0x0C => some (.sar (wD w) (wA w) (wBI w))
  | 0x0D => some (.rol (wD w) (wA w) (wBI w))
  | 0x0E => some (.andi (wD w) (wA w) (wImm w))
  | 0x0F => some (.ori (wD w) (wA w) (wImm w))
  | 0x10 => some (.min (wF w) (wD w) (wA w) (wBI w))
  | 0x11 => some (.max (wF w) (wD w) (wA w) (wBI w))
  | 0x12 => some (.minu (wF w) (wD w) (wA w) (wBI w))
  | 0x13 => some (.maxu (wF w) (wD w) (wA w) (wBI w))
  | 0x14 => some (.abs (wF w) (wD w) (wA w) (wSat w))
  | 0x15 => some (.neg (wF w) (wD w) (wA w) (wSat w))
  | 0x16 => some (.clz (wD w) (wA w))
  | 0x17 => some (.popc (wD w) (wA w))
  | 0x18 => some (.ext (wD w) (wA w) (wB w) (wC w))
  | 0x19 => some (.ins (wD w) (wA w) (wB w) (wC w))
  | 0x1A => some (.sel (wD w) (wA w) (wB w) (wC w))
  | 0x1B => some (.cmp (wF w) (wCc w) (wD w) (wA w) (wBI w))
  | 0x1C => some (.cmpi (wF w) (ccOfCode (w / 256 % 8)) (wD w) (wA w) (BitVec.ofNat 8 w))
  | 0x1D => some (.adds (wF w) (wD w) (wA w) (wBI w))
  | 0x1E => some (.subs (wF w) (wD w) (wA w) (wBI w))
  | 0x1F => some (.mad (wF w) (wD w) (wA w) (wB w) (wC w) (wSatQ w))
  | _ => none

/-- Groups 0x2 and 0x3 (R129). -/
def cand23 (op w : Nat) : Option Instr :=
  match op with
  | 0x20 => some (.fadd (wF w) (wD w) (wA w) (wB w) (wRm w))
  | 0x21 => some (.fsub (wF w) (wD w) (wA w) (wB w) (wRm w))
  | 0x22 => some (.fmul (wF w) (wD w) (wA w) (wB w) (wRm w))
  | 0x23 => some (.fma (wF w) (wD w) (wA w) (wB w) (wC w))
  | 0x24 => some (.fmin (wF w) (wD w) (wA w) (wB w))
  | 0x25 => some (.fmax (wF w) (wD w) (wA w) (wB w))
  | 0x26 => some (.fabs (wF w) (wD w) (wA w))
  | 0x27 => some (.fneg (wF w) (wD w) (wA w))
  | 0x28 => some (.fcmp (wF w) (wCc w) (wD w) (wA w) (wB w))
  | 0x29 => some (.fhsum (wF w) (wD w) (wA w) (wRm w))
  | 0x2A => some (.fdot (wF w) (wD w) (wA w) (wB w) (wC w))
  | 0x2B => some (.fcls (wF w) (wD w) (wA w))
  | 0x2C => some (.fclp (wF w) (wD w) (wA w) (wB w) (wC w))
  | 0x30 => some (.frcp (wF w) (wD w) (wA w) (wRm w))
  | 0x31 => some (.frsq (wF w) (wD w) (wA w) (wRm w))
  | 0x32 => some (.fsqrt (wF w) (wD w) (wA w) (wRm w))
  | 0x33 => some (.fex2 (wF w) (wD w) (wA w) (wRm w))
  | 0x34 => some (.flg2 (wF w) (wD w) (wA w) (wRm w))
  | 0x35 => some (.ftnh (wF w) (wD w) (wA w) (wRm w))
  | 0x36 => some (.cvt (wF w) (wD w) (wA w) (wRm w) (wOpb w))
  | 0x37 => some (.pack (wF w) (wD w) (wA w) (wB w))
  | 0x38 => some (.unpk (wF w) (wD w) (wA w) (wOpb w))
  | 0x39 => some (.scl (wF w) (wD w) (wA w) (wB w) (wRm w) (wOpb w))
  | 0x3A => some (.itof (wF w) (wD w) (wA w) (wRm w) (wOpb w))
  | 0x3B => some (.ftoi (wF w) (wD w) (wA w) (wRm w) (wSat w) (wOpb w))
  | 0x3C => some (.rndi (wF w) (wD w) (wA w) (wRm w))
  | _ => none

/-- Group 0x4 (R129). -/
def cand4 (op w : Nat) : Option Instr :=
  match op with
  | 0x40 => some (.mov (wF w) (wD w) (wA w))
  | 0x41 => some (.movi (wDW w) (wImm16 w))
  | 0x42 => some (.movhi (wDW w) (wImm16 w))
  | 0x43 => some (.mktag (wD w) (wA w) (BitVec.ofNat 8 w))
  | 0x44 => some (.gtag (wD w) (wA w))
  | 0x45 => some (.plog (wP w 21) (wP w 18) (wP w 15) (BitVec.ofNat 4 (w / 2048)))
  | 0x46 => some (.pseti (BitVec.ofNat 8 (w / 256)) (BitVec.ofNat 8 w))
  | 0x47 => some (.pmov (wP w 21) (wP w 18))
  | 0x48 => some (.wid (wDW w) (wImm16 w))
  | 0x49 => some (.clk (wDW w) (wImm16 w))
  | 0x4A => some (.iid (wDW w) (wImm16 w))
  | _ => none

/-- Groups 0x5 and 0x6 (R129). -/
def cand56 (op w : Nat) : Option Instr :=
  match op with
  | 0x50 => some (.emit (wD w) (wA w))
  | 0x51 => some (.drop (wA w))
  | 0x52 => some (.fwd (wD w) (wA w))
  | 0x53 => some (.steer (wD w) (wA w) (BitVec.ofNat 8 w))
  | 0x54 => some (.swpt (wD w) (wA w))
  | 0x55 => some (.stky (wA w) (BitVec.ofNat 8 w))
  | 0x56 => some (.dmnd (wA w) (wImm w))
  | 0x57 => some .halt
  | 0x58 => some .nop
  | 0x59 => some (.waitt (wD w) (wA w))
  | 0x60 => some (.call (wDW w) (BitVec.ofNat 4 (w / 4096)) (BitVec.ofNat 12 w))
  | 0x61 => some (.callb (wDW w) (BitVec.ofNat 3 (w / 65536)) (BitVec.ofNat 4 (w / 4096)) (BitVec.ofNat 12 w))
  | 0x62 => some .ret
  | 0x63 => some (.spwn (wD w) (wA w) (wB w))
  | 0x64 => some (.spwnt (Fin.ofNat 8 (w / 65536)) (wA w) (wB w))
  | 0x65 => some (.plt (wD w) (wA w))
  | 0x66 => some (.csto (wD w) (wA w))
  | 0x67 => some (.csti (wD w) (wA w))
  | 0x68 => some (.prio (wImm16 w))
  | _ => none

/-- Group 0x7 (R129); the one opcode ERET has four meanings, told apart by `TACT` (R372). -/
def cand7 (tact op w : Nat) : Option Instr :=
  match op with
  | 0x70 => some (.trap (wImm16 w))
  | 0x71 => some (.brk (wImm16 w))
  | 0x72 => some (.rdsr (wD w) (BitVec.ofNat 10 w))
  | 0x73 => some (.wrsr (wA w) (BitVec.ofNat 10 w))
  | 0x74 => some (.pload (wDW w) (BitVec.ofNat 12 w))
  | 0x75 => some (.arm (wD w) (wA w))
  | 0x76 => some (.rlat (wDW w) (wAux w))
  | 0x77 => some (.bsld (wA w) (BitVec.ofNat 9 w))
  | 0x78 => some (.bsbd (wA w) (BitVec.ofNat 5 w))
  | 0x79 => some (match tact with
      | 0 => .eretContinue
      | 1 => .eretReplay
      | 2 => .eretRetire
      | _ => .eretTerminate)
  | 0x7A => some (.jmpr (wA w))
  | 0x7B => some (.lnk (wDW w) (wImm16 w))
  | 0x7C => some (.emul (wD w) (wA w))
  | _ => none

/-- Groups 0x8 and 0x9 (R129). -/
def cand89 (op w : Nat) : Option Instr :=
  match op with
  | 0x80 => some (.lds (wFM w) (wDM w) (wWin w) (wAM w) (wAcq w) (wRel w))
  | 0x81 => some (.sts (wFM w) (wDM w) (wWin w) (wAM w) (wBM w) (wAcq w) (wRel w))
  | 0x82 => some (.ldl (wFM w) (wDM w) (wWin w) (wAM w) (wAcq w) (wRel w))
  | 0x83 => some (.stl (wFM w) (wDM w) (wWin w) (wAM w) (wBM w) (wAcq w) (wRel w))
  | 0x84 => some (.ldd (wFM w) (wDM w) (wWin w) (wAM w) (wAcq w) (wRel w))
  | 0x85 => some (.std (wFM w) (wDM w) (wWin w) (wAM w) (wBM w) (wAcq w) (wRel w))
  | 0x86 => some (.ldp (wFM w) (wDM w) (wWin w) (wAM w) (wAcq w) (wRel w))
  | 0x87 => some (.stp (wFM w) (wDM w) (wWin w) (wAM w) (wBM w) (wAcq w) (wRel w))
  | 0x88 => some (.ldx (wFM w) (wDM w) (wWin w) (wAM w) (wAcq w) (wRel w))
  | 0x89 => some (.stx (wFM w) (wDM w) (wWin w) (wAM w) (wBM w) (wAcq w) (wRel w))
  | 0x8A => some (.fen (wDM w) (wAux w))
  | 0x8B => some (.ldv (wFM w) (wDM w) (wWin w) (wAM w) (wAcq w) (wRel w))
  | 0x8C => some (.stv (wFM w) (wDM w) (wWin w) (wAM w) (wBM w) (wAcq w) (wRel w))
  | 0x8D => some (.xbar (wDM w))
  | 0x8E => some (.pfd (wWin w) (wAM w))
  | 0x90 => some (.aadd (wDM w) (wWin w) (wAM w) (wBM w) (wAcq w) (wRel w))
  | 0x91 => some (.afadd (wFM w) (wDM w) (wWin w) (wAM w) (wBM w) (wAcq w) (wRel w))
  | 0x92 => some (.amin (wDM w) (wWin w) (wAM w) (wBM w) (wAcq w) (wRel w))
  | 0x93 => some (.amax (wDM w) (wWin w) (wAM w) (wBM w) (wAcq w) (wRel w))
  | 0x94 => some (.aand (wDM w) (wWin w) (wAM w) (wBM w) (wAcq w) (wRel w))
  | 0x95 => some (.aor (wDM w) (wWin w) (wAM w) (wBM w) (wAcq w) (wRel w))
  | 0x96 => some (.axor (wDM w) (wWin w) (wAM w) (wBM w) (wAcq w) (wRel w))
  | 0x97 => some (.axch (wDM w) (wWin w) (wAM w) (wBM w) (wAcq w) (wRel w))
  | 0x98 => some (.acas (wDM w) (wWin w) (wAM w) (wBM w) (wAcq w) (wRel w))
  | 0x99 => some (.sigw (wDM w) (wWin w) (wAM w) (wBM w) (wAcq w) (wRel w))
  | 0x9A => some (.bupd (wFM w) (wDM w) (wWin w) (wAM w) (wBM w) (wAcq w) (wRel w))
  | 0x9B => some (.bred (wFM w) (wDM w) (wWin w) (wAM w) (wBM w) (wAcq w) (wRel w))
  | _ => none

/-- Groups 0xA and 0xB (R129). -/
def candAB (op w : Nat) : Option Instr :=
  match op with
  | 0xA0 => some (.cpy (wDM w) (wWin w) (wAM w) (wAcq w) (wRel w))
  | 0xA1 => some (.cpys (wDM w) (wWin w) (wAM w) (wAcq w) (wRel w))
  | 0xA2 => some (.gth (wFM w) (wDM w) (wWin w) (wAM w) (wAcq w) (wRel w))
  | 0xA3 => some (.sct (wFM w) (wDM w) (wWin w) (wAM w) (wBM w) (wAcq w) (wRel w))
  | 0xA4 => some (.ltb (wDM w) (wWin w) (wAM w) (wBM w) (wAcq w) (wRel w))
  | 0xA5 => some (.lta (wDM w) (wWin w) (wAM w) (wBM w) (wAcq w) (wRel w))
  | 0xA6 => some (.ltd (wDM w) (wWin w) (wAM w) (wBM w) (wAcq w) (wRel w))
  | 0xA7 => some (.ltp (wDM w) (wWin w) (wAM w) (wBM w) (wAcq w) (wRel w))
  | 0xA8 => some (.ltq (wDM w) (wWin w) (wAM w) (wAcq w) (wRel w))
  | 0xA9 => some (.dsc (wDM w) (wWin w) (wAM w) (wAcq w) (wRel w))
  | 0xB0 => some (.mma (wF w) (wBank w) (wK w) (wChn w))
  | 0xB1 => some (.mmas (wF w) (wSp w) (wBank w) (wK w) (wChn w))
  | 0xB2 => some (.ldt (wF w) (wE w) (wAux w) (wK w))
  | 0xB3 => some (.mdl (BitVec.ofNat 4 (w / 65536)) (wK w))
  | 0xB4 => some (.drn (wF w) (wBank w))
  | 0xB5 => some (.zac (wF w) (wBank w))
  | 0xB6 => some (.cmpr (wF w) (wSp w) (wK w))
  | 0xB7 => some (.accl (wF w) (wBank w))
  | 0xB8 => some (.lde (wF w) (wE w) (wAux w) (wK w))
  | _ => none

/-- Groups 0xC to 0xF (R119, R120, R129). -/
def candCF (op w : Nat) : Option Instr :=
  match op with
  | 0xC0 => some (.mrg (wF w) (wRed w) (wD w) (wA w) (wB w))
  | 0xC1 => some (.dns (wF w) (wD w) (wA w))
  | 0xC2 => some (.sps (wF w) (wD w) (wA w))
  | 0xC3 => some (.cred (wF w) (wRed w) (wD w) (wA w) (wAux w))
  | 0xC4 => some (.cbcs (wF w) (wD w) (wA w) (wAux w))
  | 0xC5 => some (.nbar (wD w) (wAux w))
  | 0xC6 => some (.nred (wF w) (wRed w) (wD w) (wA w) (wAux w))
  | 0xD0 => some (.mbr (wA w) (wImm w))
  | 0xD1 => some (.mlp (Fin.ofNat 8 (w / 65536)) (wImm w))
  | 0xD2 => some (.mend (wA w))
  | _ => if 0xE0 ≤ op then some (.bsp (Fin.ofNat 32 op) (wF w) (wD w) (wA w) (wB w) (wC w) (wSatQ w)) else none

/-- The instruction a word's opcode and fields name, its unused bits not yet checked; none for an
unassigned opcode (R127). -/
def candidate (tact w : Nat) : Option Instr :=
  let op := w / 16777216 % 256
  if op < 0x20 then cand01 op w
  else if op < 0x40 then cand23 op w
  else if op < 0x50 then cand4 op w
  else if op < 0x70 then cand56 op w
  else if op < 0x80 then cand7 tact op w
  else if op < 0xA0 then cand89 op w
  else if op < 0xC0 then candAB op w
  else candCF op w

/-- Why a word is refused: the cause that load or issue gives (R107, R126). -/
inductive DecErr where
  | illegalOpcode
  | operandReserved
  deriving DecidableEq, Repr, Inhabited

/-- The cause a refused word faults with at issue (R107). -/
def DecErr.cause : DecErr → Cause
  | .illegalOpcode => .illegalOpcode
  | .operandReserved => .operandReserved

/-- Whether a kind of unit accepts an opcode (R127, R128). -/
def acceptsOp (k : NodeKind) (op : Nat) : Bool :=
  let g := op / 16
  match k with
  | .stitch => decide (g ≤ 6) || (decide (0x70 ≤ op) && decide (op ≤ 0x78)) || decide (0xE ≤ g)
  | .core => decide (g ≤ 4) || op == 0x58 || (g == 7 && op != 0x75) || (g == 8 && op != 0x8D) || g == 9
  | .bespoke => decide (g ≤ 4) || g == 0xD
  | .mp => (g == 8 && op != 0x8D) || g == 9 || g == 0xA
  | .cp => op == 0xA0 || op == 0xA1 || op == 0xA9
  | .nt => op == 0x8D || op == 0xC5 || op == 0xC6
  | .mxa => g == 0xB
  | .mg => op == 0xC0 || op == 0xC1 || op == 0xC2
  | .pc => op == 0xC0 || op == 0xC1 || op == 0xC2 || op == 0xC3 || op == 0xC4
  | .cv => false

/-- The setting of a kind of unit (R105). -/
def NodeKind.setting : NodeKind → Setting
  | .core => .seq
  | .bespoke => .micro
  | _ => .slot

/-- The decoder: the instruction a unit of kind `k` reads from a word, or the cause by which it
refuses it (R94 to R107, R126 orders 2 and 3, R127). `tact` is the handler's `TACT` (R372). -/
def decodeA (k : NodeKind) (tact : Nat) (w : Word) : Except DecErr Instr :=
  match candidate tact w.toNat with
  | none => .error .illegalOpcode
  | some i =>
    if acceptsOp k (w.toNat / 16777216) then
      if encodeNat i = w.toNat ∧ i.wf k.setting = true then .ok i else .error .operandReserved
    else .error .illegalOpcode

/-- The word of four bytes, the first at the lowest address (R4, R88). -/
def wordOfBytes : List Byte → Word
  | [a, b, c, d] => BitVec.ofNat 32 (a.toNat + 256 * (b.toNat + 256 * (c.toNat + 256 * d.toNat)))
  | _ => 0

/-- The four bytes of a word, lowest address first (R4). -/
def bytesOfWord (w : Word) : List Byte :=
  [BitVec.ofNat 8 w.toNat, BitVec.ofNat 8 (w.toNat / 256), BitVec.ofNat 8 (w.toNat / 65536),
   BitVec.ofNat 8 (w.toNat / 16777216)]

/-- The decoder on bytes: the first four are the A-word; fewer are refused. -/
def decodeBytes (k : NodeKind) (tact : Nat) (bs : List Byte) : Except DecErr (Instr × List Byte) :=
  if bs.length < 4 then .error .illegalOpcode
  else (decodeA k tact (wordOfBytes (bs.take 4))).map fun i => (i, bs.drop 4)

/-- The kinds of unit in the order in which a word with no unit named is tried. -/
def allKinds : List NodeKind := [.stitch, .mp, .nt, .mxa, .pc, .core, .bespoke]

/-- The first kind of unit that accepts a word, with the instruction it reads. -/
def decodeFirst (w : Word) : List NodeKind → Option (NodeKind × Instr)
  | [] => none
  | k :: ks =>
    match decodeA k 0 w with
    | .ok i => some (k, i)
    | .error _ => decodeFirst w ks

/-- The A-word of an instruction given as the opcode table numbers its bits: an A-word alone in 32
bits, or a T- or S-word below an A-word in 64 (R88). The bytes are laid out little-endian. -/
def tableAWord (nbits w : Nat) : Word :=
  let bs := bytesOfWord (BitVec.ofNat 32 w) ++ bytesOfWord (BitVec.ofNat 32 (w / 4294967296))
  if nbits ≤ 32 then wordOfBytes (bs.take 4) else wordOfBytes (bs.drop 4)

/-- The instruction the decoder reads from a table row's word. -/
def decodeTableWord (nbits w : Nat) : Option Instr :=
  (decodeFirst (tableAWord nbits w) allKinds).map (·.2)

/-! ### The T-word and the S-word (R89 to R91) -/

/-- `V`. -/
def tV (t : Word) : Bool := bitOf t.toNat 31
/-- `PM` bit n. -/
def tPM (t : Word) (n : Nat) : Bool := bitOf t.toNat (23 + n)
/-- `PV` bit n. -/
def tPV (t : Word) (n : Nat) : Bool := bitOf t.toNat (15 + n)
/-- `IN` bit n. -/
def tIN (t : Word) (n : Nat) : Bool := bitOf t.toNat (11 + n)
/-- `TP`. -/
def tTP (t : Word) : Fin 4 := Fin.ofNat 4 (field t.toNat 10 9)
/-- `TT`. -/
def tTT (t : Word) : Nat := field t.toNat 8 5
/-- `PE`. -/
def tPE (t : Word) : Bool := bitOf t.toNat 4
/-- `PX`. -/
def tPX (t : Word) : Fin 8 := Fin.ofNat 8 (field t.toNat 3 1)
/-- `PVAL`. -/
def tPVAL (t : Word) : Bool := bitOf t.toNat 0

/-- A valid slot's T-word is legal (R90). -/
def tOk (t : Word) : Bool :=
  let n := t.toNat
  (field n 22 15 &&& (255 - field n 30 23)) == 0 && (tTT t != 0 || field n 10 9 == 0)
    && (tPE t || field n 3 0 == 0)

/-- The packed T-word of its fields (R89). -/
def packTWord (pm pv inn tp tt : Nat) (pe : Bool) (px : Nat) (pval : Bool) : Word :=
  BitVec.ofNat 32 (((((((((1 * 256 + pm) * 256 + pv) * 16 + inn) * 4 + tp) * 16 + tt) * 2 + pe.toNat) * 8 + px)
    * 2) + pval.toNat)

/-- The tag test of a head token (R89). -/
def tagTest (tt : Nat) (k : Kind) (f : Fmt) : Bool :=
  match tt with
  | 0 => true
  | 1 => k == .data
  | 10 => k == .blkh
  | 11 => k == .eos
  | 12 => k == .psn
  | 13 => k == .mark
  | 14 => k == .steer
  | 15 => k != .data
  | n => k == .data && f.code == n - 2

/-- `BR` of an S-word. -/
def sBR (s : Word) : Bool := bitOf s.toNat 14
/-- `OFF` of an S-word, signed. -/
def sOFF (s : Word) : Int := signedOf 14 s.toNat

end Sys2Proof
end

