-- ==== Sys2Proof/Machine/Float.lean ====
section
/-! DEFINITION. Numbers (R44 to R69): lanes, exact values of the four float formats, one rounding function
for every format and mode, exact sums and products, the transcendentals by enclosure, block elements. -/

namespace Sys2Proof.Machine
open Sys2Proof

/-! ### Lanes (R44) -/

/-- Width of a lane (R44). -/
def laneW : Fmt → Nat
  | .w32 | .f32 => 32
  | .b16 | .h16 => 16
  | .q8 | .i8 | .x8 => 8
  | .x4 => 4

/-- Lane i of a payload as its bits (R44). -/
def lane (f : Fmt) (w : Word) (i : Nat) : Nat := w.toNat / 2 ^ (laneW f * i) % 2 ^ laneW f

/-- The lanes of a payload. -/
def lanesOf (f : Fmt) (w : Word) : List Nat := (List.range f.lanes).map (lane f w)

/-- The number whose lanes of width `w` are the list, lane 0 lowest. -/
def packNat (w : Nat) : List Nat → Nat
  | [] => 0
  | x :: t => x % 2 ^ w + 2 ^ w * packNat w t

/-- The payload of a list of lanes; lanes beyond the list are zero (R134). -/
def packLanes (f : Fmt) (xs : List Nat) : Word := BitVec.ofNat 32 (packNat (laneW f) xs)

/-! ### Exact values -/

/-- The exact reading of a float: a finite nonzero value is `m · 2^e` with its sign (R46, R47). -/
inductive XVal where
  | nan
  | inf (neg : Bool)
  | zero (neg : Bool)
  | fin (neg : Bool) (m : Nat) (e : Int)
  deriving DecidableEq, Repr, Inhabited

/-- Fraction bits of a float format (R46). -/
def fracBits : Fmt → Nat
  | .f32 => 23 | .b16 => 7 | .h16 => 10 | .q8 => 3 | _ => 23
/-- Exponent bits of a float format (R46). -/
def expBits : Fmt → Nat
  | .f32 => 8 | .b16 => 8 | .h16 => 5 | .q8 => 4 | _ => 8
/-- Bias (R46). -/
def biasOf : Fmt → Nat
  | .f32 => 127 | .b16 => 127 | .h16 => 15 | .q8 => 7 | _ => 127
/-- Sign bit's value. -/
def signBit (f : Fmt) : Nat := 2 ^ (fracBits f + expBits f)
/-- Magnitude bits of the largest finite value (R46). -/
def maxFin : Fmt → Nat
  | .f32 => 0x7F7FFFFF | .b16 => 0x7F7F | .h16 => 0x7BFF | .q8 => 0x7E | _ => 0x7F7FFFFF
/-- Bits of the canonical NaN (R46). -/
def canonNaN : Fmt → Nat
  | .f32 => 0x7FC00000 | .b16 => 0x7FC0 | .h16 => 0x7E00 | .q8 => 0x7F | _ => 0x7FC00000
/-- Magnitude bits of infinity; E4M3 has none (R46). -/
def infMag : Fmt → Nat
  | .f32 => 0x7F800000 | .b16 => 0x7F80 | .h16 => 0x7C00 | _ => 0x7F800000

/-- The exact value of a float's bits (R46, R47). -/
def fval (f : Fmt) (x : Nat) : XVal :=
  let neg := bitOf x (fracBits f + expBits f)
  let mag := x % signBit f
  let e := mag / 2 ^ fracBits f
  let t := mag % 2 ^ fracBits f
  if mag = 0 then .zero neg
  else if f == .q8 then
    if mag = 0x7F then .nan
    else if e = 0 then .fin neg t (-9) else .fin neg (8 + t) ((e : Int) - 10)
  else if e = 2 ^ expBits f - 1 then (if t = 0 then .inf neg else .nan)
  else if e = 0 then .fin neg t (1 - (biasOf f : Int) - fracBits f)
  else .fin neg (2 ^ fracBits f + t) ((e : Int) - biasOf f - fracBits f)

/-! ### Conditions (R59, R60) -/

/-- The value conditions a lane or firing has raised (R45, R59). -/
structure Cond where
  iov : Bool := false
  iv : Bool := false
  dz : Bool := false
  ov : Bool := false
  un : Bool := false
  deriving DecidableEq, Repr, Inhabited

/-- All conditions of two lanes. -/
def Cond.or (a b : Cond) : Cond :=
  ⟨a.iov || b.iov, a.iv || b.iv, a.dz || b.dz, a.ov || b.ov, a.un || b.un⟩

/-- A lane result: its bits and conditions. -/
abbrev LaneR := Nat × Cond

/-! ### Rounding (R48, R53 to R56, R59) -/

/-- Floor of the base-2 logarithm. -/
def flog2 (m : Nat) : Nat := Nat.log2 m

/-- Rounds the magnitude `m·2^e` (plus a part strictly between 0 and `2^e` when `st`) to a multiple of `2^q`:
the integer multiple, and whether it is inexact. -/
def roundAt (r : Rnd) (neg : Bool) (m : Nat) (e q : Int) (st : Bool) : Nat × Bool :=
  if q ≤ e then (m * 2 ^ (e - q).toNat, st)
  else
    let p := 2 ^ (q - e).toNat
    let k := m / p
    let rem := m % p
    let inx := rem != 0 || st
    let up := match r with
      | .rne => decide (p < 2 * rem) || (2 * rem == p && (st || k % 2 == 1))
      | .rtz => false
      | .rdn => neg && inx
      | .rup => !neg && inx
    (if up then k + 1 else k, inx)

/-- The magnitude bits an overflow delivers (R48, R55); `nanov` is the `.NANOV` of a conversion. -/
def overflowMag (f : Fmt) (r : Rnd) (neg nanov : Bool) : Nat :=
  let toInf := match r with
    | .rne => true
    | .rtz => false
    | .rdn => neg
    | .rup => !neg
  if f == .q8 then (if nanov && toInf then 0x7F else maxFin f)
  else if toInf then infMag f else maxFin f

/-- Adds the sign to magnitude bits; the NaN of `.NANOV` keeps none (R48). -/
def withSign (f : Fmt) (neg : Bool) (mag : Nat) : Nat :=
  if f == .q8 && mag == 0x7F then mag else if neg then mag + signBit f else mag

/-- Rounds a finite nonzero exact value to a format, with its overflow and underflow conditions
(R48, R53, R55, R59). -/
def roundFin (f : Fmt) (r : Rnd) (nanov : Bool) (neg : Bool) (m : Nat) (e : Int) (st : Bool) : LaneR :=
  let t : Int := fracBits f
  let top : Int := flog2 m + e
  let qmin : Int := 1 - biasOf f - t
  let emin : Int := 1 - biasOf f
  let q := max (top - t) qmin
  let (k, inx) := roundAt r neg m e q st
  let mag := (q - qmin).toNat * 2 ^ fracBits f + k
  if maxFin f < mag then (withSign f neg (overflowMag f r neg nanov), { ov := true })
  else
    let (k', _) := roundAt r neg m e (top - t) st
    let tiny := decide (top < emin) && !(top == emin - 1 && k' == 2 ^ (fracBits f + 1))
    (withSign f neg mag, { un := tiny && inx })

/-- Rounds any exact value to a format (R47, R48, R53). An infinity converted to E4M3 saturates, or is NaN
under `nanov`, and raises nothing (R48). -/
def roundX (f : Fmt) (r : Rnd) (nanov : Bool) : XVal → LaneR
  | .nan => (canonNaN f, {})
  | .inf neg =>
    if f == .q8 then (if nanov then 0x7F else withSign f neg (maxFin f), {})
    else (withSign f neg (infMag f), {})
  | .zero neg => (withSign f neg 0, {})
  | .fin neg m e => roundFin f r nanov neg m e false

/-! ### Exact arithmetic -/

/-- A signed dyadic as an integer scaled by `2^e`. -/
def scaled (neg : Bool) (m : Nat) (e base : Int) : Int :=
  let v : Int := m * 2 ^ (e - base).toNat
  if neg then -v else v

/-- A nonzero integer times `2^e` as an exact value. -/
def ofInt (v e : Int) : XVal := .fin (decide (v < 0)) v.natAbs e

/-- The sign of an exact zero sum of unlike terms (R56). -/
def zeroSum (r : Rnd) : XVal := .zero (r == .rdn)

/-- The exact sum of two values and whether it is invalid (R56, R59). -/
def xadd (r : Rnd) (a b : XVal) : XVal × Bool :=
  match a, b with
  | .nan, _ => (.nan, false)
  | _, .nan => (.nan, false)
  | .inf s, .inf t => if s == t then (.inf s, false) else (.nan, true)
  | .inf s, _ => (.inf s, false)
  | _, .inf t => (.inf t, false)
  | .zero s, .zero t => (if s == t then .zero s else zeroSum r, false)
  | .zero _, y => (y, false)
  | x, .zero _ => (x, false)
  | .fin s m e, .fin t n g =>
    let base := min e g
    let v := scaled s m e base + scaled t n g base
    (if v = 0 then zeroSum r else ofInt v base, false)

/-- The exact sum of a list, in any order the same: invalid when both infinities occur, a NaN otherwise if
any is one, an infinity if one occurs, and the exact sum else (R56, R67). -/
def xsum (r : Rnd) (xs : List XVal) : XVal × Bool :=
  let pinf := xs.contains (.inf false)
  let ninf := xs.contains (.inf true)
  if pinf && ninf then (.nan, true)
  else if xs.contains .nan then (.nan, false)
  else if pinf then (.inf false, false)
  else if ninf then (.inf true, false)
  else
    let base := xs.foldl (fun b x => match x with
      | .fin _ _ e => min b e
      | _ => b) 0
    let v := xs.foldl (fun a x => match x with
      | .fin s m e => a + scaled s m e base
      | _ => a) 0
    if v ≠ 0 then (ofInt v base, false)
    else if xs.all (· == .zero true) && !xs.isEmpty then (.zero true, false)
    else if xs.all (· == .zero false) then (.zero false, false)
    else (zeroSum r, false)

/-- The exact product and whether it is invalid (R56, R59). -/
def xmul (a b : XVal) : XVal × Bool :=
  match a, b with
  | .nan, _ => (.nan, false)
  | _, .nan => (.nan, false)
  | .inf _, .zero _ => (.nan, true)
  | .zero _, .inf _ => (.nan, true)
  | .inf s, .inf t => (.inf (s != t), false)
  | .inf s, .fin t _ _ => (.inf (s != t), false)
  | .fin s _ _, .inf t => (.inf (s != t), false)
  | .zero s, .zero t => (.zero (s != t), false)
  | .zero s, .fin t _ _ => (.zero (s != t), false)
  | .fin s _ _, .zero t => (.zero (s != t), false)
  | .fin s m e, .fin t n g => (.fin (s != t) (m * n) (e + g), false)

/-- The negation of an exact value. -/
def xneg : XVal → XVal
  | .nan => .nan
  | .inf s => .inf (!s)
  | .zero s => .zero (!s)
  | .fin s m e => .fin (!s) m e

/-- Adds an invalid condition to a lane result. -/
def invalidIf (b : Bool) (x : LaneR) : LaneR := (x.1, { x.2 with iv := x.2.iv || b })

/-- Rounded sum, difference and product of two lanes (R143). -/
def fAdd (f : Fmt) (r : Rnd) (a b : Nat) : LaneR :=
  let (v, iv) := xadd r (fval f a) (fval f b)
  invalidIf iv (roundX f r false v)
/-- Difference. -/
def fSub (f : Fmt) (r : Rnd) (a b : Nat) : LaneR :=
  let (v, iv) := xadd r (fval f a) (xneg (fval f b))
  invalidIf iv (roundX f r false v)
/-- Product. -/
def fMul (f : Fmt) (r : Rnd) (a b : Nat) : LaneR :=
  let (v, iv) := xmul (fval f a) (fval f b)
  invalidIf iv (roundX f r false v)

/-- Fused multiply-add: 0·∞ is invalid whatever c is (R143). -/
def fMa (f : Fmt) (r : Rnd) (a b c : Nat) : LaneR :=
  let (p, iv) := xmul (fval f a) (fval f b)
  let (v, iv') := if iv then (.nan, false) else xadd r p (fval f c)
  invalidIf (iv || iv') (roundX f r false v)

/-- The order of two values that are not NaN, −0 equal to +0: -1, 0 or 1. -/
def xcmp (a b : XVal) : Int :=
  let key (x : XVal) : Int × (Nat × Int) := match x with
    | .nan => (0, 0, 0)
    | .inf s => (if s then -2 else 2, 0, 0)
    | .zero _ => (0, 0, 0)
    | .fin s m e => (if s then -1 else 1, m, e)
  let (ka, ma, ea) := key a
  let (kb, mb, eb) := key b
  if ka < kb then -1 else if kb < ka then 1
  else if ka = 1 ∨ ka = -1 then
    let base := min ea eb
    let x := scaled (decide (ka = -1)) ma ea base
    let y := scaled (decide (ka = -1)) mb eb base
    if x < y then -1 else if y < x then 1 else 0
  else 0

/-- Whether a value is negative, −0 included. -/
def xsign : XVal → Bool
  | .nan => false
  | .inf s => s
  | .zero s => s
  | .fin s _ _ => s

/-- FMIN of two lanes, −0 below +0 (R143). -/
def fMin (f : Fmt) (a b : Nat) : Nat :=
  let x := fval f a
  let y := fval f b
  if x == .nan then (if y == .nan then canonNaN f else b)
  else if y == .nan then a
  else
    let c := xcmp x y
    if c < 0 then a else if 0 < c then b else if xsign x then a else b

/-- FMAX of two lanes (R143). -/
def fMax (f : Fmt) (a b : Nat) : Nat :=
  let x := fval f a
  let y := fval f b
  if x == .nan then (if y == .nan then canonNaN f else b)
  else if y == .nan then a
  else
    let c := xcmp x y
    if c < 0 then b else if 0 < c then a else if xsign x then b else a

/-- FCMP's outcome for a lane (R141). -/
def fCmp (f : Fmt) (cc : Cc) (a b : Nat) : Bool :=
  let x := fval f a
  let y := fval f b
  if x == .nan || y == .nan then
    match cc with
    | .ne | .ltu => true
    | _ => false
  else
    let c := xcmp x y
    match cc with
    | .eq => c == 0
    | .ne => c != 0
    | .lt => decide (c < 0)
    | .le => decide (c ≤ 0)
    | .gt => decide (0 < c)
    | .ge => decide (0 ≤ c)
    | .ltu => false
    | .geu => true

/-- FCLS's class of a lane (R143). -/
def fClass (f : Fmt) (a : Nat) : Nat :=
  match fval f a with
  | .nan => 8
  | .inf s => if s then 0 else 7
  | .zero s => if s then 3 else 4
  | .fin s _ _ =>
    let sub := decide (a % signBit f < 2 ^ fracBits f)
    if s then (if sub then 2 else 1) else (if sub then 5 else 6)

/-- Rounds an exact value to an integer (R58, R150). -/
def roundInt (r : Rnd) (neg : Bool) (m : Nat) (e : Int) : Int :=
  let (k, _) := roundAt r neg m e 0 false
  if neg then -(k : Int) else k

/-- RNDI of a lane (R150). -/
def fRndi (f : Fmt) (r : Rnd) (a : Nat) : Nat :=
  match fval f a with
  | .nan => canonNaN f
  | .inf _ => a
  | .zero _ => a
  | .fin neg m e =>
    let v := roundInt r neg m e
    if v = 0 then withSign f neg 0 else (roundFin f r false neg v.natAbs 0 false).1

/-- A float to integer conversion of a lane: none when out of range or NaN without `SAT` (R58, R149). -/
def fToI (lo hi : Int) (r : Rnd) (sat : Bool) (v : XVal) : Option Int :=
  match v with
  | .nan => if sat then some 0 else none
  | .inf s => if sat then some (if s then lo else hi) else none
  | .zero _ => some 0
  | .fin neg m e =>
    let x := roundInt r neg m e
    if x < lo then (if sat then some lo else none)
    else if hi < x then (if sat then some hi else none)
    else some x

/-- An integer to float conversion (R58, R149). -/
def iToF (f : Fmt) (r : Rnd) (v : Int) : LaneR :=
  if v = 0 then (0, {}) else roundFin f r false (decide (v < 0)) v.natAbs 0 false

/-- A conversion between float formats; a lane of the same format is copied, a NaN made canonical (R146). -/
def fCvt (src dst : Fmt) (r : Rnd) (nanov : Bool) (a : Nat) : LaneR :=
  if src == dst then (if fval src a == .nan then (canonNaN dst, {}) else (a, {}))
  else roundX dst r nanov (fval src a)

/-! ### Transcendentals (R65)

Reciprocal and roots are exact up to a sticky bit. Powers, logarithms and tanh are enclosed between two
fixed-point bounds of 256 fraction bits; both bounds round alike unless the exact value lies within
2^-230 of a rounding boundary, and only then the opaque `Config.transUp` chooses (log 10). -/

/-- Fraction bits of the enclosures. -/
def fxP : Nat := 256

/-- Half-width of an enclosure, in units of 2^-256; it covers the truncations of every series below. -/
def fxErr : Nat := 2 ^ 20

/-- Integer square root of `n`, with `b` result bits to find. -/
def isqrtAux (n : Nat) : Nat → Nat → Nat
  | 0, r => r
  | b + 1, r => isqrtAux n b (if (r + 2 ^ b) * (r + 2 ^ b) ≤ n then r + 2 ^ b else r)

/-- Floor of the square root. -/
def isqrt (n : Nat) : Nat := isqrtAux n (flog2 n / 2 + 1) 0

/-- Σ z^(2k+1)/(2k+1) in fixed point, for `n` terms from k on; `p` is z^(2k+1). -/
def atanhAux (z2 : Nat) : Nat → Nat → Nat → Nat → Nat
  | 0, _, _, acc => acc
  | n + 1, k, p, acc => atanhAux z2 n (k + 1) (p * z2 / 2 ^ fxP) (acc + p / (2 * k + 1))

/-- 2·atanh(a/b) in fixed point. -/
def atanh2 (a b : Nat) : Nat :=
  let z := a * 2 ^ fxP / b
  2 * atanhAux (z * z / 2 ^ fxP) 100 0 z 0

/-- ln 2 in fixed point. -/
def ln2fx : Nat := atanh2 1 3

/-- Σ t^k/k! in fixed point. -/
def expAux (t : Nat) : Nat → Nat → Nat → Nat → Nat
  | 0, _, _, acc => acc
  | n + 1, k, p, acc => expAux t n (k + 1) (p * t / 2 ^ fxP / (k + 1)) (acc + p)

/-- e^t for 0 ≤ t < 1 in fixed point. -/
def expfx (t : Nat) : Nat := expAux t 80 0 (2 ^ fxP) 0

/-- Rounds a value known to lie strictly between `lo·2^e` and `hi·2^e` (R53, R65). -/
def roundEnc (op x : Nat) (f : Fmt) (r : Rnd) (neg : Bool) (lo hi : Nat) (e : Int) : LaneR :=
  let a := roundFin f r false neg lo e true
  let b := roundFin f r false neg (hi - 1) e true
  if a = b then a else if Config.transUp op x then b else a

/-- FRCP of a lane. -/
def fRcp (f : Fmt) (r : Rnd) (x : Nat) : LaneR :=
  match fval f x with
  | .nan => (canonNaN f, {})
  | .inf s => (withSign f s 0, {})
  | .zero s => (withSign f s (infMag f), { dz := true })
  | .fin s m e =>
    let k := flog2 m + 80
    let q := 2 ^ k / m
    roundFin f r false s q (-(k : Int) - e) (2 ^ k % m != 0)

/-- FSQRT of a lane. -/
def fSqrt (f : Fmt) (r : Rnd) (x : Nat) : LaneR :=
  match fval f x with
  | .nan => (canonNaN f, {})
  | .inf s => if s then (canonNaN f, { iv := true }) else (infMag f, {})
  | .zero s => (withSign f s 0, {})
  | .fin true _ _ => (canonNaN f, { iv := true })
  | .fin false m e =>
    let m' := if e % 2 = 0 then m else 2 * m
    let e' := if e % 2 = 0 then e else e - 1
    let n := m' * 2 ^ 120
    let y := isqrt n
    roundFin f r false false y (e' / 2 - 60) (y * y != n)

/-- FRSQ of a lane. -/
def fRsq (f : Fmt) (r : Rnd) (x : Nat) : LaneR :=
  match fval f x with
  | .nan => (canonNaN f, {})
  | .inf s => if s then (canonNaN f, { iv := true }) else (0, {})
  | .zero s => (withSign f s (infMag f), { dz := true })
  | .fin true _ _ => (canonNaN f, { iv := true })
  | .fin false m e =>
    let m' := if e % 2 = 0 then m else 2 * m
    let e' := if e % 2 = 0 then e else e - 1
    let n := 2 ^ 240
    let y := isqrt (n / m')
    roundFin f r false false y (-120 - e' / 2) (m' * y * y != n)

/-- FEX2 of a lane. -/
def fEx2 (f : Fmt) (r : Rnd) (x : Nat) : LaneR :=
  match fval f x with
  | .nan => (canonNaN f, {})
  | .inf s => if s then (0, {}) else (infMag f, {})
  | .zero _ => roundFin f r false false 1 0 false
  | .fin s m e =>
    if 11 ≤ flog2 m + e then
      roundFin f r false false 1 (if s then -2000 else 2000) true
    else
      let fx : Int := scaled s m e (min e (-(fxP : Int)))
      let unit : Int := 2 ^ (max (-e).toNat fxP)
      let n := fx / unit
      let fr := (fx % unit).toNat * 2 ^ fxP / unit.toNat
      if fx % unit = 0 then roundFin f r false false 1 n false
      else
        let v := expfx (fr * ln2fx / 2 ^ fxP)
        roundEnc 1 x f r false (v - fxErr) (v + fxErr) (n - fxP)

/-- FLG2 of a lane. -/
def fLg2 (f : Fmt) (r : Rnd) (x : Nat) : LaneR :=
  match fval f x with
  | .nan => (canonNaN f, {})
  | .inf s => if s then (canonNaN f, { iv := true }) else (infMag f, {})
  | .zero _ => (withSign f true (infMag f), { dz := true })
  | .fin true _ _ => (canonNaN f, { iv := true })
  | .fin false m e =>
    let k := flog2 m
    let ex : Int := k + e
    if m = 2 ^ k then
      if ex = 0 then (0, {}) else roundFin f r false (decide (ex < 0)) ex.natAbs 0 false
    else
      let fr := atanh2 (m - 2 ^ k) (m + 2 ^ k) * 2 ^ fxP / ln2fx
      let v : Int := ex * 2 ^ fxP + fr
      if 0 < v then roundEnc 2 x f r false (v.natAbs - fxErr) (v.natAbs + fxErr) (-(fxP : Int))
      else roundEnc 2 x f r true (v.natAbs - fxErr) (v.natAbs + fxErr) (-(fxP : Int))

/-- FTNH of a lane. -/
def fTnh (f : Fmt) (r : Rnd) (x : Nat) : LaneR :=
  match fval f x with
  | .nan => (canonNaN f, {})
  | .inf s => (withSign f s (2 ^ fracBits f * biasOf f), {})
  | .zero s => (withSign f s 0, {})
  | .fin s m e =>
    let top : Int := flog2 m + e
    if 6 ≤ top then roundFin f r false s (2 ^ 100 - 1) (-100) true
    else if top < -48 then roundFin f r false s (m * 2 ^ 64 - 1) (e - 64) true
    else
      let u := m * 2 ^ (e + 1 + fxP).toNat
      let n := u / ln2fx
      let v := expfx (u - n * ln2fx)
      let one := 2 ^ fxP
      let elo := (v - fxErr) * 2 ^ n
      let ehi := (v + fxErr) * 2 ^ n
      let lo := (elo - one) * one / (elo + one)
      let hi := (ehi - one) * one / (ehi + one) + 1
      roundEnc 3 x f r s lo hi (-(fxP : Int))

/-! ### Block elements (R50) -/

/-- The exact value of a block element under its header (R50). -/
def blkVal (f : Fmt) (hdr : Word) (x : Nat) : XVal :=
  let e0 := field hdr.toNat 7 0
  let e1 := field hdr.toNat 15 8
  let (sel, sgn, m, d) := if f == .x8 then (bitOf x 7, bitOf x 6, x % 64, (5 : Int)) else (bitOf x 3, bitOf x 2, x % 4, (1 : Int))
  let e := if sel then e1 else e0
  if e0 = 0 then .zero false
  else if e0 = 255 then .nan
  else if e = 0 then .zero sgn
  else if e = 255 then .nan
  else if m = 0 then .zero sgn else .fin sgn m ((e : Int) - 127 - d)

end Sys2Proof.Machine
end

