-- ==== Sys2Proof/Machine/Flags.lean ====
section
/-! DEFINITION. The value conditions and predicate outcomes of the lane instructions: integer results with
their overflow (R45, R139), comparisons (R141), the order in which enabled conditions give a cause (R60),
the common scale state (R62) and the truth of a result (R84). -/

namespace Sys2Proof.Machine
open Sys2Proof

/-- The cause an enabled condition raises, in the order of R60. `en` holds the five enables, bits 3 to 7 of a
plane control word (R113). -/
def condCause (pcw : Word) (c : Cond) : Option Cause :=
  if c.iov && bitOf pcw.toNat 3 then some .intOverflow
  else if c.iv && bitOf pcw.toNat 5 then some .fpInvalid
  else if c.dz && bitOf pcw.toNat 6 then some .fpDivzero
  else if c.ov && bitOf pcw.toNat 4 then some .fpOverflow
  else if c.un && bitOf pcw.toNat 7 then some .fpUnderflow
  else none

/-- The truth of a result written to a predicate (R84). -/
def truth (t : Token) : Bool := t.payload != 0

/-- Clamps an integer. -/
def clampI (x lo hi : Int) : Int := if x < lo then lo else if hi < x then hi else x

/-- The smallest and largest signed values of a lane of width w. -/
def smin (w : Nat) : Int := -(2 ^ (w - 1) : Nat)
/-- The largest signed value of a lane. -/
def smax (w : Nat) : Int := (2 ^ (w - 1) : Nat) - 1

/-- How a lane of an exact integer is delivered (R139). -/
inductive IntMode where
  | wrap (signed : Bool)
  | sat
  | unsat
  deriving DecidableEq, Repr, Inhabited

/-- One lane of R139: the delivered bits and whether a signed operation overflowed. -/
def intLane (w : Nat) (m : IntMode) (x : Int) : LaneR :=
  match m with
  | .unsat => (codeOf w (clampI x 0 (2 ^ w - 1)), {})
  | .sat => (codeOf w (clampI x (smin w) (smax w)), {})
  | .wrap sgn => (codeOf w x, { iov := sgn && (decide (x < smin w) || decide (smax w < x)) })

/-- The mode of a signed operation with its `SAT` bit (R139). -/
def satMode (s : Bool) : IntMode := if s then .sat else .wrap true

/-- Integer comparison of two lanes (R141). -/
def iCmp (w : Nat) (cc : Cc) (a b : Nat) : Bool :=
  let x := signedOf w a
  let y := signedOf w b
  match cc with
  | .eq => a == b
  | .ne => a != b
  | .lt => decide (x < y)
  | .le => decide (x ≤ y)
  | .gt => decide (y < x)
  | .ge => decide (y ≤ x)
  | .ltu => decide (a < b)
  | .geu => decide (b ≤ a)

/-- All conditions of a list of lanes. -/
def condsOf (xs : List LaneR) : Cond := xs.foldl (fun c x => c.or x.2) {}

/-- The payload of a list of lane results. -/
def payOf (f : Fmt) (xs : List LaneR) : Word := packLanes f (xs.map (·.1))

/-- The payload whose bit i is the outcome of lane i (R141). -/
def outcomeBits : List Bool → Nat
  | [] => 0
  | b :: t => b.toNat + 2 * outcomeBits t

end Sys2Proof.Machine
end

