-- ==== Sys2Proof/Machine/Ops.lean ====
section
/-! DEFINITION. The named operations over the state: maps, memory at its homes, nodes and planes, routes,
the tokens at in-ports and out-ports, and taking and leaving a trap. -/

namespace Sys2Proof.Machine
open Sys2Proof

/-- The outcome of a step of this machine. -/
abbrev Res := Host.Outcome State Fault Refusal

/-! ### Maps -/

/-- The entry of a key, if listed. -/
def mget? {κ ν : Type} [DecidableEq κ] (m : Map κ ν) (k : κ) : Option ν :=
  match m with
  | [] => none
  | e :: t => if e.1 = k then some e.2 else mget? t k

/-- The value of a key: its entry, or the default. -/
def mget {κ ν : Type} [DecidableEq κ] [Inhabited ν] (m : Map κ ν) (k : κ) : ν := (mget? m k).getD default

/-- Sets a key's value. -/
def mset {κ ν : Type} [DecidableEq κ] (m : Map κ ν) (k : κ) (v : ν) : Map κ ν :=
  match m with
  | [] => [(k, v)]
  | e :: t => if e.1 = k then (k, v) :: t else e :: mset t k v

/-- Removes a key. -/
def mdel {κ ν : Type} [DecidableEq κ] (m : Map κ ν) (k : κ) : Map κ ν := m.filter fun e => !decide (e.1 = k)

/-- Changes a key's value. -/
def mupd {κ ν : Type} [DecidableEq κ] [Inhabited ν] (m : Map κ ν) (k : κ) (f : ν → ν) : Map κ ν :=
  mset m k (f (mget m k))

/-- Changes every listed value. -/
def mmap {κ ν : Type} (m : Map κ ν) (f : κ → ν → ν) : Map κ ν := m.map fun e => (e.1, f e.1 e.2)

/-! ### Memory at its homes (R37, R265; log 4)

One canonical list of bytes holds every memory of the device. The home of a byte is a number: device
memory at its physical address, and every other memory in a range of its own above 2^52. -/

/-- Home of a scratchpad byte: panel and physical byte address (R37, R267). -/
def homeScratch (panel off : Nat) : Nat := 2 ^ 53 + panel * 2 ^ 17 + off
/-- Home of an exchange byte: panel, physical bank, offset (R265). -/
def homeExch (panel : Nat) (bank : Bool) (off : Nat) : Nat := 2 ^ 54 + panel * 2 ^ 14 + bank.toNat * 2 ^ 13 + off
/-- Home of a slice byte: level, switch, offset (R268). -/
def homeSlice (lvl sw off : Nat) : Nat := 2 ^ 55 + (lvl * 4096 + sw) * 2 ^ 28 + off
/-- Home of a byte of a layer unit's buffer: unit, offset (R265, R266). -/
def homeLayer (unit off : Nat) : Nat := 2 ^ 57 + unit * 2 ^ 16 + off
/-- Home of a byte reached over the system-scope path: its `LOC` 01 page address (R408). -/
def homeFar (pa : Nat) : Nat := 2 ^ 60 + pa
/-- Home of a byte of a peer's memory (R405). -/
def homePeer (peer va : Nat) : Nat := 2 ^ 72 + peer * 2 ^ 58 + va

/-- The number of a node among all nodes. -/
def nodeIdx : NodeId → Nat
  | .panel p a => p * 128 + a
  | .mg lvl sw u => 2 ^ 22 + (lvl * 4096 + sw) * 2 + u
  | .pc q u => 2 ^ 23 + q * 4 + u

/-- The node of a number. -/
def nodeOf (i : Nat) : NodeId :=
  if i < 2 ^ 22 then .panel (i / 128) (i % 128)
  else if i < 2 ^ 23 then .mg ((i - 2 ^ 22) / 8192) ((i - 2 ^ 22) / 2 % 4096) (i % 2)
  else .pc ((i - 2 ^ 23) / 4) (i % 4)

/-- Places at which the words of a bespoke store, a checkpoint shadow and a save buffer can hold a bit error (R381). -/
def homeStore (p : Nat) (l : Letter) (j : Nat) : Nat := 2 ^ 81 + (2 * p + l.bit.toNat) * 2048 + 4 * j
/-- The place of a plane's checkpoint shadow (R381). -/
def homeShadow (n : NodeId) (l : Letter) : Nat := 2 ^ 82 + (2 * nodeIdx n + l.bit.toNat) * 512
/-- The place of a plane's save buffer (R381). -/
def homeSave (n : NodeId) (l : Letter) : Nat := 2 ^ 83 + (2 * nodeIdx n + l.bit.toNat) * 512

/-- What a byte that nothing has written reads as (R424 for SRAM; DESIGN CHOICE, log 4, for the rest). -/
def unwritten : Byte := 0

/-- Reads one byte. -/
def memRead (m : List Host.Cell) (a : Nat) : Byte :=
  match m with
  | [] => unwritten
  | c :: t => if c.1 = a then c.2 else memRead t a

/-- Writes one byte, keeping the list rising and free of unwritten values. -/
def memWrite (m : List Host.Cell) (a : Nat) (v : Byte) : List Host.Cell :=
  match m with
  | [] => if v = unwritten then [] else [(a, v)]
  | c :: t =>
    if c.1 = a then (if v = unwritten then t else (a, v) :: t)
    else if a < c.1 then (if v = unwritten then c :: t else (a, v) :: c :: t)
    else c :: memWrite t a v

/-- Clears the bytes of [lo, hi). -/
def memZero (m : List Host.Cell) (lo hi : Nat) : List Host.Cell :=
  m.filter fun c => decide (c.1 < lo) || decide (hi ≤ c.1)

/-- The canonical form: addresses strictly rising, no entry equal to an unwritten byte. -/
def Memory.wf (m : List Host.Cell) : Bool :=
  match m with
  | [] => true
  | [c] => c.2 != unwritten
  | c :: d :: t => c.2 != unwritten && decide (c.1 < d.1) && Memory.wf (d :: t)

/-- Reads `n` bytes. -/
def memBytes (m : List Host.Cell) (a : Nat) : Nat → List Byte
  | 0 => []
  | n + 1 => memRead m a :: memBytes m (a + 1) n

/-- Writes bytes at rising addresses. -/
def memPut (m : List Host.Cell) (a : Nat) : List Byte → List Host.Cell
  | [] => m
  | b :: t => memPut (memWrite m a b) (a + 1) t

/-- The little-endian number of a byte list (R4). -/
def leNat : List Byte → Nat
  | [] => 0
  | b :: t => b.toNat + 256 * leNat t

/-- The `n` little-endian bytes of a number (R4). -/
def leBytes (v : Nat) : Nat → List Byte
  | 0 => []
  | n + 1 => BitVec.ofNat 8 v :: leBytes (v / 256) n

/-- A whole 4-byte read (R205, R300). -/
def memWord (m : List Host.Cell) (a : Nat) : Word := wordOfBytes (memBytes m a 4)

/-- A whole 4-byte write (R205, R300). -/
def memPutWord (m : List Host.Cell) (a : Nat) (w : Word) : List Host.Cell := memPut m a (bytesOfWord w)

/-- A whole 8-byte read (R320). -/
def memDouble (m : List Host.Cell) (a : Nat) : Nat := leNat (memBytes m a 8)

/-- A whole 8-byte write. -/
def memPutDouble (m : List Host.Cell) (a v : Nat) : List Host.Cell := memPut m a (leBytes v 8)

/-! ### Nodes and geometry (R29, R265) -/

/-- The kind of a node (R29). -/
def kindOf : NodeId → NodeKind
  | .panel _ n =>
    if n < 64 then .stitch else if n < 68 then .mp else if n = 68 then .cp else if n = 69 then .cv
    else if n = 70 then .mxa else .nt
  | .mg _ _ _ => .mg
  | .pc _ _ => .pc

/-- Whether the device has the node (R29). -/
def nodeExists : NodeId → Bool
  | .panel p n => decide (p < 16384) && decide (n < 72)
  | .mg lvl sw u => decide (1 ≤ lvl) && decide (lvl ≤ 7) && decide (sw < 4 ^ (7 - lvl)) && decide (u < 2)
  | .pc q u => decide (q < 16) && decide (u < 4)

/-- How many slots a node has (R29, R114 to R116). -/
def slotCount : NodeId → Nat
  | n => match kindOf n with
    | .stitch => 16
    | .nt => 4
    | .cv => 0
    | _ => 8

/-- Column of a panel (R12). -/
def colOf (p : Nat) : Nat := p % 128
/-- Row of a panel (R12). -/
def rowOf (p : Nat) : Nat := p / 128

/-- The switch of a level above a panel, numbered row-major (R276). -/
def switchOf (lvl p : Nat) : Nat := (rowOf p / 2 ^ lvl) * (128 / 2 ^ lvl) + colOf p / 2 ^ lvl

/-- The armature core of a panel: its level-2 subtree (R364). -/
def coreOf (p : Nat) : Nat := switchOf 2 p

/-- The die of a panel: its level-6 subtree (R290, R342). -/
def dieOf (p : Nat) : Nat := switchOf 6 p

/-- The lowest level whose switch spans the rectangle of a gusset (R211). -/
def spanLevel (p w h : Nat) : Nat → Nat
  | 0 => 7
  | k + 1 =>
    let lvl := 7 - k
    if switchOf lvl p = switchOf lvl (p + (w - 1) + 128 * (h - 1)) then lvl else spanLevel p w h k

/-! ### Islands and their speed (R2, R423) -/

/-- The power island of a node: a panel's level-5 subtree, a merge node's die, the top-level tree for level-7
merge nodes and port units (R423). -/
def islandOf : NodeId → Nat
  | .panel p _ => switchOf 5 p
  | .mg lvl sw _ => if lvl = 7 then 20 else 16 + (sw / (128 / 2 ^ lvl) / 2 ^ (6 - lvl)) * 2 + sw % (128 / 2 ^ lvl) / 2 ^ (6 - lvl)
  | .pc _ _ => 20

/-- The device cycles that a unit of an island takes for what the manual states as `t` cycles: ⌈t / (0.3 + 0.1n)⌉ at point n
(R2, R423). DESIGN CHOICE (log 25): an island at no point counts as at point 7. -/
def slowAt (s : State) (island t : Nat) : Nat :=
  let st := mget s.dev.islands island
  if 8 ≤ st ∧ st < 15 then (10 * t + (st - 6)) / (st - 5) else t

/-- The device cycles that a node takes for `t` cycles of point 7 (R423). -/
def slow (s : State) (n : NodeId) (t : Nat) : Nat := slowAt s (islandOf n) t

/-! ### Accessors -/

/-- A node of the device. -/
def State.node (s : State) (n : NodeId) : Node := mget s.nodes n
/-- Replaces a node. -/
def State.setNode (s : State) (n : NodeId) (v : Node) : State := { s with nodes := mset s.nodes n v }
/-- A plane of a node. -/
def Node.plane (v : Node) : Letter → Plane
  | .a => v.pa
  | .b => v.pb
/-- Replaces a plane of a node. -/
def Node.setPlane (v : Node) (l : Letter) (p : Plane) : Node :=
  match l with
  | .a => { v with pa := p }
  | .b => { v with pb := p }
/-- A plane. -/
def State.plane (s : State) (n : NodeId) (l : Letter) : Plane := (s.node n).plane l
/-- Replaces a plane. -/
def State.setPlane (s : State) (n : NodeId) (l : Letter) (p : Plane) : State :=
  s.setNode n ((s.node n).setPlane l p)
/-- Changes a plane. -/
def State.updPlane (s : State) (n : NodeId) (l : Letter) (f : Plane → Plane) : State :=
  s.setPlane n l (f (s.plane n l))
/-- An in-port. -/
def State.inp (s : State) (n : NodeId) (l : Letter) (k : Fin 4) : InPort := (s.plane n l).ins[k]
/-- Changes an in-port. -/
def State.updIn (s : State) (n : NodeId) (l : Letter) (k : Fin 4) (f : InPort → InPort) : State :=
  s.updPlane n l fun p => { p with ins := p.ins.set k (f p.ins[k]) }
/-- An out-port. -/
def State.outp (s : State) (n : NodeId) (l : Letter) (k : Fin 4) : OutPort := (s.plane n l).outs[k]
/-- Changes an out-port. -/
def State.updOut (s : State) (n : NodeId) (l : Letter) (k : Fin 4) (f : OutPort → OutPort) : State :=
  s.updPlane n l fun p => { p with outs := p.outs.set k (f p.outs[k]) }
/-- A swap can take in a plane: basted, or left inactive by an earlier swap (R177, R180). -/
def Plane.ready (p : Plane) : Bool := p.basted || p.out

/-- A panel. -/
def State.panel (s : State) (p : Nat) : Panel := mget s.panels p
/-- Changes a panel. -/
def State.updPanel (s : State) (p : Nat) (f : Panel → Panel) : State := { s with panels := mupd s.panels p f }
/-- One letter's side of a panel. -/
def Panel.side (p : Panel) : Letter → PanelSide
  | .a => p.sa
  | .b => p.sb
/-- Replaces one letter's side. -/
def Panel.setSide (p : Panel) (l : Letter) (v : PanelSide) : Panel :=
  match l with
  | .a => { p with sa := v }
  | .b => { p with sb := v }
/-- A panel's side. -/
def State.side (s : State) (p : Nat) (l : Letter) : PanelSide := (s.panel p).side l
/-- Changes a panel's side. -/
def State.updSide (s : State) (p : Nat) (l : Letter) (f : PanelSide → PanelSide) : State :=
  s.updPanel p fun q => q.setSide l (f (q.side l))
/-- An instance. -/
def State.inst (s : State) (i : Nat) : Inst := mget s.insts i
/-- Changes an instance. -/
def State.updInst (s : State) (i : Nat) (f : Inst → Inst) : State := { s with insts := mupd s.insts i f }
/-- A context. -/
def State.ctx (s : State) (c : Nat) : Ctx := mget s.ctxs c
/-- Changes a context. -/
def State.updCtx (s : State) (c : Nat) (f : Ctx → Ctx) : State := { s with ctxs := mupd s.ctxs c f }
/-- An armature core. -/
def State.core (s : State) (c : Nat) : Core := mget s.cores c
/-- Changes an armature core. -/
def State.updCore (s : State) (c : Nat) (f : Core → Core) : State := { s with cores := mupd s.cores c f }
/-- A trap. -/
def State.trap (s : State) (t : Nat) : Trap := mget s.traps t
/-- A virtual function. -/
def State.vf (s : State) (v : Nat) : Vf := mget s.vfs v
/-- A partition. -/
def State.part (s : State) (p : Nat) : Part := mget s.parts p
/-- A port. -/
def State.port (s : State) (q : Nat) : Port := mget s.ports q
/-- Adds an operation to a plane's in-flight instructions, in issue order (R18). -/
def State.pushOp (s : State) (n : NodeId) (l : Letter) (o : Op) : State :=
  s.updPlane n l fun p => { p with ops := p.ops ++ [o] }
/-- Changes one in-flight instruction. -/
def State.updOp (s : State) (n : NodeId) (l : Letter) (id : Nat) (f : Op → Op) : State :=
  s.updPlane n l fun p => { p with ops := p.ops.map fun o => if o.id = id then f o else o }
/-- Removes one in-flight instruction. -/
def State.delOp (s : State) (n : NodeId) (l : Letter) (id : Nat) : State :=
  s.updPlane n l fun p => { p with ops := p.ops.filter fun o => !decide (o.id = id) }
/-- One in-flight instruction of a plane. -/
def State.op? (s : State) (n : NodeId) (l : Letter) (id : Nat) : Option Op :=
  (s.plane n l).ops.find? fun o => o.id == id
/-- Changes the device control block. -/
def State.updDev (s : State) (f : Dev → Dev) : State := { s with dev := f s.dev }
/-- A fresh number for an operation, access, trap, run, request or bundle. -/
def State.fresh (s : State) : State := { s with ids := s.ids + 1 }
/-- Replaces the memory. -/
def State.setMem (s : State) (m : List Host.Cell) : State := { s with mem := m }

/-- The panel a node stands in, or for a merge or port unit the origin panel of the instance that holds
the plane (R364). -/
def panelOf (s : State) (n : NodeId) (l : Letter) : Nat :=
  match n with
  | .panel p _ => p
  | _ => (s.inst (s.plane n l).inst).origin

/-- The instance whose plane this is. -/
def instOf (s : State) (n : NodeId) (l : Letter) : Nat := (s.plane n l).inst

/-- The context of a plane's instance (R31). -/
def ctxOf (s : State) (n : NodeId) (l : Letter) : Nat := (s.inst (instOf s n l)).ctx

/-! ### Configuration words (R109, R111, R113) -/

/-- `ACCEPT`, bit f of an in-port word. -/
def iwAccept (w : Word) (f : Fmt) : Bool := bitOf w.toNat f.code
/-- `STICKY`. -/
def iwSticky (w : Word) : Nat := field w.toNat 15 8
/-- `EXPECT_S`. -/
def iwExpect (w : Word) : Nat := field w.toNat 17 16
/-- `LAZY`. -/
def iwLazy (w : Word) : Bool := bitOf w.toNat 18
/-- `STEER_EN`. -/
def iwSteer (w : Word) : Bool := bitOf w.toNat 19
/-- `NOEOS`. -/
def iwNoEos (w : Word) : Bool := bitOf w.toNat 20
/-- `NOMARK`. -/
def iwNoMark (w : Word) : Bool := bitOf w.toNat 21
/-- `RBASE`. -/
def rwBase (w : Word) : Nat := field w.toNat 9 0
/-- `RCNT` + 1: the number of consumers. -/
def rwCount (w : Word) : Nat := field w.toNat 11 10 + 1
/-- `OLAZY`. -/
def rwLazy (w : Word) : Bool := bitOf w.toNat 12
/-- `SCEN`. -/
def rwScale (w : Word) : Bool := bitOf w.toNat 13
/-- `WIRED`. -/
def rwWired (w : Word) : Bool := bitOf w.toNat 14
/-- The plane control word's default rounding (R113). -/
def rndOfDrm : Nat → Rnd
  | 2 => .rtz
  | 3 => .rdn
  | 4 => .rup
  | _ => .rne
/-- A trap enable of a plane control word: IOV 3, FOV 4, FIV 5, FDZ 6, FUN 7 (R113). -/
def pcwEn (w : Word) (k : Nat) : Bool := bitOf w.toNat k
/-- A plane control word with its `ACT` bit (R113, R173). -/
def pcwAct (w : Word) (v : Bool) : Word := if v then w ||| 0x10000 else w &&& 0xFFFEFFFF
/-- `WEIGHT`, 0 acting as 16 (R113). -/
def pcwWeight (w : Word) : Nat := if field w.toNat 15 8 = 0 then 16 else field w.toNat 15 8

/-! ### In-ports -/

/-- Whether an in-port is fed, by a route entry of its image or by a call seam (R167). -/
def InPort.isFed (q : InPort) : Bool := q.fed || q.callFed

/-- A fed port without `NOEOS` carries EOS (R167). -/
def eosCarrying (p : Plane) (k : Fin 4) : Bool := p.ins[k].isFed && !iwNoEos p.inw[k]

/-- A fed port without `NOMARK` carries marks, i3 of a port unit never (R167, R409). -/
def markCarrying (n : NodeId) (p : Plane) (k : Fin 4) : Bool :=
  p.ins[k].isFed && !iwNoMark p.inw[k] && !(kindOf n == .pc && k == 3)

/-- Subtypes of a mark (R11). -/
def markSub (w : Word) : Nat := field w.toNat 3 0

/-- A SWP mark with bit 31 at 0, the form mark of a sparse stream (R243). -/
def isFormMark (t : Token) : Bool := t.kind == .mark && markSub t.payload == 4 && !bitOf t.payload.toNat 31

/-- The raw head of a port, marks included: a logged token that a replay has still to give, else the FIFO's head (R373). -/
def rawHead (p : Plane) (k : Fin 4) : Option Token :=
  match p.mp.relog.find? fun e => e.1 == k.val with
  | some e => some e.2
  | none => p.ins[k].fifo.head?.map (·.tok)

/-- Whether a port's head has passed its checks; a logged token passed them as it was first consumed. -/
def headSettled (p : Plane) (k : Fin 4) : Bool := (p.mp.relog.any fun e => e.1 == k.val) || p.ins[k].settled

/-- The token a slot, guard or source sees at a port: the head, unless it is a mark on a mark-carrying port (R169) or has not
been settled. -/
def headTok (n : NodeId) (p : Plane) (k : Fin 4) : Option Token :=
  (rawHead p k).filter fun t => headSettled p k && !(t.kind == .mark && markCarrying n p k
    && !((kindOf n == .mg || kindOf n == .pc) && isFormMark t))

/-- How many tokens a port's FIFO holds (R19). -/
def fifoCap : Nat := 2

/-- The entries of an in-port's FIFO that its tokens take, those on their way included (R19, R22, R258). -/
def InPort.taken (q : InPort) : Nat := q.fifo.length + q.lane.length + q.cv.toList.length + q.buf.toList.length

/-- Whether a port can take one more token: a free FIFO entry beyond the tokens already on their way, or,
while its plane is inactive, an empty buffer slot (R19, R24, R258). -/
def portFree (p : Plane) (k : Fin 4) : Bool :=
  let q := p.ins[k]
  if p.active then decide (q.taken < fifoCap) else decide (q.lane.length + q.buf.toList.length < 1)

/-- Whether a sender `d` cycles up the return wire sees that a port can take one more token (R24): of the free entries, the
last ones freed show only `d` cycles after the cycle from which they are free. -/
def portRoom (now d : Nat) (p : Plane) (k : Fin 4) : Bool :=
  let q := p.ins[k]
  let m := fifoCap - q.taken
  portFree p k && (!p.active ||
    decide (((q.freed.drop (q.freed.length - m)).filter fun f => decide (now < f + d)).length < m))

/-! ### Routes (R30, R111, R112, R340) -/

/-- The entries of a spill segment (R286). -/
def spillCap : Nat := 8192

/-- The place of a panel in a gusset, row by row of sixteen. -/
def panelOff (o p : Nat) : Nat := (colOf p - colOf o) + 16 * (rowOf p - rowOf o)

/-- A consumer of an out-port: a plane's in-port, or the spill segment of a cast instance with the number of the
seam (R353), or the network seam of a port unit (R409), or an entry that placement has still
to write (R359); `seam` says that placement wired it. -/
inductive Target where
  | port (n : NodeId) (l : Letter) (k : Fin 4) (seam : Bool)
  | spill (inst seam : Nat)
  | net (n : NodeId)
  | unwritten
  deriving DecidableEq, Repr, Inhabited

/-- A route-table entry of a sender (R112, R116). -/
def routeEntry (s : State) (n : NodeId) (l : Letter) (e : Nat) : Nat :=
  match n with
  | .panel p _ => (mget (s.side p l).routes e).toNat
  | _ => ((s.plane n l).ext.getD (4 + e) 0).toNat

/-- The panel at a signed offset from a panel. -/
def panelAt (p : Nat) (dx dy : Int) : Nat := ((rowOf p : Int) + dy).toNat * 128 + ((colOf p : Int) + dx).toNat

/-- The consumer a route-table entry names (R112, R340). -/
def entryTarget (s : State) (n : NodeId) (l : Letter) (e : Nat) : Target :=
  let v := routeEntry s n l e
  if decide (1008 ≤ e) && v == 0 then .unwritten else
  let port : Fin 4 := Fin.ofNat 4 (field v 12 11)
  let from_ := panelOf s n l
  match field v 31 30 with
  | 0 =>
    let p := match n with
      | .panel p _ => panelAt p (signedOf 5 (field v 29 25)) (signedOf 5 (field v 24 20))
      | _ => panelAt from_ (field v 29 25) (field v 24 20)
    .port (.panel p (field v 19 13)) l port false
  | 1 => .port (.mg (field v 29 27) (switchOf (field v 29 27) from_) (field v 26 26)) l port false
  | 2 => .port (.pc (field v 29 26) (field v 24 23)) l port false
  | _ =>
    let tl := if bitOf v 6 then l.other else l
    let tp := field v 29 16
    let tn := NodeId.panel tp (field v 15 9)
    match (s.insts.flatMap fun i => i.2.wires).find? fun w => w.panel == from_ && w.entries.contains e && w.letter == l with
    | some w =>
      let i := if w.result then w.caller else w.callee
      if (mget s.insts i).st = .cast then .spill i (panelOff (mget s.insts i).origin tp * 512 + field v 15 7)
      else .port tn tl (Fin.ofNat 4 (field v 8 7)) true
    | none => .port tn tl (Fin.ofNat 4 (field v 8 7)) true

/-- The consumers of an out-port, 0 to 3 for o0 to o3 (R25, R111, R409). -/
def targets (s : State) (n : NodeId) (l : Letter) (k : Fin 4) : List Target :=
  if kindOf n == .pc && k == 3 then [.net n]
  else
    let w := (s.plane n l).rw[k]
    if rwWired w then (List.range (rwCount w)).map fun j => entryTarget s n l (rwBase w + j) else []

/-- The consumer of drain port q under a drain route word of the mxa (R240). -/
def drainTarget (s : State) (n : NodeId) (l : Letter) (w : Word) (q : Nat) : Target :=
  entryTarget s n l (rwBase w + q)

/-- Whether an out-port counts as wired: its route word, a named network seam (R409), or an argument port of
a call being placed (R340). -/
def outWired (s : State) (n : NodeId) (l : Letter) (k : Fin 4) : Bool :=
  match n with
  | .pc q u => if k == 3 then bitOf ((s.port q).netb.toList.getD u 0) 20 else rwWired (s.plane n l).rw[k]
  | _ => rwWired (s.plane n l).rw[k]
      || s.bundles.any fun b => b.2.node == n && b.2.letter == l && b.2.runs.any fun r => r.1 == k.val

/-- The mesh distance between two panels (R340). -/
def meshDist (p q : Nat) : Nat :=
  (max (colOf p) (colOf q) - min (colOf p) (colOf q)) + (max (rowOf p) (rowOf q) - min (rowOf p) (rowOf q))

/-- Cycles a token takes on a seam: one, and one more for each mesh hop (R25, R340); a token through the
tree takes at least one. -/
def seamTime (n m : NodeId) : Nat :=
  match n, m with
  | .panel p _, .panel q _ => 1 + meshDist p q
  | _, _ => 1

/-- Cycles that a request takes on the return wire of a seam: one in a panel and through the tree, one for each mesh hop
(R24). -/
def wireTime (s : State) (n m : NodeId) : Nat :=
  slow s m (match n, m with
    | .panel p _, .panel q _ => max 1 (meshDist p q)
    | _, _ => 1)

/-- Whether a sender `n` sees room at a consumer's in-port (R24). -/
def seenRoom (s : State) (n m : NodeId) (ml : Letter) (k : Fin 4) : Bool := portRoom s.cycle (wireTime s n m) (s.plane m ml) k

/-- Whether a link is up (R401). -/
def linkUp (s : State) (k : Nat) : Bool := bitOf (s.port (k / 4)).lup (k % 4)

/-- Whether an island runs: at a point and not in transition (R419, R424). -/
def islandRuns (s : State) (k : Nat) : Bool :=
  decide (8 ≤ mget s.dev.islands k) && (match s.dev.power with
    | some p => p.1 != k
    | none => true)

/-- Link 0 while island 23 supplies its lanes: it carries only Flosy over reliable unordered delivery (R423). -/
def bootLink (s : State) (k : Nat) : Bool := k == 0 && !islandRuns s 21

/-- The links of a peer's set that are up and carry the peer transport, lowest first (R406, R423). -/
def peerLinks (s : State) (p : Nat) : List Nat :=
  (List.range 64).filter fun k => bitOf (mget s.peers p).1 k && linkUp s k && !bootLink s k

/-- The link an access to a peer travels on (R406). -/
def peerLink (s : State) (p va : Nat) : Option Nat :=
  let ls := peerLinks s p
  ls[((va / 256) ^^^ p) % ls.length]?

/-- The tokens of credit of a network seam (R409). -/
def netCap : Nat := 64

/-- Whether a network seam has a link to its peer (R409, R413). -/
def netLinked (s : State) (m : NodeId) : Bool :=
  match m with
  | .pc q u => !(peerLinks s (field ((s.port q).netb.toList.getD u 0) 13 0)).isEmpty
  | _ => false

/-- The tokens that a network seam has on its way (R409). -/
def netUsed (s : State) (m : NodeId) : Nat :=
  match m with
  | .pc q u => (s.port q).net.toList.getD u 0
  | _ => 0

/-- Whether a consumer's request for a token of node `n` stands at its out-port, or for an EOS, mark or PSN only a free
entry (R24, R172). `j` is the consumer's place in the route. -/
def requested (s : State) (n : NodeId) (o : OutPort) (j : Nat) (ctrl : Bool) (t : Target) : Bool :=
  match t with
  | .port m ml k _ =>
    let p := s.plane m ml
    seenRoom s n m ml k && (ctrl || !iwLazy p.inw[k] || !p.active || o.reqs.any fun r => r.1 == j && decide (r.2 ≤ s.cycle))
  | .spill i _ => decide ((s.inst i).spill < spillCap)
  | .net m => netLinked s m && decide (netUsed s m < netCap)
  | .unwritten => false

/-- What makes a trap imprecise is recorded on the instance (R369). -/
def imprecise (s : State) (i : Nat) : State := s.updInst i fun v => { v with impr := true }

/-- The marks that a seam does not carry: WIN, PMK where the context is not pre-empted whole, and every mark at a network seam
(R340, R367, R409). -/
def dropsMark (s : State) (n : NodeId) (l : Letter) (t : Token) (tg : Target) : Bool :=
  t.kind == .mark && match tg with
    | .port _ _ _ seam => seam && (markSub t.payload == 3 || (markSub t.payload == 0 && !(s.ctx (ctxOf s n l)).preempt))
    | .net _ => true
    | _ => false

/-- Whether a token that is no PSN leaves its sender's window region (R369; log 114). -/
def leavesRegion (s : State) (n : NodeId) (l : Letter) (t : Token) (tg : Target) : Bool :=
  let r := (s.inst (instOf s n l)).region
  t.kind != .psn && r.contains (n, l) && match tg with
    | .port m ml _ _ => !r.contains (m, ml)
    | .unwritten => false
    | _ => true

/-- A network seam has one more token on its way (R409). -/
def netUse (s : State) (m : NodeId) : State :=
  match m with
  | .pc q u => { s with ports := mupd s.ports q fun p => { p with net := p.net.set (Fin.ofNat 4 u) (p.net[Fin.ofNat 4 u] + 1) } }
  | _ => s

/-! ### Spill segments (R270, R286, R353) -/

/-- The header byte of a token with `L` as 0 (R9, R153). -/
def hdrOf (t : Token) : Nat := t.kind.code * 32 + t.fmt.code * 4 + t.s.toNat * 2

/-- The token of a header byte and a payload, `L` 0 (R9, R153). -/
def tokOfHdr (h : Nat) (p : Word) : Token :=
  { kind := Kind.ofCode (field h 7 5), fmt := Fmt.ofCode (field h 4 2), s := bitOf h 1, payload := p }

/-- The home of entry `j` of an instance's spill segment, in the pool at the top of a level-4 bank (R270, R286). -/
def spillHome (v : Inst) (j : Nat) : Nat :=
  match v.spillSeg with
  | some (sw, k) => homeSlice 4 sw (0x300000 + k * 65536 + 8 * j)
  | none => homeSlice 4 0 0x300000

/-- An entry: payload, header and seam number (R286). DESIGN CHOICE (log 105): the spec does not number the seams of an instance;
the model takes the panel's place in the gusset × 512 + node × 4 + in-port. -/
def spillWord (k : Nat) (t : Token) : Nat := t.payload.toNat + hdrOf t * 2 ^ 32 + k * 2 ^ 40

/-- The seam and token of an entry. -/
def spillTok (w : Nat) : Nat × Token := (field w 63 40, tokOfHdr (field w 39 32) (BitVec.ofNat 32 (w % 2 ^ 32)))

/-- The entries of an instance's spill segment, in the order they were written (R353). -/
def spillEntries (m : List Host.Cell) (v : Inst) : List (Nat × Token) :=
  (List.range v.spill).map fun j => spillTok (leNat (memBytes m (spillHome v j) 8))

/-- Writes a token as the next entry of a cast instance's segment (R353). -/
def spillPut (s : State) (i k : Nat) (t : Token) : State :=
  let v := s.inst i
  { s with mem := memPutDouble s.mem (spillHome v v.spill) (spillWord k t) }.updInst i fun v => { v with spill := v.spill + 1 }

/-- Replaces the entries of an instance's segment. -/
def spillSet (s : State) (i : Nat) (es : List (Nat × Token)) : State :=
  es.foldl (fun s e => spillPut s i e.1 e.2) (s.updInst i fun v => { v with spill := 0 })

/-- The element tokens of its block that are still to come, after a token (R49). -/
def blkLeft (t : Token) (k : Nat) : Nat :=
  match t.kind with
  | .blkh => if t.fmt == .x8 then 8 else if t.fmt == .x4 then 4 else k
  | .data => k - 1
  | _ => k

/-- The element tokens of an open block that are still to come behind what stands on a port's lane (R49). -/
def laneOpen (q : InPort) : Nat := (q.buf.toList ++ q.lane).foldl (fun k f => blkLeft f.tok k) q.blk

/-- An injected mark enters a port's lane once no block is open there (R49). -/
def pendMark (c : Nat) (q : InPort) : InPort :=
  match q.pend with
  | some t => if laneOpen q = 0 then { q with lane := q.lane ++ [{ tok := t, due := c + 1 }], pend := none } else q
  | none => q

/-- Puts a token on its way to a consumer. -/
def depart (extra : Nat) (s : State) (n : NodeId) (l : Letter) (t : Token) (tg : Target) : State :=
  match tg with
  | .port m ml k _ => s.updIn m ml k fun q =>
      let due := s.cycle + slow s n (seamTime n m + extra) + 1
      pendMark due { q with lane := q.lane ++ [{ tok := { t with l := ml.bit }, due := due, from_ := some (n, l) }] }
  | .spill i k => spillPut s i k t
  | .unwritten => s
  | .net m => netUse { s with netOut := s.netOut ++ [(m, .token t)] } m

/-! ### Traps: classes, entry and return (R362 to R375) -/

/-- The classes of fault (R362). -/
inductive Cls where
  | p | s | n | d | q
  deriving DecidableEq, Repr, Inhabited

/-- The class of a cause raised on the fabric (R362). -/
def causeCls (c : Cause) : Cls :=
  match c with
  | .pageNotPresent | .pageProtection | .peerUnreachable | .spillFault | .linkDown => .s
  | .promiseMissed | .spillStall | .planeParity => .n
  | .signalNegative | .queueOverrun | .launchInvalid | .barrierTimeout => .q
  | .breakpoint | .software | .step => .d
  | _ => .p

/-- The code of a class in `TCAUSE` (R370). -/
def Cls.code : Cls → Nat
  | .p => 0 | .s => 1 | .n => 2 | .d => 3 | .q => 0

/-- The payload of the PSN a faulting node makes (R12); a node outside the panels gives the origin panel. DESIGN CHOICE (log 117):
a merge or port unit has no node address in a panel, and its payload has 0 in that field. -/
def psnPayload (s : State) (n : NodeId) (l : Letter) (c : Cause) : Word :=
  let a := match n with
    | .panel _ k => k
    | _ => 0
  BitVec.ofNat 32 (c.code + a * 64 + panelOf s n l * 8192)

/-- Whether a trap of an instance is precise: nothing since its last release was imprecise and no log has overflowed (R369). -/
def isPrecise (s : State) (i : Nat) : Bool :=
  let v := s.inst i
  !v.impr && v.region.all fun e => !(s.plane e.1 e.2).mp.logOver

/-- An access of a node of the window region that makes a trap imprecise (R369). -/
def impreciseAt (s : State) (n : NodeId) (l : Letter) : State :=
  let i := instOf s n l
  if (s.inst i).region.contains (n, l) then imprecise s i else s

/-- The places of a partition's ring, 255 for an empty one (R387). -/
def ringOf (v : Part) : List Nat := (List.range 4).map fun k => field v.pring (8 * k + 7) (8 * k)

/-- Whether a partition's ring names two or more VFs (R391, R393). -/
def ringMany (v : Part) : Bool := decide (2 ≤ ((ringOf v).filter fun x => x != 255).length)

/-- First column, first row, width and height of a valid partition (R387). -/
def partRect (v : Part) : Option (Nat × Nat × Nat × Nat) :=
  if bitOf v.prect 31 then some (field v.prect 6 0, field v.prect 13 7, field v.prect 20 14 + 1, field v.prect 27 21 + 1) else none

/-- Whether the square of `d` × `d` panels at a column and row meets a valid partition. -/
def squareMeets (x y d : Nat) (v : Part) : Bool :=
  match partRect v with
  | some (px, py, w, h) => decide (x < px + w) && decide (px < x + d) && decide (y < py + h) && decide (py < y + d)
  | none => false

/-- The valid partition that a panel lies in (R388). -/
def partAt (s : State) (p : Nat) : Option Nat := (s.parts.find? fun e => squareMeets (colOf p) (rowOf p) 1 e.2).map (·.1)

/-- A selvage router refuses what goes between panels of different partitions (R389). -/
def selvageStops (s : State) (p q : Nat) : Bool := p != q && partAt s p != partAt s q

/-- Whether the subtree of a switch meets a valid partition. -/
def subtreeMeets (lvl sw : Nat) (v : Part) : Bool :=
  squareMeets (sw % (128 / 2 ^ lvl) * 2 ^ lvl) (sw / (128 / 2 ^ lvl) * 2 ^ lvl) (2 ^ lvl) v

/-- Whether firmware splits a bank: its subtree meets two partitions, or one whose ring names several VFs (R391). -/
def mustSplit (s : State) (lvl sw : Nat) : Bool :=
  let ps := (s.parts.map (·.2)).filter (subtreeMeets lvl sw)
  decide (2 ≤ ps.length) || ps.any ringMany

/-- The partition of a context (R387, R388). -/
def partOf (s : State) (c : Nat) : Nat := field (s.vf (s.ctx c).vf).cfg 5 0

/-- Whether a context's partition has a ring that names two or more VFs (R393, R397). -/
def ringShared (s : State) (c : Nat) : Bool :=
  decide (2 ≤ ((ringOf (s.part (partOf s c))).filter fun v => v != 255).length)

/-- Whether the partition of a context's VF shares its panels and the VF is not the running one (R398). -/
def descheduled (s : State) (c : Nat) : Bool :=
  let part := s.part (partOf s c)
  ringShared s c && decide ((ringOf part).getD part.rcur 255 ≠ (s.ctx c).vf)

/-- Whether a plane holds slots for a PSN at a port; one that holds none poison-stops (R365), and so does any matrix array (R234). -/
def takesPsn (n : NodeId) (p : Plane) (k : Fin 4) : Bool :=
  kindOf n != .mxa && p.slots.toList.any fun w => tV w.1 && tTP w.1 == k && (tTT w.1 == 12 || tTT w.1 == 15)

/-- The first PSN at a head that no slot takes (R234, R365). -/
def headPoison (n : NodeId) (p : Plane) : Option Word :=
  (List.finRange 4).findSome? fun k =>
    ((rawHead p k).filter fun t => headSettled p k && t.kind == .psn && !takesPsn n p k).map (·.payload)

/-- A plane whose stop or hold ends issues again, unless such a PSN stands at a head, which stops it (R365). -/
def lift (n : NodeId) (p : Plane) : Plane :=
  match headPoison n p with
  | none => { p with stop := .run, psn := none, psnDone := [] }
  | some w => { p with stop := .poison, psn := some w, psnDone := if p.psn = some w then p.psnDone else [] }

/-- A PSN that no slot takes becomes a head (R365): the plane stops and sends it on. One that holds or is stalled sends it on too
and stops for it when its hold ends. -/
def poisonBy (w : Word) (p : Plane) : Plane :=
  match p.stop with
  | .run => { p with stop := .poison, psn := some w, psnDone := [] }
  | .fault _ => p
  | .poison => p
  | _ => if p.psn.isSome then p else { p with psn := some w, psnDone := [] }

/-- The entries of a core's trap queue (R364). -/
def trapCap : Nat := 16

/-- The most events that a descheduled VF withholds (R398). -/
def withheldCap : Nat := 1024

/-- A trap waits at its core for an entry of its queue, or for its VF's next slice; its node stays stopped until then, even
under class N (R364, R398). -/
def waitTrap (s : State) (c id : Nat) (t : Trap) : State :=
  (s.updCore c fun k => { k with late := k.late ++ [id] }).updPlane t.node t.letter fun p =>
    if p.stop = .run then { p with stop := .fault id } else p

/-- A trap enters the queue of its panel's armature core behind those that wait there; where there is no entry free it waits
(R364). -/
def enqTrap (s : State) (id : Nat) (t : Trap) : State :=
  let c := coreOf (panelOf s t.node t.letter)
  if (s.core c).queue.length < trapCap ∧ (s.core c).late = [] then s.updCore c fun k => { k with queue := k.queue ++ [id] }
  else waitTrap s c id t

/-- Queues a trap for delivery (R364), or withholds it while its VF is descheduled (R398); where `VWHELD` is at its limit the trap
waits. -/
def queueTrap (s : State) (id : Nat) (t : Trap) : State :=
  let s := { s with traps := mset s.traps id t }
  let v := (s.ctx t.ctx).vf
  if descheduled s t.ctx then
    if (s.vf v).withheld.length < withheldCap then
      { s with vfs := mupd s.vfs v fun v => { v with withheld := v.withheld ++ [.trap id] } }
    else waitTrap s (coreOf (panelOf s t.node t.letter)) id t
  else enqTrap s id t

/-- A trap that waits enters its core's queue once an entry is free and its VF is not descheduled; a node that waited under class
N goes on (R364, R398). -/
def admitTrap (c : Nat) (s : State) (id : Nat) : State :=
  let t := s.trap id
  if trapCap ≤ (s.core c).queue.length ∨ descheduled s t.ctx = true then s
  else
    (s.updCore c fun k => { k with queue := k.queue ++ [id], late := k.late.erase id }).updPlane t.node t.letter fun p =>
      if causeCls t.cause = .n ∧ p.stop = .fault id then lift t.node p else p

/-- The traps that wait at a core enter its queue as far as there is room, in arrival order (R364). -/
def admitTraps (s : State) (c : Nat) : State := (s.core c).late.foldl (admitTrap c) s

/-- A trap that ends without its handler: it leaves the queues, and a core that serves it serves nothing (R375, R376). -/
def forgetTrap (s : State) (id : Nat) : State :=
  { s with
    cores := mmap s.cores fun _ k =>
      let k := { k with queue := k.queue.filter fun t => !decide (t = id), late := k.late.filter fun t => !decide (t = id) }
      if k.serving = some id then { k with serving := none, images := [], entry := [], branch := none } else k
    vfs := mmap s.vfs fun _ v => { v with withheld := v.withheld.filter fun e => !decide (e = .trap id) }
    traps := mdel s.traps id }

/-- How a fault of a class stops its plane (R362, R365). -/
def stopPlane (p : Plane) (c : Cls) (id : Nat) (psn : Word) : Plane :=
  match c with
  | .p => { p with stop := .fault id, psn := p.psn.or (some psn) }
  | .s => { p with stop := .stall id }
  | .d => { p with stop := .fault id }
  | .n => p
  | .q => p

/-- A panel node's plane as `DBGSEL` names it (R380); no other node has a name there. -/
def dbgCode (n : NodeId) (l : Letter) : Nat :=
  match n with
  | .panel p a => p + a * 2 ^ 14 + l.bit.toNat * 2 ^ 21
  | _ => 2 ^ 22

/-- A step of a debugger keeps the fault of the plane it steps (R380). -/
def noteFault (s : State) (c : Nat) (t : Trap) : State :=
  let x := s.ctx c
  if x.dbgop.isSome && dbgCode t.node t.letter == x.dbgsel && causeCls t.cause != .d then s.updCtx c fun x => { x with dbgrec := some (t.slot, t.cause) } else s

/-- A replay in progress is given up when another fault of its instance comes first (R374). -/
def abandonReplay (s : State) (i : Nat) : State :=
  match (s.inst i).replay with
  | none => s
  | some id =>
    let f (p : Plane) : Plane := if p.inst = i then { p with replay := none } else p
    { s with traps := mdel s.traps id, nodes := mmap s.nodes fun _ d => { d with pa := f d.pa, pb := f d.pb }
             insts := mupd s.insts i fun v => { v with replay := none } }

/-- TAKING A TRAP (R362, R364 to R366): the node stops under the fault's class, a poison fault leaves a PSN to
be placed, and the instance's first fault sets its flag and queues one trap; a later fault of a flagged
instance only stops its node and counts in `TMULTI`. -/
def takeTrap (s : State) (t : Trap) : State :=
  let i := s.inst t.inst
  let id := if i.fault then i.trap else s.ids
  let s := (noteFault s i.ctx t).updPlane t.node t.letter fun p =>
    stopPlane p (causeCls t.cause) id (psnPayload s t.node t.letter t.cause)
  if i.fault then s.updInst t.inst fun v => { v with tmulti := min (v.tmulti + 1) 255 }
  else
    let s := (abandonReplay s t.inst).updInst t.inst fun v => { v with fault := true, trap := id, tmulti := 0 }
    queueTrap s.fresh id { t with prec := isPrecise s t.inst, ctx := i.ctx }

/-- The trap of a plane with nothing more known than the cause; the slot field is a free value, which the
spec does not state for a fault that no firing raised (log 9). -/
def headTrap (s : State) (n : NodeId) (l : Letter) (c : Cause) : Trap :=
  { cause := c, node := n, letter := l, inst := instOf s n l, slot := Config.freeNat s.free % 16, slotKind := 3,
    fire := (s.plane n l).fires }

/-- Takes a trap for a fault that no firing raised. -/
def headFault (s : State) (n : NodeId) (l : Letter) (c : Cause) : State :=
  takeTrap { s with free := s.free + 1 } (headTrap s n l c)

/-- Whether a token would cross the edge of a partition (R389). -/
def crossesSelvage (s : State) (n : NodeId) (tg : Target) : Bool :=
  match n, tg with
  | .panel p _, .port (.panel q _) _ _ _ => selvageStops s p q
  | _, _ => false

/-- Delivers a token to a consumer's seam lane, after `extra` cycles beyond the seam's own (R25, R64, R340, R369); one that a
selvage router refuses faults its sender (R389). -/
def deliverAfter (extra : Nat) (s : State) (n : NodeId) (l : Letter) (t : Token) (tg : Target) : State :=
  if dropsMark s n l t tg then s
  else if crossesSelvage s n tg then headFault s n l .internal
  else depart extra (if leavesRegion s n l t tg then imprecise s (instOf s n l) else s) n l t tg

/-- Delivers a token to a consumer's seam lane. -/
def deliver (s : State) (n : NodeId) (l : Letter) (t : Token) (tg : Target) : State := deliverAfter 0 s n l t tg

/-! ### Heads (R10, R11, R21 to R23, R365) -/

/-- Whether a valid slot tag-tests any port for one of the codes (R168). -/
def testsAny (p : Plane) (tts : List Nat) : Bool :=
  p.slots.toList.any fun w => tV w.1 && tts.contains (tTT w.1)

/-- The fault a token raises as it becomes the head, if any (R10, R11, R22, R23, R117). -/
def headCause (w : Word) (f : Flit) : Option Cause :=
  match f.tok.kind with
  | .rsv6 => some .kindReserved
  | .rsv7 => some .kindReserved
  | .mark => if 5 ≤ markSub f.tok.payload then some .kindReserved else none
  | .data =>
    match f.bad with
    | some c => some c
    | none =>
      if (iwExpect w == 0 && f.tok.s) || (iwExpect w == 1 && !f.tok.s) then some .scaleMismatch else none
  | _ => f.bad

/-- The elements of the open block after the tokens of a lane, 32 when none is open (R51). -/
def laneUsed (u : Nat) : List Token → Nat
  | [] => u
  | t :: ts => laneUsed (match t.kind with
      | .blkh => 0
      | _ => if t.fmt == .x8 || t.fmt == .x4 then u + t.fmt.lanes else u) ts

/-- An EOS at the head of a port that feeds an edge of a matrix array whose lanes have an open block (R51). -/
def eosInBlock (n : NodeId) (p : Plane) (k : Fin 4) (t : Token) : Bool :=
  t.kind == .eos && kindOf n == .mxa && decide (k.val < 2)
    && (List.range 16).any fun j =>
      decide (laneUsed (p.mxa.blks.toList.getD (16 * k.val + j) {}).used (p.mxa.lanes.toList.getD (16 * k.val + j) []) < 32)

/-- Settles a port's head when a token has become it: the checks of a head token, its sticky residue, the
standing time of a mark, and the poison stop of a plane with no slot for a PSN (R10, R11, R21 to R23, R365). -/
def settle (s : State) (n : NodeId) (l : Letter) (k : Fin 4) : State :=
  let p := s.plane n l
  let q := p.ins[k]
  match q.fifo with
  | [] => s
  | f :: _ =>
    if q.settled then s
    else
      let res := if f.tok.kind == .data then iwSticky p.inw[k] else 0
      let ms := if f.tok.kind == .mark then some s.cycle else none
      let s := s.updIn n l k fun q => { q with settled := true, residue := res, markSince := ms }
      match headCause p.inw[k] f with
      | some c => headFault s n l c
      | none =>
        if eosInBlock n p k f.tok then headFault s n l .blockExponent
        else if f.tok.kind == .psn && !takesPsn n p k then s.updPlane n l (poisonBy f.tok.payload)
        else s

/-- Settles the heads of a plane that are not settled. -/
def settlePlane (s : State) (n : NodeId) (l : Letter) : State := settle (settle (settle (settle s n l 0) n l 1) n l 2) n l 3

/-- Settles every head of the device that a removal of tokens has uncovered. -/
def settleAll (s : State) : State := s.nodes.foldl (fun s e => settlePlane (settlePlane s e.1 .a) e.1 .b) s

/-- The cycles from which the last entries of a FIFO are free, after one more. -/
def freedAt (c : Nat) (fs : List Nat) : List Nat := (fs ++ [c]).drop (fs.length + 1 - fifoCap)

/-- Dequeues a port's head and settles the next; its entry is free from the next cycle (R19, R24). -/
def dequeue (s : State) (n : NodeId) (l : Letter) (k : Fin 4) : State :=
  settle (s.updIn n l k fun q =>
    { q with fifo := q.fifo.tail, settled := false, markSince := none, freed := freedAt (s.cycle + 1) q.freed }) n l k

/-- Whether a memory port keeps a log of what it consumes from this port (R368). -/
def logged (s : State) (n : NodeId) (l : Letter) (k : Fin 4) : Bool :=
  (s.inst (instOf s n l)).logPorts.contains (n, l, k.val)

/-- Logs a consumed token, up to 4,096 (R368, R369). -/
def logTok (m : MemPort) (k : Nat) (t : Token) : MemPort :=
  if m.log.length < 4096 then { m with log := m.log ++ [(k, t)] } else { m with logOver := true }

/-- Removes the first pair of a port from a list of logged tokens. -/
def dropFirst (k : Nat) : List (Nat × Token) → List (Nat × Token)
  | [] => []
  | e :: t => if e.1 = k then t else e :: dropFirst k t

/-- One consuming read of a port (R20, R21, R368, R373): a logged token during replay, else the head, which a
sticky DATA token leaves in place until its residue is used up. -/
def consume (s : State) (n : NodeId) (l : Letter) (k : Fin 4) : State :=
  let p := s.plane n l
  match p.mp.relog.find? fun e => e.1 == k.val with
  | some e => s.updPlane n l fun p =>
      { p with mp := logTok { p.mp with relog := dropFirst k.val p.mp.relog } k.val e.2 }
  | none =>
    match p.ins[k].fifo with
    | [] => s
    | f :: _ =>
      let s := if logged s n l k then s.updPlane n l fun p => { p with mp := logTok p.mp k.val f.tok } else s
      if f.tok.kind == .data && p.ins[k].residue != 0 then
        s.updIn n l k fun q => { q with residue := q.residue - 1 }
      else dequeue s n l k

/-- Consumes a list of ports. -/
def consumeAll (s : State) (n : NodeId) (l : Letter) : List (Fin 4) → State
  | [] => s
  | k :: t => consumeAll (consume s n l k) n l t

/-! ### Planes: release (R183, R355) -/

/-- Whether a wire of an instance other than `i` leaves the out-port of wire `w`. -/
def wireShared (s : State) (i : Nat) (w : Wire) : Bool :=
  s.insts.any fun e => decide (e.1 ≠ i) && e.2.wires.any fun x =>
    x.panel == w.panel && x.node == w.node && x.letter == w.letter && x.out == w.out

/-- Removes a wire of instance `i`: its entries, and its sender's route word when no other seam leaves that port, so
that the out-port is no longer wired (R340, R355). -/
def unwire (i : Nat) (s : State) (w : Wire) : State :=
  let n := NodeId.panel w.panel w.node
  let s := if wireShared s i w then s
    else s.updPlane n w.letter fun p => { p with rw := p.rw.set (Fin.ofNat 4 w.out) 0 }
  s.updSide w.panel w.letter fun v => { v with routes := w.entries.foldl mdel v.routes }

/-- One user of a way less; the last one ends the claim (R269). -/
def dropWay (w : Way) : Way :=
  if w.users ≤ 1 then { w with users := 0, claim := none, lastCtx := w.claim } else { w with users := w.users - 1 }

/-- A way of a bank less one user; a whole bank's last context is that of all its ways, and one that firmware must split is split
once no context claims it (R269, R391, R392). -/
def dropBank (must : Bool) (b : SliceBank) (k : Nat) : SliceBank :=
  let w := dropWay b.ways[Fin.ofNat 4 k]
  let ws := b.ways.set (Fin.ofNat 4 k) w
  if b.split || w.claim.isSome then { b with ways := ws }
  else { b with ways := ws.map fun x => { x with lastCtx := w.lastCtx }, split := must }

/-- Releases the ways an instance binds. -/
def dropWays (s : State) : List (Nat × Nat × Nat) → State
  | [] => s
  | (lvl, sw, k) :: t => dropWays { s with banks := mupd s.banks (lvl, sw) fun b => dropBank (mustSplit s lvl sw) b k } t

/-- A plane of an ended instance: inactive, belonging to no instance, with none of its tokens left at its ports or on its
lanes for a later occupant to see (R39, R183). The copies it has queued go on (R183, R335). -/
def endPlane (i : Nat) (p : Plane) : Plane :=
  if p.inst = i then { p with active := false, basted := false, out := false, inst := 0, ops := [], stop := .run, mp := {}, psn := none, psnDone := [],
                              ins := Vector.replicate 4 {}, outs := Vector.replicate 4 {}, latch := [], inject := none } else p

/-- A node of an ended instance: its planes, and its stream engine and bespoke sequencer, which nothing holds (R183, R192,
R245). -/
def endNode (i : Nat) (d : Node) : Node :=
  let mine (l : Letter) : Bool := decide ((d.plane l).inst = i)
  { d with pa := endPlane i d.pa, pb := endPlane i d.pb
           engine := d.engine.filter fun e => !mine e.letter
           seqr := d.seqr.filter fun q => !mine q.letter }

/-- A member of a bundle whose callee has ended (R346). -/
def endMember (i : Nat) (m : MemberSt) : MemberSt :=
  match m with
  | .placed j => if j = i then .ended i false false else m
  | .pleated j => if j = i then .ended i true false else m
  | .cast j => if j = i then .ended i false true else m
  | _ => m

/-- A letter of a panel that an ended instance held is free. -/
def endSide (i : Nat) (v : PanelSide) : PanelSide :=
  match v.hold with
  | .inst j => if j = i then { v with hold := .free } else v
  | .pleating j => if j = i then { v with hold := .free } else v
  | .basted j _ => if j = i then { v with hold := .free } else v
  | .loading j _ _ => if j = i then { v with hold := .free, ploads := [] } else v
  | _ => v

/-- Whether a placement request is for a bundle of an instance. -/
def reqOfCaller (s : State) (i : Nat) (r : Req) : Bool :=
  match r.for_ with
  | .member b _ => decide ((mget s.bundles b).caller = i)
  | .launch _ => false

/-- A letter whose claiming request is gone is free (R345). -/
def freeClaim (rs : Map Nat Req) (v : PanelSide) : PanelSide :=
  match v.hold with
  | .claimed r => if (mget? rs r).isSome then v else { v with hold := .free }
  | _ => v

/-- Removes placement requests and frees what they had claimed. -/
def dropReqs (s : State) (f : Req → Bool) : State :=
  let rs := s.reqs.filter fun e => !f e.2
  let s := dropWays s ((s.reqs.filter fun e => f e.2).flatMap fun e => e.2.ways)
  { s with reqs := rs, panels := mmap s.panels fun _ q => { q with sa := freeClaim rs q.sa, sb := freeClaim rs q.sb } }

/-- An access that nothing recalls once it is issued: a write to device or peer memory, not buffered and not stalled
(R209, R369, R375). -/
def posted (s : State) (a : Access) : Bool :=
  (a.space == .device || a.space == .peer) && (match a.st with
    | .stalled _ => false
    | _ => true) && (match a.act with
    | .store _ => a.commit || !((s.inst a.inst).wins.getD a.win {}).cwe
    | .bupd _ _ => true
    | .sigw _ => true
    | .atomic _ _ _ _ => true
    | _ => false)

/-- Whether a window of a live instance, a latch or a press still names a handle record of a context (R221, R223). -/
def handleUsed (s : State) (c va : Nat) : Bool :=
  (s.insts.any fun e => decide (e.2.ctx = c) && e.2.wins.any fun x => x.handle == some va)
  || (s.nodes.any fun e => [e.2.pa, e.2.pb].any fun p => decide ((s.inst p.inst).ctx = c) && p.latch.any fun f => f.2.handle == some va)
  || (s.presses.any fun e => e.2.any fun p => decide (p.ctx = c) && decide (p.handle = va))

/-- The device keeps its own state of a handle record while something names it (R221). -/
def pruneHandles (s : State) : State := { s with handles := s.handles.filter fun e => handleUsed s e.1.1 e.1.2 }

/-- Ends an instance: its planes become inactive, its seams are unwired, its panels, letters, banks and id are
released (R183, R269, R355). -/
def releaseInst (s : State) (i : Nat) : State :=
  let v := s.inst i
  let s := dropReqs s (reqOfCaller s i)
  let s := if v.fault then forgetTrap s v.trap else s
  let s := v.replay.elim s (forgetTrap s)
  let s := v.wires.foldl (unwire i) s
  let s := dropWays s v.ways
  pruneHandles { s with
    nodes := mmap s.nodes fun _ d => endNode i d
    panels := mmap s.panels fun _ q => { q with sa := endSide i q.sa, sb := endSide i q.sb }
    accs := s.accs.filter fun e => !decide (e.2.inst = i) || posted s e.2
    bundles := mmap (s.bundles.filter fun e => !decide (e.2.caller = i)) fun _ b => { b with members := b.members.map (endMember i) }
    ctxs := mupd s.ctxs v.ctx fun c => { c with castUsed := match v.castUnit with
      | some u => c.castUsed.filter fun k => !(decide (u ≤ k) && decide (k < u + v.pat.fw * v.pat.fh))
      | none => c.castUsed }
    insts := mdel s.insts i }

/-- The place of the next packet to end among those that have ended (R336). -/
def nextSeq (s : State) : Nat := (s.runs.map fun e => e.2.seq).foldl max 0 + 1

/-- One live instance of a launch less; the last one ends the launch (R183, R317). -/
def runEnded (s : State) (r : Nat) : State :=
  { s with runs := mmap s.runs fun k v =>
      if k = r then
        match v.kind with
        | .launch live todo =>
          { v with kind := .launch (live - 1) todo, ended := decide (live ≤ 1) && decide (todo = 0), seq := nextSeq s }
        | _ => v
      else v }

/-- Drops the copies that satisfy a condition, wherever they are queued. -/
def dropCopies (s : State) (f : CopyJob → Bool) : State :=
  let fix (p : Plane) : Plane := if p.copies.any f then { p with copies := p.copies.filter fun j => !f j } else p
  { s with nodes := mmap s.nodes fun _ d => { d with pa := fix d.pa, pb := fix d.pb } }

/-- Ends every instance of a launch and its callees, with the cause the launch completes with (R375, R319). -/
def terminateRun (s : State) (r : Nat) (c : Cause) : State :=
  let ids := (s.insts.filter fun e => decide (e.2.run = r)).map (·.1)
  let s := dropCopies (dropReqs (ids.foldl releaseInst s) fun q => decide (q.for_ = .launch r)) fun j => j.run == r && j.run != 0
  { s with
    runs := mmap s.runs fun k v => if k = r then { v with kind := .launch 0 0, cause := some c, ended := true, seq := nextSeq s } else v }

/-! ### Trap images (R370, R371) -/

/-- An entry that holds a token, or is absent. -/
def entryOf (t : Option Token) : Entry := { tok := t.getD {}, present := t.isSome }

/-- The entry of a FIFO's token. -/
def entryOfFlit (f : Flit) : Entry := { tok := f.tok, present := true, bad := f.bad, back := f.back, from_ := f.from_ }

/-- An entry's token as a FIFO holds it. -/
def Entry.flit (e : Entry) : Flit := { tok := e.tok, bad := e.bad, back := e.back, from_ := e.from_ }

/-- The token of an entry, if present. -/
def Entry.tok? (e : Entry) : Option Token := if e.present then some e.tok else none

/-- The entries of an image's FIFO that hold a token, head first. -/
def Image.entries (i : Image) (k : Fin 4) : List Entry :=
  ((List.range 3).map fun j => i.slots.toList.getD (3 * k.val + j) {}).filter (·.present)

/-- The tokens of an image's FIFO, head first. -/
def Image.fifo (i : Image) (k : Fin 4) : List Token := (i.entries k).map (·.tok)

/-- Replaces the entries of an image's FIFO. -/
def Image.setFifo (i : Image) (k : Fin 4) (es : List Entry) : Image :=
  { i with slots := Vector.ofFn fun j => if j.val / 3 = k.val then (es[j.val % 3]?).getD {} else i.slots[j] }

/-- The image of a plane as it stands at a trap's entry: the operands of the faulting firing at the heads of their ports, then
the FIFOs (R370, R371). DEDUCED (log 118): a sticky operand that has stayed at its head is there already, and its residue counts the
read again. -/
def freshImage (t : Trap) (n : NodeId) (l : Letter) (p : Plane) : Image :=
  let own := decide (t.node = n) && decide (t.letter = l)
  let ops (k : Fin 4) : List Consumed := if own then t.ops.filter fun e => e.port == k.val else []
  let gone (k : Fin 4) : List Entry := ((ops k).filter fun e => !e.stays).map fun e => entryOfFlit e.flit
  let es (k : Fin 4) : List Entry := gone k ++ p.ins[k].fifo.map entryOfFlit
  { slots := Vector.ofFn fun j => ((es (Fin.ofNat 4 (j.val / 3)))[j.val % 3]?).getD {}
    outs := Vector.ofFn fun k => entryOf p.outs[k].slot
    g := p.g, h := p.h, p := p.p
    sticky := Vector.ofFn fun k => if (gone k).isEmpty then p.ins[k].residue + (ops k).length else 0
    pcw := p.pcw
    opd := if own then (t.ops.map (·.port) ++ t.ports).dedup else []
    shown := Vector.ofFn fun k => min p.ins[k].fifo.length (3 - (gone k).length) }

/-- A plane as it stood at the entry of the trap that a core serves (R370). -/
def entryPlane (s : State) (c : Nat) (n : NodeId) (l : Letter) : Plane := (mget (s.core c).entry n).plane l

/-- The image a core holds of a plane: what the handler has made of it, or the plane as it stood at the entry (R370). -/
def imageOf (s : State) (c : Nat) (n : NodeId) (l : Letter) : Image :=
  match mget? (s.core c).images (n, l) with
  | some i => i
  | none => freshImage (s.trap ((s.core c).serving.getD 0)) n l (entryPlane s c n l)

/-- Replaces a core's image of a plane. -/
def setImage (s : State) (c : Nat) (n : NodeId) (l : Letter) (i : Image) : State :=
  s.updCore c fun k => { k with images := mset k.images (n, l) i }

/-- The sticky counts of a plane's in-ports, which the image's next head loads (R21). -/
def stickies (s : State) (n : NodeId) (l : Letter) (k : Fin 4) : Nat := iwSticky (s.plane n l).inw[k]

/-- One consuming read of an image's port: a sticky DATA head with a residue stays, any other leaves and the next loads its
residue (R20, R21); the head is then no operand of the faulting firing any more (R190). -/
def consumeHead (stk : Fin 4 → Nat) (i : Image) (k : Fin 4) : Image :=
  let i := { i with opd := i.opd.filter fun j => !decide (j = k.val) }
  let isData (ts : List Token) : Bool := (ts.head?.map (·.kind)) == some .data
  if i.sticky[k] != 0 && isData (i.fifo k) then { i with sticky := i.sticky.set k (i.sticky[k] - 1) }
  else { i.setFifo k (i.entries k).tail with sticky := i.sticky.set k (if isData (i.fifo k).tail then stk k else 0) }

/-- Consuming reads of a list of ports of an image. -/
def consumeImage (stk : Fin 4 → Nat) (i : Image) (ks : List (Fin 4)) : Image := ks.foldl (consumeHead stk) i

/-- The image after a retire: the operands that stand at their heads are consumed (R372). -/
def dropOperands (stk : Fin 4 → Nat) (i : Image) : Image :=
  consumeImage stk i ((List.finRange 4).filter fun k => i.opd.contains k.val)

/-- Whether an image gives a port other tokens than it held at the entry. -/
def portChanged (o : Plane) (i : Image) (k : Fin 4) : Bool := decide (i.entries k ≠ (o.ins[k].fifo.take 3).map entryOfFlit)

/-- A port whose FIFO an image replaces, where it differs from the entry's (R371); the tokens accepted since the entry, and
those that three entries do not show, follow (R385). -/
def loadPort (o : Plane) (i : Image) (k : Fin 4) (q : InPort) : InPort :=
  if portChanged o i k then
    let fs := (i.entries k).map (·.flit)
    { q with fifo := fs ++ q.fifo.drop i.shown[k], settled := q.settled && decide (fs.head? = q.fifo.head?) && !fs.isEmpty }
  else q

/-- A port's residue as an image has it, where it or the FIFO differs from the entry's. -/
def loadSticky (o : Plane) (i : Image) (p : Plane) : Plane :=
  { p with ins := Vector.ofFn fun k =>
      if portChanged o i k || i.sticky[k] != o.ins[k].residue then { p.ins[k] with residue := i.sticky[k] } else p.ins[k] }

/-- An out-port with an image loaded back: its slot where it differs, and behind it what EMUL appended, which follows as the
slot frees (R190, R371). -/
def loadOut (o : Plane) (i : Image) (k : Fin 4) (q : OutPort) : OutPort :=
  { q with slot := if i.outs[k] = entryOf o.outs[k].slot then q.slot else i.outs[k].tok?
           retq := q.retq ++ (i.more.filter fun e => e.1 == k.val).map fun e => { tok := some e.2 } }

/-- A plane with an image loaded back (R371). DEDUCED (log 118): what the image has as it stood at the entry stays as the node has
it now. `o` is the plane at the entry. -/
def loadImage (o : Plane) (i : Image) (p : Plane) : Plane :=
  { p with ins := Vector.ofFn fun k => loadPort o i k p.ins[k]
           outs := Vector.ofFn fun k => loadOut o i k p.outs[k]
           g := Vector.ofFn fun k => if i.g[k] = o.g[k] then p.g[k] else i.g[k]
           h := Vector.ofFn fun k => if i.h[k] = o.h[k] then p.h[k] else i.h[k]
           p := Vector.ofFn fun k => if i.p[k] = o.p[k] then p.p[k] else i.p[k]
           pcw := if i.pcw = o.pcw then p.pcw else i.pcw }

/-- Loads images of a core back into their nodes; a new head is checked as any (R371). -/
def loadImages (s : State) (c : Nat) : Map (NodeId × Letter) Image → State
  | [] => s
  | (k, i) :: t =>
    let o := entryPlane s c k.1 k.2
    let s := settlePlane (s.updPlane k.1 k.2 (loadImage o i)) k.1 k.2
    loadImages (s.updPlane k.1 k.2 (loadSticky o i)) c t

/-! ### Replay (R373, R384) -/

/-- A token list without the PSNs of a payload. -/
def noPsn (w : Word) (t : Token) : Bool := !(t.kind == .psn && t.payload == w)

/-- A port without a trap's PSNs; a head that changed has still to be settled. -/
def portNoPsn (w : Word) (q : InPort) : InPort :=
  let keep := q.fifo.filter fun f => noPsn w f.tok
  { q with fifo := keep, settled := q.settled && decide (keep.head? = q.fifo.head?) && !keep.isEmpty
           lane := q.lane.filter fun f => noPsn w f.tok
           buf := q.buf.filter fun f => noPsn w f.tok }

/-- A plane without a trap's PSNs (step 2), resumed if they had poison-stopped it (step 4). -/
def planeNoPsn (n : NodeId) (w : Word) (p : Plane) : Plane :=
  let q := { p with ins := Vector.ofFn fun k => portNoPsn w p.ins[k]
                    outs := Vector.ofFn fun k => { p.outs[k] with slot := p.outs[k].slot.filter (noPsn w) } }
  if p.psn = some w then (if p.stop = .poison then lift n q else { q with psn := none, psnDone := [] }) else q

/-- A port of a region node at a replay: tokens that region nodes sent are gone, the rest stay (R384). The residue is the
shadow's, but that of a token that a logged port holds, whose reads stand in the log (R368). -/
def replayPort (region : List (NodeId × Letter)) (log : Bool) (residue : Nat) (q : InPort) : InPort :=
  let out (f : Option (NodeId × Letter)) : Bool := match f with
    | some x => !region.contains x
    | none => true
  let keep := q.fifo.filter fun f => out f.from_
  { q with fifo := keep, settled := q.settled && decide (keep.head? = q.fifo.head?) && !keep.isEmpty,
           residue := if log then q.residue else residue, lane := q.lane.filter fun f => out f.from_,
           buf := q.buf.filter fun f => out f.from_, cv := q.cv.filter fun f => out f.from_ }

/-- The matrix array at a replay (R373): lanes empty, operations abandoned, banks and metadata as shadowed. -/
def replayMxa (m : Mxa) : Mxa :=
  { m with lanes := Vector.replicate 32 [], blks := Vector.replicate 32 {}, bank0 := m.sbank0, bank1 := m.sbank1,
           m := m.sm, tiles := [], drain := none, loadW := none, loadN := none, cmpr := none, mdl := none,
           east := [], south := [], cw := [], cn := [] }

/-- A region plane restored from its shadow (step 3 of R373). What an earlier replay had still to take from its log follows
what has been logged since (R374). -/
def replayPlane (region : List (NodeId × Letter)) (log : Fin 4 → Bool) (p : Plane) : Plane :=
  { p with g := p.shadow.g, p := p.shadow.p
           ins := Vector.ofFn fun k => replayPort region (log k) p.shadow.residue[k] p.ins[k]
           outs := Vector.ofFn fun k => { p.outs[k] with slot := none, res := none, retq := [], swap := false, blk := 0 }
           fires := 0, ops := [], stop := .run, psn := none, psnDone := [], winCopy := none, copies := p.copies
           mp := { p.mp with discarded := p.mp.buf.length, buf := [], held := none, since := p.mp.sinceRel, wins := p.mp.winsRel,
                             relog := p.mp.log ++ p.mp.relog, log := [], feed := none, busy := 0 }
           mxa := replayMxa p.mxa, sout := p.ssout }

/-- The replay of R373: steps 1 to 5. The faulting plane then makes `TFIRE` − 1 firings if it lies in the
region, and otherwise holds at once. -/
def startReplay (s : State) (id : Nat) (t : Trap) : State :=
  let v := s.inst t.inst
  let w := psnPayload s t.node t.letter t.cause
  let inR (n : NodeId) (l : Letter) : Bool := v.region.contains (n, l)
  let fix (n : NodeId) (l : Letter) (p : Plane) : Plane :=
    let p := planeNoPsn n w p
    let p := if inR n l then replayPlane v.region (fun k => v.logPorts.contains (n, l, k.val)) p else p
    if n = t.node ∧ l = t.letter then
      { p with replay := some (if inR n l then t.fire - 1 else 0), replaySince := s.cycle,
               stop := if inR n l then .run else .held }
    else p
  let clean (x : SavedPlane) : SavedPlane := { x with plane := planeNoPsn x.node w x.plane }
  let s := s.insts.foldl (fun s e => if e.2.spill = 0 then s else spillSet s e.1 ((spillEntries s.mem e.2).filter fun e => noPsn w e.2)) s
  settleAll { s with
    nodes := mmap s.nodes fun n d => { d with pa := fix n .a d.pa, pb := fix n .b d.pb,
                                              engine := d.engine.filter fun e => !inR n e.letter
                                              seqr := d.seqr.filter fun q => !inR n q.letter }
    accs := s.accs.filter fun e => !inR e.2.node e.2.letter || posted s e.2 || e.2.commit
    traps := mset s.traps id t
    insts := mupd (mmap s.insts fun _ v => { v with saved := v.saved.map clean })
      t.inst fun v => { v with replay := some id, winArr := [], winAt := none } }

/-! ### Leaving a trap (R372) -/

/-- Whether `TACT` is legal for the trap's class and phase (R372). -/
def actLegal (t : Trap) (act : Nat) : Bool :=
  match act, causeCls t.cause with
  | 3, _ => true
  | 0, .s => true
  | 0, .n => t.cause != .internal
  | 0, .d => true
  | 0, .p => t.phase && t.cause != .internal
  | 1, .p => !t.phase && t.cause != .internal
  | 2, .p => t.phase && t.cause != .internal
  | 2, .s => true
  | _, _ => false

/-- Resumes the planes a trap stopped. -/
def resumeStopped (s : State) (i id : Nat) : State :=
  { s with insts := mupd s.insts i fun v => { v with idle := 0, quiet := 0 }, nodes := mmap s.nodes fun n d =>
      let f (p : Plane) : Plane :=
        if p.inst = i ∧ (p.stop = .fault id ∨ p.stop = .stall id ∨ p.stop = .held) then lift n { p with replay := none } else p
      { d with pa := f d.pa, pb := f d.pb } }

/-- Re-issues the accesses a trap holds (R281, R372, R413); one to another peer takes the link that its hash now gives (R406). -/
def reissue (s : State) (id : Nat) : State :=
  let here (a : Access) : Bool := (a.space == .device || (a.space == .peer && decide (a.peer = s.dev.devnum)))
    && a.layered.isNone && (match a.act with
      | .dsc => false
      | .lt _ _ _ => false
      | _ => true)
  { s with accs := mmap s.accs fun _ a =>
      if a.st = .stalled id then
        { a with st := if here a then .trans else .ready
                 link := if a.space = .peer ∧ a.peer ≠ s.dev.devnum then peerLink s a.peer a.va else none }
      else a }

/-- Drops a faulting instruction's operation and accesses: its firing counts as done (R372). -/
def dropFiring (s : State) (t : Trap) : State :=
  let s := s.updPlane t.node t.letter fun p =>
    { p with ops := p.ops.filter fun o => !decide (o.id = t.op)
             copies := p.copies.filter fun j => !decide (j.op = t.op)
             outs := Vector.ofFn fun k => { p.outs[k] with
               res := if p.outs[k].res = some t.op then none else p.outs[k].res
               retq := p.outs[k].retq.filter fun e => !decide (e.op = t.op) } }
  { s with accs := s.accs.filter fun e => !(decide (e.2.node = t.node) && decide (e.2.letter = t.letter) && decide (e.2.op = t.op)) || (posted s e.2 && decide (e.2.k < t.done)) }

/-- The trap ends: the instance's flag is cleared (R364), the core serves nothing, and the record is gone. -/
def endTrap (s : State) (c id : Nat) (t : Trap) : State :=
  let s := if (mget? s.insts t.inst).isSome then
    s.updInst t.inst fun v => { v with fault := false, trap := 0, tmulti := 0, idle := 0, quiet := 0 } else s
  let s := s.updCore c fun k => { k with serving := none, images := [], entry := [], branch := none }
  { s with traps := mdel s.traps id }

/-- A BSP that faulted runs again from the tokens that it read at issue (R195). -/
def keepArgs (s : State) (t : Trap) : State :=
  if t.args.isEmpty then s else s.updPlane t.node t.letter fun p => { p with bspArgs := some (t.slot, t.args) }

/-- Whether a continue fires the faulting slot again, from the operands in its image; an instruction in flight goes on (R372). -/
def refires (t : Trap) : Bool :=
  match causeCls t.cause with
  | .p => true
  | .s => t.op == 0
  | _ => false

/-- A core's images with the operands of the faulting firing consumed, which its node will not read again. -/
def heldImages (s : State) (t : Trap) (m : Map (NodeId × Letter) Image) : Map (NodeId × Letter) Image :=
  mmap m fun k i => if k = (t.node, t.letter) then dropOperands (stickies s t.node t.letter) i else i

/-- A retire consumes operands that a replay has brought back to their ports; a logged port logs them (R368, R372). -/
def logRetired (s : State) (t : Trap) (i : Image) : State :=
  (List.finRange 4).foldl (fun s k =>
    match (i.fifo k).head? with
    | some x =>
      if i.opd.contains k.val && t.ports.contains k.val && !(t.ops.any fun e => e.port == k.val) && logged s t.node t.letter k then
        s.updPlane t.node t.letter fun p => { p with mp := logTok p.mp k.val x }
      else s
    | none => s) s

/-- LEAVING A TRAP (R372 to R375): the action `act` of the trap that core `c` serves, with cause `cause` for a
terminated launch. Images are loaded back first (R371). -/
def leaveTrap (s : State) (c act : Nat) (cause : Cause) : State :=
  let id := (s.core c).serving.getD 0
  let t := s.trap id
  let imgs := (s.core c).images
  let own := imageOf s c t.node t.letter
  match act with
  | 3 =>
    let run := (s.inst t.inst).run
    let s := endTrap s c id t
    if run = 0 then dropCopies (releaseInst s t.inst) (fun j => j.inst == t.inst) else terminateRun s run cause
  | 1 =>
    let s := loadImages s c (heldImages s t imgs)
    startReplay (endTrap s c id t) id t
  | 2 =>
    let s := loadImages (logRetired s t own) c (mset imgs (t.node, t.letter) (dropOperands (stickies s t.node t.letter) own))
    let s := dropFiring s t
    resumeStopped (endTrap s c id t) t.inst id
  | _ =>
    let s := loadImages s c (if refires t then mset imgs (t.node, t.letter) own else heldImages s t imgs)
    let s := match causeCls t.cause, t.px with
      | .d, some (k, v) => s.updPlane t.node t.letter fun p => { p with p := p.p.set (Fin.ofNat 8 k) v }
      | _, _ => s
    resumeStopped (endTrap (keepArgs (reissue s id) t) c id t) t.inst id

/-- A fault of the handler itself: the handler ends with action 3, and `ERRC` takes the handler's cause
(R372). -/
def handlerFault (s : State) (c : Nat) (cause : Cause) : State := leaveTrap s c 3 cause

end Sys2Proof.Machine
end

