-- ==== Sys2Proof/Machine/Operands.lean ====
section
/-! DEFINITION. Operands and results (R20, R54, R62, R105, R106, R131 to R135, R190): reading a source and
writing a destination for each unit that runs instructions, the operand checks, and `finish`, the one
operation by which an instruction with a computed result ends its issue. -/

namespace Sys2Proof.Machine
open Sys2Proof

/-! ### Who is acting -/

/-- The trap a core serves. -/
def servedTrap (s : State) (c : Nat) : Trap := match (s.core c).serving with
  | some t => s.trap t
  | none => {}

/-- The node the present step concerns: the acting node, or the node whose trap a core serves (R154). -/
def actNode (s : State) : NodeId :=
  match s.cur with
  | .slot n _ _ => n
  | .micro n _ => n
  | .core c => (servedTrap s c).node
  | .emul c => (s.core c).tselNode
  | .device => .panel 0 0

/-- The plane letter the present step concerns. -/
def actLetter (s : State) : Letter :=
  match s.cur with
  | .slot _ l _ => l
  | .micro _ l => l
  | .core c => (servedTrap s c).letter
  | .emul c => (s.core c).tselLetter
  | .device => .a

/-- Whether the acting unit is a core that serves no trap (R154). -/
def idleCore (s : State) : Bool :=
  match s.cur with
  | .core c => (s.core c).serving.isNone
  | _ => false

/-- The instance the present step concerns; 0 for an idle core (R154). -/
def actInst (s : State) : Nat :=
  match s.cur with
  | .core c => (servedTrap s c).inst
  | .emul c => (servedTrap s c).inst
  | .device => 0
  | _ => instOf s (actNode s) (actLetter s)

/-- The plane control word that gives the default rounding and the enables (R16, R54, R60, R138, R386). -/
def actPcw (s : State) : Word :=
  match s.cur with
  | .slot n l _ => (s.plane n l).pcw
  | .micro n l => (s.plane n l).pcw
  | .core c => BitVec.ofNat 32 (s.core c).amode
  | .emul c => (imageOf s c (s.core c).tselNode (s.core c).tselLetter).pcw
  | .device => 0

/-- The rounding mode of an `RM` field (R54). -/
def rmOf (s : State) : Rm → Rnd
  | .dflt => rndOfDrm (field (actPcw s).toNat 2 0)
  | .rne => .rne
  | .rtz => .rtz
  | .rdn => .rdn
  | .rup => .rup

/-! ### Reading a source (R105, R131) -/

/-- An operand: its token, and whether it is a constant or immediate, which takes the `S` of the other
operands (R62). -/
structure Opd where
  tok : Token := {}
  const : Bool := false
  deriving DecidableEq, Repr, Inhabited

/-- The payload of code 17, one in every lane (R131). -/
def onePayload : Fmt → Word
  | .w32 => 0x00000001 | .f32 => 0x3F800000 | .b16 => 0x3F803F80 | .h16 => 0x3C003C00
  | .q8 => 0x38383838 | .i8 => 0x01010101 | .x8 => 0x20202020 | .x4 => 0x22222222

/-- The low 32 bits of the device cycle counter (R1, R105). -/
def cycleLow (s : State) : Word := BitVec.ofNat 32 s.cycle

/-- A register of the acting unit (R105). -/
def readReg (s : State) (g : Bool) (k : Fin 8) : Token :=
  match s.cur with
  | .slot n l _ => if g then (s.plane n l).g[k] else (s.plane n l).h[k]
  | .micro n l => match (s.node n).seqr with
    | some q => if g then (if q.gw.contains k.val then q.g[k] else (s.plane n l).g[k]) else q.h[k]
    | none => {}
  | .core c => if g then (s.core c).g[k] else (s.core c).x[k]
  | .emul c =>
    let i := imageOf s c (s.core c).tselNode (s.core c).tselLetter
    if g then i.g[k] else i.h[k]
  | .device => {}

/-- The head token of an in-port of the acting unit (R131, R190). DESIGN CHOICE (log 120): an EMUL source that names an image FIFO
with no token, for which R190 has no rule, reads the all-zero DATA token of W32. -/
def readPort (s : State) (k : Fin 4) : Token :=
  match s.cur with
  | .slot n l _ => (headTok n (s.plane n l) k).getD {}
  | .emul c => ((imageOf s c (s.core c).tselNode (s.core c).tselLetter).fifo k).head?.getD {}
  | _ => {}

/-- The operand of a source specifier, constants taking format `f` (R131). -/
def readSrc (s : State) (f : Fmt) : Src → Opd
  | .g k => { tok := readReg s true k }
  | .t k => { tok := readReg s false k }
  | .inC k => { tok := readPort s k }
  | .inP k => { tok := readPort s k }
  | .zero => { tok := { fmt := f }, const := true }
  | .one => { tok := { fmt := f, payload := onePayload f }, const := true }
  | .ones => { tok := { fmt := f, payload := 0xFFFFFFFF }, const := true }
  | .cyc => { tok := { payload := cycleLow s }, const := true }
  | .inst => { tok := { payload := BitVec.ofNat 32 (actInst s) }, const := true }
  | .plane => { tok := { payload := if idleCore s then 0 else BitVec.ofNat 32 (actLetter s).bit.toNat }, const := true }
  | .imm v => { tok := { fmt := f, payload := if f == .i8 then BitVec.ofNat 32 (packNat 8 (List.replicate 4 v.toNat))
                                             else BitVec.ofNat 32 v.toNat }, const := true }

/-- The in-port a source consumes (R20). -/
def srcPort : Src → Option (Fin 4)
  | .inC k => some k
  | _ => none

/-- The in-port a source names at all (R28). -/
def srcNames : Src → Option (Fin 4)
  | .inC k => some k
  | .inP k => some k
  | _ => none

/-- The ports a list of sources consumes, each once (R20). -/
def srcPorts (xs : List Src) : List (Fin 4) := (xs.filterMap srcPort).dedup

/-! ### Operand checks (R132, R133, R62, R203) -/

/-- Operand classes (R132, R203), with the further admissions of single entries: `rawBlkh` for MOV.W32
(R151), `every` for FWD (R158). -/
inductive OpCls where
  | same | raw | f32 | flt | int | any | w32 | rawBlkh | every
  deriving DecidableEq, Repr, Inhabited

/-- Whether a class admits a kind (R133 steps 1 and 2). -/
def kindOk (c : OpCls) (k : Kind) : Bool :=
  match c with
  | .any => true
  | .every => true
  | .rawBlkh => k == .data || k == .blkh
  | _ => k == .data

/-- Whether a class admits a format (R132). -/
def fmtMeets (f : Fmt) (c : OpCls) (g : Fmt) : Bool :=
  match c with
  | .same => f == g
  | .f32 => g == .f32
  | .flt => g.isFlt
  | .int => g.isInt
  | .w32 => g == .w32
  | _ => true

/-- The operand checks of R133, steps 1 to 3, over all operands in that order. -/
def checkOpds (f : Fmt) (xs : List (Opd × OpCls)) : Option Cause :=
  if xs.any fun x => x.1.tok.kind == .psn && x.2 != .every then some .poisonConsumed
  else if xs.any fun x => !kindOk x.2 x.1.tok.kind then some .tagMismatch
  else if xs.any fun x => !fmtMeets f x.2 x.1.tok.fmt then some .tagMismatch
  else none

/-- The `S` of the first operand that is not a constant, or 0 (R62). DESIGN CHOICE (log 28): where a constant takes the `S`
of the other operands and two of them differ, in a W32 instruction that R62 does not check, the spec names neither; the
first one's is taken. -/
def commonS : List Opd → Bool
  | [] => false
  | x :: t => if x.const then commonS t else x.tok.s

/-- Whether two operands that are not constants carry different `S` (R62, R133 step 4). -/
def scaleClash (xs : List Opd) : Bool :=
  let ys := xs.filter fun x => !x.const
  ys.any fun x => x.tok.s != commonS ys

/-- The `S` of sA, taken from the other operands when sA is a constant (R62). -/
def sOfA (a : Opd) (rest : List Opd) : Bool := if a.const then commonS rest else a.tok.s

/-! ### Results -/

/-- A result: a cause found at issue (R133), or the token and the cause a value condition raises at
write-back (R60). -/
structure LaneRes where
  out : Except Cause Token := .ok {}
  late : Option Cause := none

/-- An operand that a firing of a plane consumes at a port (R135, R371). -/
def consumedAt (p : Plane) (k : Fin 4) : Consumed :=
  match p.mp.relog.find? fun e => e.1 == k.val with
  | some e => { port := k.val, flit := { tok := e.2 } }
  | none =>
    let f := (p.ins[k].fifo.head?).getD {}
    { port := k.val, flit := f, stays := f.tok.kind == .data && p.ins[k].residue != 0 }

/-- The operands that the acting slot's firing consumes. -/
def consumedOps (s : State) (ps : List (Fin 4)) : List Consumed :=
  match s.cur with
  | .slot n l _ => ps.map (consumedAt (s.plane n l))
  | _ => []

/-- The words of the acting slot. -/
def actWords (s : State) (n : NodeId) (l : Letter) (k : Nat) : Word × Word :=
  (s.plane n l).slots.toList.getD k (0, 0)

/-- The trap of a firing of a slot (R370). -/
def slotTrap (s : State) (n : NodeId) (l : Letter) (k : Nat) (c : Cause) (ops : List Consumed) : Trap :=
  let w := actWords s n l k
  { cause := c, node := n, letter := l, inst := instOf s n l, slot := k, fire := (s.plane n l).fires,
    tw := w.1, aw := w.2, ops := ops,
    px := if tPE w.1 then some ((tPX w.1).val, tPVAL w.1) else none }

/-- The predicates an operation marks pending: its destination and its `PE` update (R17). -/
def pendMask (d : Dst) (tw : Word) (more : List Nat) : List Nat :=
  (match d with
   | .p k => [k.val]
   | _ => []) ++ more ++ (if tPE tw then [(tPX tw).val] else [])

/-- The registers an operation holds pending (R18). -/
def pendRegs (d : Dst) (more : List Nat) : List Nat :=
  (match d with
   | .g k => [k.val]
   | _ => []) ++ more

/-- Reserves an out-port for an operation (R25). -/
def reserveOut (s : State) (n : NodeId) (l : Letter) (d : Dst) (id : Nat) : State :=
  match d with
  | .out k => s.updOut n l k fun o => { o with res := some id }
  | _ => s

/-- Whether a destination is an out-port with no consumers (R25). -/
def dstUnwired (s : State) (n : NodeId) (l : Letter) : Dst → Bool
  | .out k => !outWired s n l k
  | _ => false

/-- A fault of a slot's firing at issue: its consumed operands go into the record and are dequeued, after which the next heads
are checked (R135, R196). -/
def slotFault (s : State) (n : NodeId) (l : Letter) (k : Nat) (c : Cause) (ps : List (Fin 4)) : State :=
  consumeAll (takeTrap s (slotTrap s n l k c (consumedOps s ps))) n l ps

/-- The trap of a bespoke invocation, whose operand tokens were read at issue (R195). -/
def bspTrap (s : State) (n : NodeId) (q : Seqr) (c : Cause) : Trap :=
  let o := (s.op? n q.letter q.op).getD {}
  { cause := c, node := n, letter := q.letter, inst := instOf s n q.letter, slot := o.slot,
    fire := o.fire, tw := o.tw, aw := o.aw, ops := o.ops, op := o.id, upc := some q.upc, args := q.args.take 3,
    px := if tPE o.tw then some ((tPX o.tw).val, tPVAL o.tw) else none }

/-- A fault of a bespoke sequence: the invocation has not retired, its marks revert, h0 to h7 stand in the
plane for the record, and the sequencer is free (R195). -/
def bspFault (s : State) (n : NodeId) (c : Cause) : State :=
  match (s.node n).seqr with
  | none => s
  | some q =>
    let t := bspTrap s n q c
    let s := s.updPlane n q.letter fun p =>
      { p with h := q.h, ops := p.ops.filter fun o => !decide (o.id = q.op)
               outs := Vector.ofFn fun k => { p.outs[k] with
                 res := if p.outs[k].res = some q.op then none else p.outs[k].res } }
    takeTrap (s.setNode n { s.node n with seqr := none }) t

/-- A fault of the present instruction, at issue, whoever runs it: a firing's trap, a bespoke invocation's, the
end of a handler (R372), or the status of an EMUL (R190). -/
def raise (s : State) (c : Cause) (ps : List (Fin 4)) : State :=
  match s.cur with
  | .slot n l k => slotFault s n l k c ps
  | .micro n _ => bspFault s n c
  | .core k => handlerFault s k c
  | .emul k => s.updCore k fun q => { q with emst := c.code }
  | .device => s

/-- A token written to a destination of an image, appended to an out-port's capture (R190). -/
def writeImage (i : Image) (d : Dst) (t : Token) : Image :=
  match d with
  | .g k => { i with g := i.g.set k t }
  | .out k => if i.outs[k].present then { i with more := i.more ++ [(k.val, t)] } else { i with outs := i.outs.set k (entryOf (some t)) }
  | .p k => { i with p := i.p.set k (truth t) }
  | .t k => { i with h := i.h.set k t }
  | .disc => i

/-- The token as it leaves an instruction: `L` is 0 (R134, R160). -/
def outTok (t : Token) : Token := { t with l := false }

/-- A register is busy until its last write retires, and writes of one register retire in issue order (R18). -/
def busyUntil (m : Map Nat Nat) (k at_ : Nat) : Map Nat Nat := mset m k (max ((mget? m k).getD 0) at_)

/-- A micro-operation's destination is pending until a cycle (R18, R193). -/
def holdMicro (q : Seqr) (d : Dst) (at_ : Nat) : Seqr :=
  match d with
  | .g k => { q with busyG := busyUntil q.busyG k.val at_ }
  | .t k => { q with busyH := busyUntil q.busyH k.val at_ }
  | .p k => { q with busyP := busyUntil q.busyP k.val at_ }
  | _ => q

/-- A micro-operation's value condition, which its write-back raises in place of its result (R60, R133, R135). -/
def lateMicro (c : Cause) (d : Dst) (due : Nat) (q : Seqr) : Seqr :=
  { holdMicro q d due with late := q.late ++ [(c, due, q.upc)] }

/-- Writes a result in the sequencer's own view of g, h and p; it is available from cycle `at_` on (R106, R193). -/
def writeMicro (q : Seqr) (d : Dst) (t : Token) (at_ : Nat) : Seqr :=
  let q := holdMicro q d at_
  match d with
  | .g k => { q with g := q.g.set k t }
  | .t k => { q with h := q.h.set k t }
  | .p k => { q with p := q.p.set k (truth t) }
  | _ => q

/-- Writes a result into a core's registers (R106). -/
def writeCore (k : Core) (d : Dst) (t : Token) : Core :=
  match d with
  | .g j => { k with g := k.g.set j t }
  | .t j => { k with x := k.x.set j t }
  | .p j => { k with p := k.p.set j (truth t) }
  | _ => k

/-- The acting slot's new in-flight operation, not yet pushed. -/
def newOp (s : State) (n : NodeId) (l : Letter) (k lat : Nat) (d : Dst) (ps : List (Fin 4)) : Op :=
  let w := actWords s n l k
  { id := s.ids, slot := k, fire := (s.plane n l).fires, tw := w.1, aw := w.2, issued := s.cycle, due := s.cycle + slow s n lat, dst := d,
    pmask := pendMask d w.1 [], gmask := pendRegs d [], ops := consumedOps s ps }

/-- The operation that writes the `PE` update of another one cycle after issue (R260, R358). -/
def peOp (s : State) (n : NodeId) (o : Op) : Op :=
  { id := s.ids, slot := o.slot, fire := o.fire, tw := o.tw, aw := o.aw, issued := s.cycle, due := s.cycle + slow s n 1,
    kind := .pe, pmask := pendMask .disc o.tw [] }

/-- Issues an operation from a slot: its ports are consumed, its destination reserved, and it is in flight. Off the
stitches its `PE` update goes ahead of it (R260). -/
def issueOp (s : State) (n : NodeId) (l : Letter) (o : Op) (ps : List (Fin 4)) : State :=
  let s := consumeAll s n l ps
  let s := if o.queued then s.fresh else reserveOut s.fresh n l o.dst o.id
  if kindOf n == .stitch then s.pushOp n l o
  else
    let s := s.pushOp n l { o with pmask := [] }
    if tPE o.tw then s.fresh.pushOp n l (peOp s n o) else s

/-- An instruction whose result is computed at issue ends its issue (R17, R18, R25, R133 to R138, R190, R193):
in a slot it goes in flight until write-back, in a micro-word, a handler or an EMUL it takes effect now. DESIGN CHOICE
(log 29): where an operand check fails and the destination is an unwired out-port too, the spec gives no order, and the
operand check's fault is taken. -/
def finish (s : State) (lat : Nat) (d : Dst) (srcs : List Src) (r : LaneRes) : State :=
  let ps := srcPorts srcs
  match r.out with
  | .error c => raise s c ps
  | .ok t =>
    match s.cur with
    | .slot n l k =>
      if dstUnwired s n l d then slotFault s n l k .portUnwired ps
      else issueOp s n l { newOp s n l k lat d ps with toks := [outTok t], fault := r.late } ps
    | .micro n _ =>
      let due := s.cycle + slow s n lat
      s.setNode n { s.node n with seqr := (s.node n).seqr.map (match r.late with
        | some c => lateMicro c d due
        | none => fun q => writeMicro q d (outTok t) due) }
    | .core c =>
      match r.late with
      | some e => handlerFault s c e
      | none => s.updCore c fun k => writeCore k d (outTok t)
    | .emul c =>
      match r.late with
      | some e => s.updCore c fun k => { k with emst := e.code }
      | none =>
        let n := (s.core c).tselNode
        let l := (s.core c).tselLetter
        if dstUnwired s n l d then s.updCore c fun k => { k with emst := Cause.portUnwired.code }
        else setImage s c n l (writeImage (consumeImage (stickies s n l) (imageOf s c n l) ps) d (outTok t))
    | .device => s

/-- An instruction of a slot whose result is not computed at issue: the cause of a failed check, else an operation
in flight that `f` completes, and the further effect `g` of its issue (R17, R18, R25, R133, R196). -/
def launch (s : State) (lat : Nat) (d : Dst) (srcs : List Src) (chk : Option Cause) (f : Op → Op)
    (g : Op → State → State) : State :=
  let ps := srcPorts srcs
  match chk with
  | some c => raise s c ps
  | none =>
    match s.cur with
    | .slot n l k =>
      if dstUnwired s n l d then slotFault s n l k .portUnwired ps
      else
        let o := f (newOp s n l k lat d ps)
        g o (issueOp s n l o ps)
    | _ => s

/-- An instruction that writes predicates directly (R155). -/
def finishPreds (s : State) (ws : List (Fin 8 × Bool)) : State :=
  match s.cur with
  | .slot n l k =>
    let o := newOp s n l k 1 .disc []
    issueOp s n l { o with preds := ws.map fun w => (w.1.val, w.2),
                           pmask := pendMask .disc o.tw (ws.map fun w => w.1.val) } []
  | .micro n _ =>
    let f (q : Seqr) : Seqr :=
      ws.foldl (fun q w => { q with p := q.p.set w.1 w.2, busyP := busyUntil q.busyP w.1.val (s.cycle + slow s n 1) }) q
    s.setNode n { s.node n with seqr := (s.node n).seqr.map f }
  | .core c => s.updCore c fun k => ws.foldl (fun k w => { k with p := k.p.set w.1 w.2 }) k
  | .emul c =>
    let n := (s.core c).tselNode
    let l := (s.core c).tselLetter
    setImage s c n l (ws.foldl (fun i w => { i with p := i.p.set w.1 w.2 }) (imageOf s c n l))
  | .device => s

/-- A predicate as the acting unit reads it. -/
def readPred (s : State) (k : Fin 8) : Bool :=
  match s.cur with
  | .slot n l _ => (s.plane n l).p[k]
  | .micro n l => match (s.node n).seqr with
    | some q => if q.pw.contains k.val then q.p[k] else (s.plane n l).p[k]
    | none => false
  | .core c => (s.core c).p[k]
  | .emul c => (imageOf s c (s.core c).tselNode (s.core c).tselLetter).p[k]
  | .device => false

/-! ### The lane skeletons of groups 0x0 to 0x3 -/

/-- The result of an instruction over lanes: the operand checks, the scale check where R62 makes it, and the
payload and conditions its lanes give. `rf` is the result format (R134). -/
def laneRes (s : State) (f : Fmt) (xs : List (Opd × OpCls)) (scale : Bool) (rf : Fmt) (rs : Bool)
    (pay : Word) (c : Cond) (direct : Option Cause) : LaneRes :=
  match checkOpds f xs with
  | some e => { out := .error e }
  | none =>
    if scale && f != .w32 && scaleClash (xs.map (·.1)) then { out := .error .scaleMismatch }
    else { out := .ok { fmt := rf, s := rs, payload := pay }, late := direct.or (condCause (actPcw s) c) }

end Sys2Proof.Machine
end

