-- ==== Sys2Proof/Machine/Translate.lean ====
section
/-! DEFINITION. Translation of device-memory addresses (R271 to R278, R285, R287, R408): the interleave map,
the walk, the tiles that cache it, the protection code, and reading and writing a context's virtual memory. -/

namespace Sys2Proof.Machine
open Sys2Proof

/-- A valid region of the interleave map that holds a physical address (R271, R272). -/
def irRegion (s : State) (pa : Nat) : Option (Nat × Nat) :=
  (s.dev.irmap.find? fun e => bitOf e.2.1 63 && decide (field e.2.1 21 0 * 2 ^ 30 ≤ pa)
      && decide (pa < (field e.2.1 21 0 + field e.2.1 43 22) * 2 ^ 30)).map (·.2)

/-- The set bits of a link mask, lowest first (R271). -/
def setBits (w n : Nat) : List Nat := (List.range n).filter fun k => bitOf w k

/-- The memory link and module address of a physical address (R271). -/
def linkOfPa (s : State) (pa : Nat) : Option (Nat × Nat) :=
  match irRegion s pa with
  | none => none
  | some (m0, m1) =>
    let links := setBits m1 48
    if links.length = 0 then none
    else
      let o := pa - field m0 21 0 * 2 ^ 30
      some (links.getD (o / 256 % links.length) 0,
        field m0 51 44 * 2 ^ 30 + o / (256 * links.length) * 256 + o % 256)

/-- Whether the memory link of an address is down (R272). -/
def paDown (s : State) (pa : Nat) : Bool :=
  match linkOfPa s pa with
  | some (k, _) => s.dev.linksDown.contains k
  | none => false

/-- The bits of a VA that index a level's table (R273). -/
def walkIndex (va : Nat) : Nat → Nat
  | 5 => field va 56 48
  | 4 => field va 47 39
  | 3 => field va 38 30
  | 2 => field va 29 21
  | _ => field va 20 16

/-- The alignment of the table that a level's entry names (R273). -/
def tableAlign (lvl : Nat) : Nat := if lvl = 2 then 256 else 4096

/-- The size of a leaf's page (R273). -/
def leafSize : Nat → Nat
  | 3 => 2 ^ 30
  | 2 => 2 ^ 21
  | _ => 2 ^ 16

/-- A leaf entry as a page, or not present (R274, R275, R408). -/
def leafPage (s : State) (va lvl ea e : Nat) : Option Page :=
  let pa := field e 51 8 * 256
  let loc := field e 7 6
  let okPa := pa % leafSize lvl == 0
  let okLoc := match loc with
    | 0 => (irRegion s pa).isSome
    | 1 => bitOf (mget s.ends (pa / 2 ^ 40)).1 0
    | _ => false
  if okPa && okLoc then
    some { vpn := field va 56 16, pa := pa, size := leafSize lvl, r := bitOf e 1, w := bitOf e 2, at_ := bitOf e 3,
           loc := loc, d := bitOf e 4 && lvl == 1, leafPa := ea }
  else none

/-- A cached non-leaf entry: context, level, the VA bits above what its table covers, and the table it names (R276). -/
abbrev WalkEntry := Nat × Nat × Nat × Nat

/-- The VA bits that select an entry of a level: those above the range that the table it names covers (R273). -/
def walkPrefix (va : Nat) : Nat → Nat
  | 5 => va / 2 ^ 48
  | 4 => va / 2 ^ 39
  | 3 => va / 2 ^ 30
  | 2 => va / 2 ^ 21
  | _ => va / 2 ^ 16

/-- The table that a cached non-leaf entry names (R276). -/
def walkHit (ws : List WalkEntry) (c lvl va : Nat) : Option Nat :=
  (ws.find? fun e => e.1 == c && e.2.1 == lvl && e.2.2.1 == walkPrefix va lvl).map (·.2.2.2)

/-! ### The protection code (R266, R418, R419) -/

/-- The code word of a byte's home: eight bytes, or in a scratchpad or exchange bank the words of one bank in two adjacent
lines, named by the first (R266). -/
def codeWord (h : Nat) : Nat := if 2 ^ 53 ≤ h ∧ h < 2 ^ 55 then h / 256 * 256 + h % 128 / 4 * 4 else h / 8 * 8

/-- The bit errors that a read of `n` bytes meets. -/
def upsetsIn (s : State) (h n : Nat) : Map Nat Bool :=
  s.upsets.filter fun e => (List.range ((n + h % 4 + 3) / 4)).any fun j => codeWord (h / 4 * 4 + 4 * j) == e.1

/-- Subtracts bytes from a limiter of a context's VF; a rate of 0 is unlimited (R330, R387). -/
def spend (s : State) (c : Nat) (k : Fin 3) (bytes : Nat) : State :=
  { s with vfs := mupd s.vfs (s.ctx c).vf fun v =>
      { v with lims := v.lims.set k { v.lims[k] with level := if v.lims[k].rate = 0 then v.lims[k].level else v.lims[k].level - bytes } } }

/-- Sends a NOTIFY message to the host connection of `HOSTCONN` (R418). -/
def notify (s : State) (event detail : Nat) : State :=
  { s with notes := s.notes ++ [{ event := event, detail := detail % 2 ^ 24, conn := s.dev.hostconn }] }

/-- One correction counts and writes back, at the expense of the reader's VF where it is device memory (R266, R330, R419). -/
def eccCorrected (s : State) (c h : Nat) : State :=
  let s := s.updDev fun d => { d with cecnt := min (d.cecnt + 1) (2 ^ 64 - 1) }
  if h < 2 ^ 52 then spend s c 0 8 else s

/-- An uncorrectable error counts, and in device memory the host is told of its link (R266, R418, R419). -/
def eccFailed (s : State) (h : Nat) : State :=
  let s := s.updDev fun d => { d with uecnt := min (d.uecnt + 1) (2 ^ 64 - 1) }
  if h < 2 ^ 52 then notify s 2 ((linkOfPa s h).getD (0, 0)).1 else s

/-- What the protection code makes of a read of `n` bytes for a context: single-bit errors are corrected and written back,
an uncorrectable one faults the reader (R266). -/
def eccBytes (s : State) (c h n : Nat) : State × Option Cause :=
  match upsetsIn s h n with
  | [] => (s, none)
  | es =>
    if es.any (·.2) then (eccFailed s h, some .eccUncorrectable)
    else ((es.foldl (fun s e => eccCorrected s c e.1) s : State) |> fun s => { s with upsets := s.upsets.filter fun e => !es.contains e }, none)

/-- Words that are written whole hold no bit error any more (R266). -/
def cleanWords (s : State) (h n : Nat) : State := { s with upsets := s.upsets.filter fun e => decide (e.1 < h) || decide (h + n ≤ e.1) }

/-- Whether a walk cannot read a table entry: its link is down, or the error in it cannot be corrected (R266, R272). -/
def entryLost (s : State) (ea : Nat) : Bool := paDown s ea || (upsetsIn s ea 8).any (·.2)

/-- What a walk finds at a table entry that it cannot read: no page, and a read that fails (R266, R272). -/
def lostPage (va : Nat) : Page := { vpn := field va 56 16, bad := true }

/-- A walk's outcome with the non-leaf entries that it passed and the table entries that it read. -/
structure Walked where
  via : List WalkEntry := []
  reads : List Nat := []
  page : Option Page := none
  deriving DecidableEq, Repr, Inhabited

/-- The walk from a table at `table`, through levels `lvl` down to 1, by the cached non-leaf entries `ws` where they serve
(R273 to R276); none is not present. -/
def walkFrom (s : State) (ws : List WalkEntry) (c va : Nat) : Nat → Nat → Walked
  | 0, _ => {}
  | lvl + 1, table =>
    let l := lvl + 1
    let down (pa : Nat) : Walked :=
      let r := walkFrom s ws c va lvl pa
      { r with via := (c, l, walkPrefix va l, pa) :: r.via }
    match (if l = 1 then none else walkHit ws c l va) with
    | some pa => down pa
    | none =>
      let ea := table + 8 * walkIndex va l
      let e := memDouble s.mem ea
      let pa := field e 51 8 * 256
      if (irRegion s ea).isNone then {}
      else
        let r : Walked :=
          if entryLost s ea then { page := some (lostPage va) }
          else if !bitOf e 0 then {}
          else if l = 1 then { page := leafPage s va 1 ea e }
          else if bitOf e 4 then {}
          else if bitOf e 5 then { page := if l ≤ 3 then leafPage s va l ea e else none }
          else if pa % tableAlign l = 0 then down pa else {}
        { r with reads := ea :: r.reads }

/-- The home tile of a page (R276). -/
def tileOf (c vpn : Nat) : Nat :=
  (field vpn 7 0 ^^^ field vpn 15 8 ^^^ field vpn 23 16 ^^^ field vpn 31 24 ^^^ field vpn 39 32
    ^^^ (field vpn 40 40 * 128) ^^^ field c 7 0) % 256

/-- The set of a page in its tile (R276). -/
def tileSet (vpn : Nat) : Nat := field vpn 8 0 ^^^ field vpn 25 17

/-- A tile's entry for a page of a context. -/
def tileFind (es : List (Nat × Page)) (c vpn : Nat) : Option Page :=
  (es.find? fun e => e.1 == c && e.2.vpn == vpn).map (·.2)

/-- Removes the oldest entry of a full set: entries stand oldest first (R276). -/
def tileEvict (es : List (Nat × Page)) (set : Nat) : List (Nat × Page) :=
  if 8 ≤ (es.filter fun e => tileSet e.2.vpn == set).length then
    match es.find? fun e => tileSet e.2.vpn == set with
    | some e => es.erase e
    | none => es
  else es

/-- A tile with an entry most recently used (R276). -/
def tileTouch (es : List (Nat × Page)) (c : Nat) (p : Page) : List (Nat × Page) :=
  let es := es.filter fun e => !(e.1 == c && e.2.vpn == p.vpn)
  tileEvict es (tileSet p.vpn) ++ [(c, p)]

/-- Whether a context's translation is enabled and a VA lies in its space: else nothing is present (R275). -/
def canWalk (s : State) (c va : Nat) : Bool := bitOf (s.ctx c).ptroot 0 && decide (va < 2 ^ 57)

/-- The walk of a context's VA at its home tile (R272, R273, R275, R276). -/
def walkAt (s : State) (c va : Nat) : Walked :=
  if canWalk s c va then walkFrom s (mget s.walks (tileOf c (field va 56 16))) c va 5 (field (s.ctx c).ptroot 51 12 * 4096) else {}

/-- The page a walk of a context's VA finds. -/
def walk (s : State) (c va : Nat) : Option Page := (walkAt s c va).page

/-- A tile's cache of non-leaf entries after a walk: 256 of them, those walked last. DESIGN CHOICE (log 26): the spec states
no replacement for it. -/
def walkTouch (ws : List WalkEntry) (us : List WalkEntry) : List WalkEntry :=
  let ws := (ws.filter fun e => !us.contains e) ++ us
  ws.drop (ws.length - 256)

/-- The reads of a walk meet the protection code (R266, R419). -/
def eccReads (s : State) (c : Nat) (eas : List Nat) : State := eas.foldl (fun s ea => (eccBytes s c ea 8).1) s

/-- The home tile's answer for a VA: its cached entry, or a walk, whose entries it then caches (R266, R275 to R277). -/
def translate (s : State) (c va : Nat) : State × Option Page :=
  let vpn := field va 56 16
  let t := tileOf c vpn
  if !canWalk s c va then (s, none)
  else match tileFind (mget s.tiles t) c vpn with
    | some p => ({ s with tiles := mset s.tiles t (tileTouch (mget s.tiles t) c p) }, some p)
    | none =>
      let w := walkAt s c va
      let s := eccReads (if w.via.isEmpty then s else { s with walks := mset s.walks t (walkTouch (mget s.walks t) w.via) }) c w.reads
      match w.page with
      | none => (s, none)
      | some p => (if p.bad then s else { s with tiles := mset s.tiles t (tileTouch (mget s.tiles t) c p) }, some p)

/-- The home of a VA on a page (R273, R408). -/
def pageHome (p : Page) (va : Nat) : Nat :=
  let pa := p.pa + va % p.size
  if p.loc = 1 then homeFar pa else pa

/-- Kinds of right an access needs of a page (R274). -/
inductive Right where
  | read | write | atomic
  deriving DecidableEq, Repr, Inhabited

/-- Whether a page grants a right (R274). -/
def Page.grants (p : Page) : Right → Bool
  | .read => p.r
  | .write => p.w
  | .atomic => p.at_

/-- The fault of an access to a translated page, if any (R266, R272, R275). -/
def pageFault (p : Option Page) (r : Right) : Option Cause :=
  match p with
  | none => some .pageNotPresent
  | some q => if q.bad then some .eccUncorrectable else if q.absent then some .pageNotPresent
    else if q.grants r then none else some .pageProtection

/-- Sets or clears `D` of a page in its leaf entry and in the tile (R287). -/
def setD (s : State) (c : Nat) (p : Page) (v : Bool) : State :=
  let e := memDouble s.mem p.leafPa
  let e' := if v then (if bitOf e 4 then e else e + 16) else (if bitOf e 4 then e - 16 else e)
  let t := tileOf c p.vpn
  { s with mem := memPutDouble s.mem p.leafPa e'
           tiles := mset s.tiles t ((mget s.tiles t).map fun x =>
             if x.1 = c ∧ x.2.vpn = p.vpn then (x.1, { x.2 with d := v }) else x) }

/-- Clears memory and the bit errors in it: every code word is written anew. -/
def zeroMem (s : State) (lo hi : Nat) : State :=
  { s with mem := memZero s.mem lo hi, upsets := s.upsets.filter fun e => decide (e.1 < lo) || decide (hi ≤ e.1) }

/-- The revival of a discarded page: zero over its 64 KiB, subtracted from the limiter, then `D` clear (R287, R330). -/
def revive (s : State) (c : Nat) (p : Page) : State :=
  let h := pageHome { p with size := 65536 } 0
  setD (zeroMem (spend s c 0 65536) h (h + 65536)) c { p with d := true } false

/-- The page that holds a VA as its home now has it (R278, R287). -/
def homePage (s : State) (c va : Nat) : Option Page :=
  let vpn := field va 56 16
  if !canWalk s c va then none
  else match tileFind (mget s.tiles (tileOf c vpn)) c vpn with
    | some p => some p
    | none => (walk s c va).filter fun p => !p.bad

/-- Whether a page is discarded as its home now holds it (R287): latches may still say so. -/
def homeD (s : State) (c : Nat) (p : Page) : Bool :=
  match homePage s c (p.vpn * 65536) with
  | some q => q.d
  | none => p.d

/-- Whether a home lies behind a memory link that is down (R272). -/
def homeDown (s : State) (h : Nat) : Bool := decide (h < 2 ^ 52) && paDown s h

/-- Whether an access lies in device memory of this device, so that its page may be discarded (R287). -/
def inDevice (s : State) (sp : Space) (peer : Nat) : Bool := sp == .device || (sp == .peer && decide (peer = s.dev.devnum))

/-- Whether a home lies at the far end of the system-scope path (R291, R408). -/
def isFar (h : Nat) : Bool := decide (2 ^ 60 ≤ h) && decide (h < 2 ^ 72)

/-- The limiter of a request at a home: device memory, or peers and whatever travels on Ethernet, system-scope pages among it (R330,
R408). -/
def limiterAt (s : State) (sp : Space) (peer home : Nat) : Option (Fin 3) :=
  if inDevice s sp peer then some (if isFar home then 1 else 0)
  else if sp = .peer then some 1 else none

/-- Where a VA of a context lies, if it translates. -/
def vaHome (s : State) (c va : Nat) : Option Nat := (homePage s c va).map fun q => pageHome q va

/-- The limiter of a request at a VA of a window's space. -/
def limiterVa (s : State) (c : Nat) (sp : Space) (peer va : Nat) : Option (Fin 3) :=
  limiterAt s sp peer (if inDevice s sp peer then (vaHome s c va).getD 0 else 0)

/-- Whether a VF's limiter lets a request pass; a rate of 0 is unlimited (R330, R387). -/
def limiterOpen (s : State) (c : Nat) (k : Fin 3) : Bool :=
  let v := (s.vf (s.ctx c).vf).lims[k]
  v.rate == 0 || decide (0 < v.level)

/-- The bytes at a VA of a translated page: zero where it is discarded, else what memory and the protection code give (R266,
R272, R278). -/
def readPage (s : State) (c va n : Nat) (q : Page) : State × Except Cause (List Byte) :=
  let h := pageHome q va
  if homeD s c q then (s, .ok (List.replicate n 0))
  else if homeDown s h then (s, .error .eccUncorrectable)
  else match eccBytes s c h n with
    | (s, some e) => (s, .error e)
    | (s, none) => (s, .ok (memBytes s.mem h n))

/-- Bytes go to a VA of a translated page: a discarded one is revived first (R287), and a write behind a down link is not
performed (R272). -/
def writePage (s : State) (c va : Nat) (q : Page) (bs : List Byte) : State :=
  let s := if homeD s c q then revive s c q else s
  if homeDown s (pageHome q va) then s else { s with mem := memPut s.mem (pageHome q va) bs }

/-- Reads a context's bytes within one page of 64 KiB for the device's own units (R427). -/
def readVa (s : State) (c va n : Nat) : State × Except Cause (List Byte) :=
  let (s, p) := translate s c va
  match p, pageFault p .read with
  | some q, none => readPage s c va n q
  | _, some e => (s, .error e)
  | none, none => (s, .error .pageNotPresent)

/-- Reads a context's bytes over any pages, in pieces of at most 64 bytes that lie in one page. -/
def readVas (s : State) (c va : Nat) : Nat → Nat → State × Except Cause (List Byte)
  | 0, _ => (s, .ok [])
  | fuel + 1, n =>
    if n = 0 then (s, .ok [])
    else
      let k := min n (65536 - va % 65536)
      match readVa s c va k with
      | (s, .error e) => (s, .error e)
      | (s, .ok bs) =>
        match readVas s c (va + k) fuel (n - k) with
        | (s, .ok cs) => (s, .ok (bs ++ cs))
        | (s, .error e) => (s, .error e)

/-- Reads `n` bytes of a context. -/
def readCtx (s : State) (c va n : Nat) : State × Except Cause (List Byte) := readVas s c va (n / 65536 + 2) n

/-- Writes bytes within one page for the device's own units. -/
def writeVa (s : State) (c va : Nat) (bs : List Byte) : State × Except Cause Unit :=
  let (s, p) := translate s c va
  match p, pageFault p .write with
  | some q, none => (writePage s c va q bs, .ok ())
  | _, some e => (s, .error e)
  | none, none => (s, .error .pageNotPresent)

/-- Writes bytes over any pages; a fault leaves earlier pages written. -/
def writeVas (s : State) (c va : Nat) : Nat → List Byte → State × Except Cause Unit
  | 0, _ => (s, .ok ())
  | fuel + 1, bs =>
    if bs.length = 0 then (s, .ok ())
    else
      let k := min bs.length (65536 - va % 65536)
      match writeVa s c va (bs.take k) with
      | (s, .error e) => (s, .error e)
      | (s, .ok ()) => writeVas s c (va + k) fuel (bs.drop k)

/-- Writes bytes of a context. -/
def writeCtx (s : State) (c va : Nat) (bs : List Byte) : State × Except Cause Unit :=
  writeVas s c va (bs.length / 65536 + 2) bs

/-- Checks that every page of a range grants a right, without an effect on memory (R416). -/
def checkVas (s : State) (c : Nat) (r : Right) : Nat → Nat → Nat → State × Option Cause
  | 0, _, _ => (s, none)
  | fuel + 1, va, n =>
    if n = 0 then (s, none)
    else
      let k := min n (65536 - va % 65536)
      let (s, p) := translate s c va
      match pageFault p r with
      | some e => (s, some e)
      | none => checkVas s c r fuel (va + k) (n - k)

/-- Checks a range of a context. -/
def checkCtx (s : State) (c : Nat) (r : Right) (va n : Nat) : State × Option Cause :=
  checkVas s c r (n / 65536 + 2) va n

end Sys2Proof.Machine
end

