-- ==== Sys2Proof/Machine/Issue.lean ====
section
/-! DEFINITION. Issue (R15, R28, R168, R169, R328, R329): the ports and registers an instruction names, the
engine conditions of single instructions, eligibility of a slot, of the mark action and of the EOS action,
and the choice between planes. -/

namespace Sys2Proof.Machine
open Sys2Proof

/-- The source specifiers of an instruction, a destination that is read as a source included (R28, R152,
R214). -/
def srcsOf : Instr → List Src
  | .add _ _ a b _ | .sub _ _ a b _ | .mul _ _ a b _ => [a, b]
  | .addi _ a _ | .andi _ a _ | .ori _ a _ => [a]
  | .mulh _ _ a b | .mulhu _ _ a b => [a, b]
  | .and _ a b | .or _ a b | .xor _ a b | .andn _ a b | .shl _ a b | .shr _ a b | .sar _ a b | .rol _ a b => [a, b]
  | .min _ _ a b | .max _ _ a b | .minu _ _ a b | .maxu _ _ a b => [a, b]
  | .abs _ _ a _ | .neg _ _ a _ => [a]
  | .clz _ a | .popc _ a => [a]
  | .ext _ a b c | .ins _ a b c | .sel _ a b c => [a, b, c]
  | .cmp _ _ _ a b => [a, b]
  | .cmpi _ _ _ a _ => [a]
  | .adds _ _ a b | .subs _ _ a b => [a, b]
  | .mad _ _ a b c _ => [a, b, c]
  | .fadd _ _ a b _ | .fsub _ _ a b _ | .fmul _ _ a b _ => [a, b]
  | .fma _ _ a b c => [a, b, c]
  | .fmin _ _ a b | .fmax _ _ a b => [a, b]
  | .fabs _ _ a | .fneg _ _ a => [a]
  | .fcmp _ _ _ a b => [a, b]
  | .fhsum _ _ a _ => [a]
  | .fdot _ _ a b c => [a, b, c]
  | .fcls _ _ a => [a]
  | .fclp _ _ a b c => [a, b, c]
  | .frcp _ _ a _ | .frsq _ _ a _ | .fsqrt _ _ a _ | .fex2 _ _ a _ | .flg2 _ _ a _ | .ftnh _ _ a _ => [a]
  | .cvt _ _ a _ _ => [a]
  | .pack _ _ a b => [a, b]
  | .unpk _ _ a _ => [a]
  | .scl _ _ a b _ _ => [a, b]
  | .itof _ _ a _ _ => [a]
  | .ftoi _ _ a _ _ _ => [a]
  | .rndi _ _ a _ => [a]
  | .mov _ _ a => [a]
  | .movhi d _ => match d with
    | .g k => [.g k]
    | .t k => [.t k]
    | _ => []
  | .mktag _ a _ => [a]
  | .gtag _ a => [a]
  | .emit _ a | .fwd _ a | .swpt _ a | .waitt _ a => [a]
  | .drop a => [a]
  | .steer _ a _ => [a]
  | .stky a _ => [a]
  | .spwn _ a b | .spwnt _ a b => [a, b]
  | .plt _ a | .csto _ a | .csti _ a => [a]
  | .wrsr a _ | .bsld a _ | .bsbd a _ | .jmpr a => [a]
  | .arm _ a | .emul _ a => [a]
  | .bsp _ _ _ a b c _ => [a, b, c]
  | .mbr a _ => [a]
  | .mlp h _ => [.t h]
  | .mend a => [a]
  | .lds _ _ _ a _ _ | .ldl _ _ _ a _ _ | .ldd _ _ _ a _ _ | .ldp _ _ _ a _ _ | .ldx _ _ _ a _ _
  | .ldv _ _ _ a _ _ | .gth _ _ _ a _ _ => [a]
  | .sts _ _ _ a b _ _ | .stl _ _ _ a b _ _ | .std _ _ _ a b _ _ | .stp _ _ _ a b _ _ | .stx _ _ _ a b _ _
  | .stv _ _ _ a b _ _ | .sct _ _ _ a b _ _ => [a, b]
  | .pfd _ a => [a]
  | .aadd _ _ a b _ _ | .amin _ _ a b _ _ | .amax _ _ a b _ _ | .aand _ _ a b _ _ | .aor _ _ a b _ _
  | .axor _ _ a b _ _ | .axch _ _ a b _ _ | .sigw _ _ a b _ _ => [a, b]
  | .acas d _ a b _ _ => match d with
    | .g k => [a, b, .g k]
    | _ => [a, b]
  | .afadd _ _ _ a b _ _ | .bupd _ _ _ a b _ _ | .bred _ _ _ a b _ _ => [a, b]
  | .cpy _ _ a _ _ | .cpys _ _ a _ _ | .ltq _ _ a _ _ | .dsc _ _ a _ _ => [a]
  | .ltb _ _ a b _ _ | .lta _ _ a b _ _ | .ltd _ _ a b _ _ | .ltp _ _ a b _ _ => [a, b]
  | .mrg _ _ _ a b => [a, b]
  | .dns _ _ a | .sps _ _ a | .cred _ _ _ a _ | .nred _ _ _ a _ => [a]
  | _ => []

/-- The destination of an instruction (R28). -/
def dstOf : Instr → Dst
  | .add _ d _ _ _ | .sub _ d _ _ _ | .mul _ d _ _ _ => d
  | .addi d _ _ | .andi d _ _ | .ori d _ _ => d
  | .mulh _ d _ _ | .mulhu _ d _ _ => d
  | .and d _ _ | .or d _ _ | .xor d _ _ | .andn d _ _ | .shl d _ _ | .shr d _ _ | .sar d _ _ | .rol d _ _ => d
  | .min _ d _ _ | .max _ d _ _ | .minu _ d _ _ | .maxu _ d _ _ => d
  | .abs _ d _ _ | .neg _ d _ _ => d
  | .clz d _ | .popc d _ => d
  | .ext d _ _ _ | .ins d _ _ _ | .sel d _ _ _ => d
  | .cmp _ _ d _ _ => d
  | .cmpi _ _ d _ _ => d
  | .adds _ d _ _ | .subs _ d _ _ => d
  | .mad _ d _ _ _ _ => d
  | .fadd _ d _ _ _ | .fsub _ d _ _ _ | .fmul _ d _ _ _ => d
  | .fma _ d _ _ _ => d
  | .fmin _ d _ _ | .fmax _ d _ _ => d
  | .fabs _ d _ | .fneg _ d _ => d
  | .fcmp _ _ d _ _ => d
  | .fhsum _ d _ _ => d
  | .fdot _ d _ _ _ => d
  | .fcls _ d _ => d
  | .fclp _ d _ _ _ => d
  | .frcp _ d _ _ | .frsq _ d _ _ | .fsqrt _ d _ _ | .fex2 _ d _ _ | .flg2 _ d _ _ | .ftnh _ d _ _ => d
  | .cvt _ d _ _ _ => d
  | .pack _ d _ _ => d
  | .unpk _ d _ _ => d
  | .scl _ d _ _ _ _ => d
  | .itof _ d _ _ _ => d
  | .ftoi _ d _ _ _ _ => d
  | .rndi _ d _ _ => d
  | .mov _ d _ => d
  | .movi d _ | .movhi d _ | .wid d _ | .clk d _ | .iid d _ => d
  | .mktag d _ _ => d
  | .gtag d _ => d
  | .emit d _ | .fwd d _ | .swpt d _ | .waitt d _ => d
  | .steer d _ _ => d
  | .call d _ _ => d
  | .callb d _ _ _ => d
  | .spwn d _ _ => d
  | .spwnt k _ _ => .p k
  | .plt d _ | .csto d _ | .csti d _ => d
  | .rdsr d _ => d
  | .pload d _ => d
  | .arm d _ => d
  | .rlat d _ => d
  | .lnk d _ => d
  | .emul d _ => d
  | .bsp _ _ d _ _ _ _ => d
  | .lds _ d _ _ _ _ | .ldl _ d _ _ _ _ | .ldd _ d _ _ _ _ | .ldp _ d _ _ _ _ | .ldx _ d _ _ _ _
  | .ldv _ d _ _ _ _ | .gth _ d _ _ _ _ => d
  | .sts _ d _ _ _ _ _ | .stl _ d _ _ _ _ _ | .std _ d _ _ _ _ _ | .stp _ d _ _ _ _ _ | .stx _ d _ _ _ _ _
  | .stv _ d _ _ _ _ _ | .sct _ d _ _ _ _ _ => d
  | .fen d _ => d
  | .xbar d => d
  | .aadd d _ _ _ _ _ | .amin d _ _ _ _ _ | .amax d _ _ _ _ _ | .aand d _ _ _ _ _ | .aor d _ _ _ _ _
  | .axor d _ _ _ _ _ | .axch d _ _ _ _ _ | .acas d _ _ _ _ _ | .sigw d _ _ _ _ _ => d
  | .afadd _ d _ _ _ _ _ | .bupd _ d _ _ _ _ _ | .bred _ d _ _ _ _ _ => d
  | .cpy d _ _ _ _ | .cpys d _ _ _ _ | .ltq d _ _ _ _ | .dsc d _ _ _ _ => d
  | .ltb d _ _ _ _ _ | .lta d _ _ _ _ _ | .ltd d _ _ _ _ _ | .ltp d _ _ _ _ _ => d
  | .mrg _ _ d _ _ => d
  | .dns _ d _ | .sps _ d _ => d
  | .cred _ _ d _ _ => d
  | .cbcs _ d _ _ => d
  | .nbar d _ => d
  | .nred _ _ d _ _ => d
  | _ => .disc

/-- Loads, whose results pass a memory port's return queue (R207). -/
def isLoad : Instr → Bool
  | .lds .. | .ldl .. | .ldd .. | .ldp .. | .ldx .. | .ldv .. | .gth .. => true
  | _ => false

/-- The transcendentals, opcodes 0x30 to 0x35 (R136). -/
def isTrans : Instr → Bool
  | .frcp .. | .frsq .. | .fsqrt .. | .fex2 .. | .flg2 .. | .ftnh .. => true
  | _ => false

/-! ### Pending marks (R17, R18) -/

/-- Whether a register g has a write pending. -/
def gPending (p : Plane) (k : Nat) : Bool := p.ops.any fun o => o.gmask.contains k

/-- Whether a predicate is pending. -/
def pPending (p : Plane) (k : Nat) : Bool := p.ops.any fun o => o.pmask.contains k

/-- No source register of an instruction has a write pending (R18). -/
def srcsReady (p : Plane) (xs : List Src) : Bool :=
  xs.all fun x => match x with
    | .g k => !gPending p k.val
    | _ => true

/-! ### Conditions of single instructions (R28) -/

/-- A plane issues at all: active, not halted, not stopped or held, not frozen, not being reloaded, and with
firings left when a step or replay bounds them (R16, R165, R365, R370, R373, R380, R381). -/
def runs (p : Plane) : Bool :=
  let left := p.budget.isSome && p.budget != some 0
  p.active && !p.halted && p.parity.isNone && p.replay != some 0
    && ((p.stop == .run && (!p.frozen || left) && p.budget != some 0) || (p.stop == .held && left))

/-- A BSP invocation of a panel's letter is in flight (R191). -/
def bspBusy (s : State) (pl : Nat) (l : Letter) : Bool :=
  s.nodes.any fun e => match e.1 with
    | .panel p _ => p == pl && (match e.2.seqr with
        | some q => q.letter == l
        | none => false)
    | _ => false

/-- A BSLD or BSBD of a panel's letter is in flight (R191). -/
def bsldBusy (s : State) (pl : Nat) (l : Letter) : Bool :=
  s.nodes.any fun e => match e.1 with
    | .panel p _ => p == pl && (e.2.plane l).ops.any fun o => field o.aw.toNat 31 24 == 0x77 || field o.aw.toNat 31 24 == 0x78
    | _ => false

/-- The micro-words of the sequence a binding word names. -/
def boundWords (v : PanelSide) (b : Word) : List Word :=
  (List.range (field b.toNat 15 9)).map fun j => mget v.micro (field b.toNat 8 0 + j)

/-- Whether an earlier operation of the plane has still to write a register that this one writes (R18). -/
def regBefore (o : Op) : List Op → Bool
  | [] => false
  | e :: t => if e.id = o.id then false else (e.gmask.any fun k => o.gmask.contains k) || regBefore o t

/-- A transcendental of a node that an earlier write of its register holds back keeps the unit (R18, R136). -/
def transHeld (d : Node) : Bool :=
  let held (p : Plane) : Bool := p.ops.any fun o =>
    decide (0x30 ≤ field o.aw.toNat 31 24) && decide (field o.aw.toNat 31 24 ≤ 0x35) && regBefore o p.ops
  held d.pa || held d.pb

/-- A node's sequencer has started a transcendental that has still to take the unit (R136, R193). -/
def microTrans (s : State) (n : NodeId) : Bool :=
  match (s.node n).seqr with
  | some q => q.started && (match decodeA .bespoke 0 (mget (s.side (panelOf s n q.letter) q.letter).micro (q.start + q.upc)) with
    | .ok i => isTrans i
    | .error _ => false)
  | none => false

/-- The registers g and predicates that a micro-word reads or writes (R192). -/
def microUses (w : Word) : List Nat × List Nat × List Nat × List Nat :=
  match decodeA .bespoke 0 w with
  | .error _ => ([], [], [], [])
  | .ok i =>
    let gr := (srcsOf i).filterMap fun x => match x with
      | .g k => some k.val
      | _ => none
    let (gw, pw) := match dstOf i with
      | .g k => ([k.val], [])
      | .p k => ([], [k.val])
      | _ => ([], [])
    match i with
    | .plog d a b _ => (gr, gw, [a.val, b.val], [d.val])
    | .pmov d a => (gr, gw, [a.val], [d.val])
    | .pseti m _ => (gr, gw, [], (List.range 8).filter fun k => bitOf m.toNat k)
    | _ => (gr, gw, [], pw)

/-- What a sequence reads and writes as the store holds it while it is bound: g read, g written, p read, p written (R192). -/
def seqUses (v : PanelSide) (b : Word) : List Nat × List Nat × List Nat × List Nat :=
  (boundWords v b).foldl (fun (r : List Nat × List Nat × List Nat × List Nat) w =>
    let u := microUses w
    (r.1 ++ u.1, r.2.1 ++ u.2.1, r.2.2.1 ++ u.2.2.1, r.2.2.2 ++ u.2.2.2)) ([], [], [], [])

/-- Accesses of a memory port that have issued and not performed, of both its planes; the stores of a commit window are counted by its
buffer (R207, R212). -/
def outstanding (s : State) (n : NodeId) : Nat := (s.accs.filter fun e => e.2.node == n && !e.2.commit).length

/-- The tile operations, drains and loads in flight that name a bank (R233). -/
def bankBusy (m : Mxa) (b : Bool) : Bool :=
  (m.tiles.any fun t => t.bank == b) || (match m.drain with
    | some d => d.bank == b
    | none => false)

/-- Whether a drain, accumulator load or ZAC of a bank is in flight (R233). -/
def drainBusy (p : Plane) (b : Bool) : Bool :=
  (match p.mxa.drain with
    | some d => d.bank == b
    | none => false)
  || p.ops.any fun o => field o.aw.toNat 31 24 == 0xB5 && bitOf o.aw.toNat 20 == b

/-- Every lane of an edge is empty and its count is a multiple of 16 (R229). -/
def edgeClear (m : Mxa) (e : Edge) : Bool :=
  match e with
  | .west => m.jw % 16 == 0 && (List.range 16).all fun k => (m.lanes.toList.getD k []).isEmpty
  | .north => m.jn % 16 == 0 && (List.range 16).all fun k => (m.lanes.toList.getD (16 + k) []).isEmpty

/-- Accumulator loads in flight (R233). -/
def acclBusy (m : Mxa) : Bool := match m.drain with
  | some d => d.acc
  | none => false

/-- An instance is finished (R183, R259, R360): every examined node holds EOS or is halted, no store of its memory
ports is outstanding, no instance it called is live, and its result ports are empty. Its copies hold only its launch's
completion (R335). -/
def instFinished (s : State) (i : Nat) : Bool :=
  let quiet (n : NodeId) (l : Letter) (p : Plane) : Bool :=
    !(p.inst == i && p.active && ((List.finRange 4).any fun k => p.ins[k].isFed))
    || ((List.finRange 4).any fun k => outWired s n l k)
    || (kindOf n == .mxa && (List.range 16).any fun k => rwWired (p.ext.getD k 0))
    || p.halted
    || ((List.finRange 4).all fun k => !eosCarrying p k || (rawHead p k).map (·.kind) == some .eos)
  (s.nodes.all fun e => quiet e.1 .a e.2.pa && quiet e.1 .b e.2.pb)
    && (s.accs.all fun e => !(e.2.inst == i && (match e.2.act with
        | .load => false
        | _ => true)))
    && (s.nodes.all fun e => (e.2.pa.inst != i || e.2.pa.mp.buf.isEmpty) && (e.2.pb.inst != i || e.2.pb.mp.buf.isEmpty))
    && (s.insts.all fun e => e.2.caller != i)
    && ((s.inst i).wires.all fun w => !w.result ||
      (let o := (s.plane (.panel w.panel w.node) w.letter).outs[Fin.ofNat 4 w.out]
       o.slot.isNone && o.res.isNone))

/-- The other plane of a panel is active somewhere, held for another instance, a pleated one, or claimed for one (R174,
R345, R349). In a ring that several VFs share the letter belongs to the ring, and the PLOAD is left to fault (R397). -/
def otherTaken (s : State) (p : Nat) (l : Letter) (i : Nat) : Bool :=
  !ringShared s (s.inst i).ctx &&
  ((s.nodes.any fun e => match e.1 with
    | .panel q _ => q == p && (e.2.plane l.other).active
    | _ => false)
  || (match (s.side p l.other).hold with
    | .inst j => j != i
    | .pleating _ => true
    | .basted j _ => j != i
    | .loading j _ _ => j != i
    | .claimed _ => true
    | .free => false))

/-- The other plane of a panel is being loaded (R176). -/
def otherLoading (s : State) (p : Nat) (l : Letter) : Bool :=
  (match (s.side p l.other).hold with
    | .loading _ _ _ => true
    | _ => false) || !(s.side p l.other).ploads.isEmpty

/-- The other plane of a node can be swapped in: loaded, or swapped out, and with no reload waiting (R174, R177, R180). -/
def otherBasted (s : State) (n : NodeId) (l : Letter) : Bool :=
  (s.plane n l.other).ready && !otherLoading s (panelOf s n l) l

/-- A WIN mark of a memory port has its place behind results that an out-port's return queue still owes: the port takes
nothing more before the release, so that a replay finds in its log all that the open window consumed (R212, R368, R373). -/
def winOwed (s : State) (p : Plane) (k : Fin 4) : Bool :=
  let owes (w : Nat) : Nat := (p.outs[k].retq.filter fun e => e.win == some w).length
  p.outs[k].retq.any fun e => match e.win with
    | none => decide (e.op = 0) && (e.tok.map (·.kind)) == some .mark
    | some w => decide (((s.inst p.inst).wins.getD w {}).cwn ≤ mget p.mp.since (w * 4 + k.val) + owes w)

/-- A plane of a memory port keeps the port from issuing: busy with tokens of an earlier instruction, or a store held at a
full buffer (R207, R212). -/
def portTaken (now : Nat) (p : Plane) : Bool := decide (now < p.mp.busy) || p.mp.held.isSome || p.mp.feed.isSome

/-- A memory port takes an instruction of a plane: neither plane keeps it, fewer than 256 accesses are outstanding, and
the plane owes no WIN mark (R207, R212, R368). -/
def portIdle (s : State) (n : NodeId) (p : Plane) : Bool :=
  !portTaken s.cycle (s.plane n .a) && !portTaken s.cycle (s.plane n .b) && decide (outstanding s n < 256)
    && (List.finRange 4).all fun k => !winOwed s p k

/-- A copy's descriptor, which is read at issue, is held behind an `.ACQ` access or a fence of the node (R204, R213, R217). -/
def readHeld (s : State) (n : NodeId) : Bool :=
  let fence (o : Op) : Bool := match o.kind with
    | .fence _ => true
    | _ => false
  (s.accs.any fun e => e.2.node == n && e.2.acq) || (s.plane n .a).ops.any fence || (s.plane n .b).ops.any fence
    || (s.plane n .a).copies.any (·.acq) || (s.plane n .b).copies.any (·.acq)
    || (s.plane n .a).mp.buf.any (·.acq) || (s.plane n .b).mp.buf.any (·.acq)

/-- The payload that an operand of a slot would read now. -/
def srcWord (s : State) (n : NodeId) (l : Letter) (a : Src) : Nat :=
  let p := s.plane n l
  match a with
  | .g k => p.g[k].payload.toNat
  | .inC k => ((headTok n p k).getD {}).payload.toNat
  | .inP k => ((headTok n p k).getD {}).payload.toNat
  | .cyc => s.cycle % 2 ^ 32
  | .inst => instOf s n l
  | .plane => l.bit.toNat
  | .one => 1
  | .ones => 0xFFFFFFFF
  | _ => 0

/-- The limiter of a copy's descriptor read, a load, lets it pass (R217, R330). -/
def descOpen (s : State) (n : NodeId) (l : Letter) (w : BitVec 4) (a : Src) : Bool :=
  let i := instOf s n l
  let c := (s.inst i).ctx
  let x := (s.inst i).wins.getD w.toNat {}
  match limiterVa s c x.space x.peer (x.base + srcWord s n l a) with
  | some k => limiterOpen s c k
  | none => true

/-- The engine conditions that single instructions add (R28). -/
def engineOk (s : State) (n : NodeId) (l : Letter) (i : Instr) : Bool :=
  let d := s.node n
  let p := s.plane n l
  let pl := panelOf s n l
  let m := p.mxa
  let i2free := m.loadW.isNone && m.loadN.isNone && m.cmpr.isNone && !acclBusy m
  match i with
  | .frcp .. | .frsq .. | .fsqrt .. | .fex2 .. | .flg2 .. | .ftnh .. => decide (d.trans ≤ s.cycle) && !transHeld d && !microTrans s n
  | .bsld _ _ | .bsbd _ _ => !bspBusy s pl l
  | .bsp k _ _ _ _ _ _ =>
    let b := mget (s.side pl l).bind k.val
    let u := mget (s.side pl l).uses k.val
    d.seqr.isNone && !bsldBusy s pl l
      && (!bitOf b.toNat 31 || ((u.1 ++ u.2.1).all (fun g => !gPending p g) && (u.2.2.1 ++ u.2.2.2).all fun q => !pPending p q))
  | .stky a _ => match srcNames a with
    | some k => (headTok n p k).map (·.kind) == some .data
    | none => false
  | .waitt _ a =>
    let v := srcWord s n l a
    decide ((s.cycle % 2 ^ 32 + 2 ^ 32 - v % 2 ^ 32) % 2 ^ 32 < 2 ^ 31)
  | .pload _ _ => !otherTaken s pl l (instOf s n l)
  | .swpt _ _ | .arm _ _ => !otherLoading s pl l
  | .ret => (s.inst (instOf s n l)).caller == 0 || instFinished s (instOf s n l)
  | .plog _ a b _ => !pPending p a.val && !pPending p b.val
  | .pmov _ a => !pPending p a.val
  | .cpy _ w a .. | .cpys _ w a .. =>
    decide (d.pa.copies.length + d.pb.copies.length < 8) && portIdle s n p && !readHeld s n && descOpen s n l w a
  | .mma _ b _ _ => decide (m.tiles.length < 2) && !drainBusy p b
  | .mmas _ _ b _ _ => decide (m.tiles.length < 2) && !drainBusy p b && m.mdl.isNone
  | .drn _ b => m.drain.isNone && !(m.tiles.any fun t => t.bank == b)
  | .accl _ b => m.drain.isNone && !(m.tiles.any fun t => t.bank == b) && i2free
  | .ldt _ e _ _ | .lde _ e _ _ =>
    (match e with
      | .west => m.loadW.isNone
      | .north => m.loadN.isNone) && edgeClear m e && m.cmpr.isNone && !acclBusy m && (headTok n p 2).isSome
  | .mdl _ _ => m.mdl.isNone && !(m.tiles.any fun t => t.spar != .dense)
  | .cmpr _ _ _ =>
    i2free && [(0 : Fin 4), 1].all fun k =>
      !outWired s n l k || (p.outs[k].slot.isNone && p.outs[k].res.isNone && p.outs[k].left != some s.cycle)
  | .zac _ b => !bankBusy m b && !drainBusy p b
  | .mrg .. | .dns .. | .sps .. | .cred .. | .cbcs .. => d.engine.isNone
  | _ =>
    if kindOf n == .mp then portIdle s n p else true

/-! ### Eligibility of a slot (R28) -/

/-- Whether every consumer of an out-port has an outstanding request (R26). -/
def allRequested (s : State) (n : NodeId) (l : Letter) (k : Fin 4) : Bool :=
  let o := s.outp n l k
  (targets s n l k).zipIdx.all fun x => requested s n o x.2 false x.1

/-- A destination out-port is free (R25, R26, R207, R257): nothing that its node has placed before waits for the slot, but the
results of a memory port's loads. An unwired one lets the slot issue and fault. -/
def dstFree (s : State) (n : NodeId) (l : Letter) (load : Bool) : Dst → Bool
  | .out k =>
    let o := s.outp n l k
    if !outWired s n l k then true
    else if load && kindOf n == .mp then decide (o.retq.length < 64)
    else o.slot.isNone && o.res.isNone && o.retq.all (fun e => kindOf n == .mp && e.op != 0) && o.left != some s.cycle && (!rwLazy (s.plane n l).rw[k] || allRequested s n l k)
  | _ => true

/-- The ports a firing needs: the T-word's `IN`, a tag test's port, and every port a source names (R28). -/
def neededPorts (t : Word) (srcs : List Src) : List (Fin 4) :=
  ((List.finRange 4).filter fun k => tIN t k.val || (tTT t != 0 && tTP t == k)) ++ srcs.filterMap srcNames

/-- The guard's predicates hold (R28). -/
def predsHold (p : Plane) (t : Word) : Bool :=
  (List.finRange 8).all fun k => !tPM t k.val || (!pPending p k.val && p.p[k] == tPV t k.val)

/-- Every needed port shows a head token and the tag test passes (R28). -/
def tokensHold (n : NodeId) (p : Plane) (t : Word) (srcs : List Src) : Bool :=
  ((neededPorts t srcs).all fun k => (headTok n p k).isSome)
    && (tTT t == 0 || match headTok n p (tTP t) with
      | some h => tagTest (tTT t) h.kind h.fmt
      | none => false)

/-- The i3 of a matrix array is reserved while a metadata load runs (R238). -/
def portReserved (p : Plane) (ps : List (Fin 4)) : Bool := p.mxa.mdl.isSome && ps.contains 3

/-- What a slot's A-word decodes to on its node (R107). -/
def slotInstr (n : NodeId) (w : Word) : Except DecErr Instr := decodeA (kindOf n) 0 w

/-- Slot `k` of a plane is eligible (R28); a word that does not decode is eligible on its T-word alone (R107). -/
def eligible (s : State) (n : NodeId) (l : Letter) (k : Nat) : Bool :=
  let p := s.plane n l
  let w := p.slots.toList.getD k (0, 0)
  decide (k < slotCount n) && tV w.1 && runs p && predsHold p w.1
    && (match slotInstr n w.2 with
      | .error _ => tokensHold n p w.1 []
      | .ok i =>
        tokensHold n p w.1 (srcsOf i) && srcsReady p (srcsOf i) && dstFree s n l (isLoad i) (dstOf i)
          && engineOk s n l i && !portReserved p (neededPorts w.1 (srcsOf i)))
    && ((s.node n).engine.isNone)

/-- The eligible slot of lowest index (R15, R28). -/
def lowestEligible (s : State) (n : NodeId) (l : Letter) : Option Nat :=
  (List.range (slotCount n)).find? fun k => eligible s n l k

/-! ### The EOS and mark actions (R168, R169, R234, R244, R256) -/

/-- The drain routes of a matrix array that are wired (R115). -/
def drainRoutes (n : NodeId) (p : Plane) : List Word :=
  if kindOf n == .mxa then (p.ext.take 16).filter rwWired else []

/-- Every consumer that a matrix array's drain routes name and no wired out-port names too, each once (R234). -/
def drainTargets (s : State) (n : NodeId) (l : Letter) : List Target :=
  let outs := (List.finRange 4).flatMap fun k => targets s n l k
  (((drainRoutes n (s.plane n l)).flatMap fun w => (List.range (rwCount w)).map fun q => entryTarget s n l (rwBase w + q)).filter
    fun t => !outs.contains t).dedup

/-- A consumer shows room for a control token of node `n` (R24, R172). -/
def roomAt (s : State) (n : NodeId) : Target → Bool
  | .port m ml k _ => seenRoom s n m ml k
  | .spill i _ => decide ((s.inst i).spill < spillCap)
  | .net m => netLinked s m && decide (netUsed s m < netCap)
  | .unwritten => false

/-- An out-port slot is empty and not reserved; one that a running stream operation holds counts as empty when its
slot is. -/
def outClear (s : State) (n : NodeId) (l : Letter) (k : Fin 4) : Bool :=
  let o := s.outp n l k
  o.slot.isNone && o.left != some s.cycle && o.retq.isEmpty && (match o.res with
    | none => true
    | some id => match (s.node n).engine with
      | some e => e.op == id
      | none => false)

/-- Every wired out-port slot is empty, and every drain consumer has room (R168, R169, R234). -/
def outsEmpty (s : State) (n : NodeId) (l : Letter) : Bool :=
  ((List.finRange 4).all fun k => !outWired s n l k || outClear s n l k)
    && (drainTargets s n l).all (roomAt s n)

/-- The plane has a wired out-port, that of a call being placed and a network seam among them, or a drain route (R168, R261,
R340, R409). -/
def hasOut (s : State) (n : NodeId) (l : Letter) : Bool :=
  ((List.finRange 4).any fun k => outWired s n l k) || !(drainRoutes n (s.plane n l)).isEmpty

/-- A fence that only buffered stores hold: what the node issued before it has performed (R212, R213). -/
def fenceIdle (s : State) (n : NodeId) (o : Op) : Bool :=
  (match o.kind with
    | .fence _ => true
    | _ => false)
  && (s.accs.all fun e => !(e.2.node == n && decide (e.2.op < o.id)))
  && ((s.plane n .a).copies ++ (s.plane n .b).copies).all fun j => decide (o.id ≤ j.op)

/-- Every access and copy a memory port has issued is finished, its results departed; a buffered store counts once it
commits, and so does a fence that waits for no other (R256). -/
def portDrained (s : State) (n : NodeId) (l : Letter) : Bool :=
  match kindOf n with
  | .mp =>
    let p := s.plane n l
    (s.accs.all fun e => !(e.2.node == n && e.2.letter == l))
      && ((List.finRange 4).all fun k => p.outs[k].retq.isEmpty && p.outs[k].slot.isNone)
      && (p.ops.all fun o => (p.mp.buf.any fun b => b.op == o.id) || fenceIdle s n o)
      && p.mp.feed.isNone && p.copies.isEmpty
  | _ => true

/-- The automatic EOS action is eligible (R168). -/
def eosReady (s : State) (n : NodeId) (l : Letter) : Bool :=
  let p := s.plane n l
  runs p && !testsAny p [11, 15] && hasOut s n l
    && ((List.finRange 4).any fun k => eosCarrying p k)
    && ((List.finRange 4).all fun k => !eosCarrying p k || (headTok n p k).map (·.kind) == some .eos)
    && ((List.finRange 4).all fun k => (rawHead p k).map (·.kind) != some .psn)
    && outsEmpty s n l && portDrained s n l && (s.node n).engine.isNone && p.mxa.drain.isNone

/-- The mark that stands aligned at every mark-carrying port (R169, R171). -/
def alignedMark (n : NodeId) (p : Plane) : Option Token :=
  let ports := (List.finRange 4).filter fun k => markCarrying n p k
  let form := kindOf n == .mg || kindOf n == .pc
  match ports with
  | [] => none
  | k :: _ =>
    match rawHead p k with
    | some t =>
      if t.kind == .mark && !(form && isFormMark t)
          && ports.all (fun j => headSettled p j && match rawHead p j with
            | some u => u.kind == .mark && u.payload == t.payload
            | none => false) then some t else none
    | none => none

/-- A stream engine has written out all that it holds before a mark (R245): no decoded entry, no open token, nothing
waiting for d, a DNS run covered to its end, and a collective's elements all placed. -/
def streamQuiet (s : State) (n : NodeId) (l : Letter) : Bool :=
  match (s.node n).engine with
  | none => true
  | some e =>
    e.letter != l
      || (e.queue.isEmpty && e.ina.pend.isEmpty && e.ina.idx.isNone
        && (match e.inb with
          | none => true
          | some b => b.pend.isEmpty && b.idx.isNone)
        && (s.plane n l).sout.open_.isNone && !e.fin
        && (match e.kind with
          | .dns => e.acc.isEmpty && decide (e.placed = 0 ∨ ((s.plane n l).ext.getD 2 0).toNat < e.idx)
          | .cred => decide (e.placed = e.ina.count)
          | .cbcs => decide (e.ina.count ≤ e.placed)
          | _ => true))

/-- No register and no predicate of a plane is pending (R169). -/
def nothingPending (p : Plane) : Bool := p.ops.all fun o => o.gmask.isEmpty && o.pmask.isEmpty

/-- The mark a plane's mark action takes: one injected here, or the aligned one (R169, R376, R394). -/
def markOf (n : NodeId) (p : Plane) : Option Token := p.inject.or (alignedMark n p)

/-- The mark action's conditions beside alignment (R169, R234, R245, R256); a mark injected here waits for the last element
of a block that has begun to leave (R49). A node of a window region that
holds at its WIN mark does not act again (R368). -/
def markReady (s : State) (n : NodeId) (l : Letter) : Option Token :=
  let p := s.plane n l
  let m := p.mxa
  match markOf n p with
  | none => none
  | some t =>
    let quiet := match kindOf n with
      | .mxa => m.tiles.isEmpty && m.drain.isNone && m.loadW.isNone && m.loadN.isNone && m.mdl.isNone && m.cmpr.isNone
          && m.lanes.toList.all (·.isEmpty) && p.ops.isEmpty
      | .mp => portDrained s n l
      | .mg => streamQuiet s n l && nothingPending p
      | .pc => streamQuiet s n l && nothingPending p
      | _ => nothingPending p
    let whole := p.inject.isNone || (List.finRange 4).all fun k => !outWired s n l k || p.outs[k].blk == 0
    if runs p && quiet && whole && outsEmpty s n l then some t else none

/-- Whether a plane's mark action is the arrival of a WIN or PMK mark at a node of a window region, which is no firing
(R368, R370, R376). -/
def arrives (s : State) (n : NodeId) (l : Letter) : Bool :=
  match markReady s n l with
  | some t => (s.inst (instOf s n l)).region.contains (n, l) && (markSub t.payload == 3 || markSub t.payload == 0)
  | none => false

/-! ### The choice between planes (R15, R328, R329) -/

/-- What a plane would issue: its mark action, its EOS action, or a slot. -/
inductive Cand where
  | mark | eos | slot (k : Nat)
  deriving DecidableEq, Repr, Inhabited

/-- A plane's candidate: the mark action ranks above the EOS action, and that above slot 0 (R168, R169). -/
def candOf (s : State) (n : NodeId) (l : Letter) : Option Cand :=
  if (markReady s n l).isSome then some .mark
  else if eosReady s n l then some .eos
  else (lowestEligible s n l).map .slot

/-- The deficit counters' choice in a contested cycle (R328). -/
def contest (d : Node) : Node × Letter :=
  let wa : Int := pcwWeight d.pa.pcw
  let wb : Int := pcwWeight d.pb.pcw
  let ca := d.ca + wa
  let cb := d.cb + wb
  if cb < ca ∨ (ca = cb ∧ d.last = .b) then ({ d with ca := ca - (wa + wb), cb := cb, last := .a }, .a)
  else ({ d with ca := ca, cb := cb - (wa + wb), last := .b }, .b)

/-- The plane that issues, the node's counters after the choice, and what it issues (R15, R328); one issue a cycle of the node's
island (R423). -/
def choose (s : State) (n : NodeId) : Option (Node × Letter × Cand) :=
  let d := s.node n
  if d.lastIssue.any fun c => decide (s.cycle < c + slow s n 1) then none
  else
    match candOf s n .a, candOf s n .b with
    | none, none => none
    | some c, none => some (d, .a, c)
    | none, some c => some (d, .b, c)
    | some ca, some cb =>
      let (d', l) := contest d
      some (d', l, match l with
        | .a => ca
        | .b => cb)

/-- The issue of a plane is counted: the firing count, a step's or replay's budget, the cycle of issue, and the
instance's progress (R15, R363, R370, R373). -/
def countIssue (s : State) (n : NodeId) (l : Letter) (d : Node) (c : Cand) : State :=
  let s := s.setNode n { d with lastIssue := some s.cycle }
  let s := s.updPlane n l fun p =>
    { p with fires := p.fires + 1, budget := p.budget.map fun b => b - 1, replay := p.replay.map fun b => b - 1,
             replaySince := s.cycle, lastFire := match c with
               | .slot k => k
               | _ => 15 }
  s.updInst (instOf s n l) fun v => { v with progress := s.cycle, idle := 0, quiet := 0 }

/-- The arrival at a WIN or PMK mark is no firing, but a mark action and so its instance's progress (R363, R370). -/
def countArrival (s : State) (n : NodeId) (l : Letter) (d : Node) : State :=
  (s.setNode n { d with lastIssue := some s.cycle }).updInst (instOf s n l) fun v => { v with progress := s.cycle, idle := 0, quiet := 0 }

/-! ### Requests (R24, R164) -/

/-- Tokens that may stand for an absent head: every kind and format, DATA first. -/
def fakeTokens : List Token :=
  [Kind.data, .blkh, .eos, .psn, .mark, .steer].flatMap fun k => (List.range 8).map fun f => { kind := k, fmt := Fmt.ofCode f }

/-- A head that passes a slot's tag test at a port (R24). -/
def fakeHead (cyc : Nat) (w : Word) (k : Fin 4) : Flit :=
  let ok (t : Token) : Bool := tTT w == 0 || tTP w != k || tagTest (tTT w) t.kind t.fmt
  { tok := { (fakeTokens.find? ok).getD {} with payload := BitVec.ofNat 32 cyc } }

/-- The empty lazy in-ports that a slot needs (R24). -/
def lazyEmpty (n : NodeId) (p : Plane) (w : Word × Word) : List (Fin 4) :=
  let srcs := match slotInstr n w.2 with
    | .ok i => srcsOf i
    | .error _ => []
  ((neededPorts w.1 srcs).filter fun k => iwLazy p.inw[k] && p.ins[k].fifo.isEmpty).dedup

/-- Whether slot `j` makes lazy in-port `k` request (R24): it needs the port, and it would be eligible if each empty lazy
in-port that it needs held a head that passes its tag test. -/
def slotWants (s : State) (n : NodeId) (l : Letter) (k : Fin 4) (j : Nat) : Bool :=
  let p := s.plane n l
  let w := p.slots.toList.getD j (0, 0)
  let es := lazyEmpty n p w
  let srcs := match slotInstr n w.2 with
    | .ok i => srcsOf i
    | .error _ => []
  let fill (p : Plane) : Plane :=
    { p with ins := Vector.ofFn fun e => if es.contains e then { p.ins[e] with fifo := [fakeHead s.cycle w.1 e], settled := true }
        else p.ins[e] }
  (neededPorts w.1 srcs).contains k && eligible (s.updPlane n l fill) n l j

/-- Whether a lazy in-port holds a request upstream (R24, R164). A token on its way to the port has met what its slots
want (log 24). -/
def lazyNeed (s : State) (n : NodeId) (l : Letter) (k : Fin 4) : Bool :=
  let p := s.plane n l
  portFree p k && (decide (p.ins[k].lane.length < p.ins[k].credit)
    || (p.ins[k].lane.isEmpty && (List.range (slotCount n)).any fun j => slotWants s n l k j))

end Sys2Proof.Machine
end

