-- ==== Sys2Proof/Machine/LaneInt.lean ====
section
/-! DEFINITION. The integer and bit lane instructions, groups 0x0 and 0x1 (R137 to R142). -/

namespace Sys2Proof.Machine
open Sys2Proof

/-! ### Skeletons over lanes: all operands of class "=", the result in the same format (R132, R134) -/

/-- One operand, lane by lane. -/
def same1 (s : State) (f : Fmt) (a : Src) (g : Nat → LaneR) : LaneRes :=
  let x := readSrc s f a
  let r := (lanesOf f x.tok.payload).map g
  laneRes s f [(x, .same)] true f (sOfA x []) (payOf f r) (condsOf r) none

/-- Two operands, lane by lane. -/
def same2 (s : State) (f : Fmt) (a b : Src) (g : Nat → Nat → LaneR) : LaneRes :=
  let x := readSrc s f a
  let y := readSrc s f b
  let r := List.zipWith g (lanesOf f x.tok.payload) (lanesOf f y.tok.payload)
  laneRes s f [(x, .same), (y, .same)] true f (sOfA x [y]) (payOf f r) (condsOf r) none

/-- Three operands, lane by lane. -/
def same3 (s : State) (f : Fmt) (a b c : Src) (g : Nat → Nat → Nat → LaneR) : LaneRes :=
  let x := readSrc s f a
  let y := readSrc s f b
  let z := readSrc s f c
  let r := List.zipWith (fun h u => h u) (List.zipWith g (lanesOf f x.tok.payload) (lanesOf f y.tok.payload))
    (lanesOf f z.tok.payload)
  laneRes s f [(x, .same), (y, .same), (z, .same)] true f (sOfA x [y, z]) (payOf f r) (condsOf r) none

/-- A comparison: bit i of the W32 payload is lane i's outcome (R141). -/
def outcome2 (s : State) (f : Fmt) (x y : Opd) (both : Bool) (g : Nat → Nat → Bool) : LaneRes :=
  laneRes s f (if both then [(x, .same), (y, .same)] else [(x, .same)]) true .w32 (sOfA x (if both then [y] else []))
    (BitVec.ofNat 32 (outcomeBits (List.zipWith g (lanesOf f x.tok.payload) (lanesOf f y.tok.payload)))) {} none

/-! ### Integer arithmetic (R139) -/

/-- ADD (R139). -/
def execAdd (f : Fmt) (d : Dst) (a b : Src) (sat : Bool) (s : State) : Res :=
  let w := laneW f
  .next (finish s 1 d [a, b] (same2 s f a b fun x y => intLane w (satMode sat) (signedOf w x + signedOf w y)))

/-- SUB (R139). -/
def execSub (f : Fmt) (d : Dst) (a b : Src) (sat : Bool) (s : State) : Res :=
  let w := laneW f
  .next (finish s 1 d [a, b] (same2 s f a b fun x y => intLane w (satMode sat) (signedOf w x - signedOf w y)))

/-- ADDI (R139). -/
def execAddi (d : Dst) (a : Src) (imm : BitVec 11) (s : State) : Res :=
  .next (finish s 1 d [a] (same1 s .w32 a fun x => intLane 32 (.wrap true) (signedOf 32 x + imm.toInt)))

/-- MUL (R139). -/
def execMul (f : Fmt) (d : Dst) (a b : Src) (sat : Bool) (s : State) : Res :=
  let w := laneW f
  .next (finish s 2 d [a, b] (same2 s f a b fun x y => intLane w (satMode sat) (signedOf w x * signedOf w y)))

/-- MULH (R139). -/
def execMulh (f : Fmt) (d : Dst) (a b : Src) (s : State) : Res :=
  let w := laneW f
  .next (finish s 2 d [a, b] (same2 s f a b fun x y =>
    intLane w (.wrap true) (signedOf w x * signedOf w y / (2 ^ w : Nat))))

/-- MULHU (R139). -/
def execMulhu (f : Fmt) (d : Dst) (a b : Src) (s : State) : Res :=
  let w := laneW f
  .next (finish s 2 d [a, b] (same2 s f a b fun x y => intLane w (.wrap false) ((x * y / 2 ^ w : Nat) : Int)))

/-- MIN (R139). -/
def execMin (f : Fmt) (d : Dst) (a b : Src) (s : State) : Res :=
  let w := laneW f
  .next (finish s 1 d [a, b] (same2 s f a b fun x y => intLane w (.wrap true) (min (signedOf w x) (signedOf w y))))

/-- MAX (R139). -/
def execMax (f : Fmt) (d : Dst) (a b : Src) (s : State) : Res :=
  let w := laneW f
  .next (finish s 1 d [a, b] (same2 s f a b fun x y => intLane w (.wrap true) (max (signedOf w x) (signedOf w y))))

/-- MINU (R139). -/
def execMinu (f : Fmt) (d : Dst) (a b : Src) (s : State) : Res :=
  let w := laneW f
  .next (finish s 1 d [a, b] (same2 s f a b fun x y => intLane w (.wrap false) ((min x y : Nat) : Int)))

/-- MAXU (R139). -/
def execMaxu (f : Fmt) (d : Dst) (a b : Src) (s : State) : Res :=
  let w := laneW f
  .next (finish s 1 d [a, b] (same2 s f a b fun x y => intLane w (.wrap false) ((max x y : Nat) : Int)))

/-- ABS (R139). -/
def execAbs (f : Fmt) (d : Dst) (a : Src) (sat : Bool) (s : State) : Res :=
  let w := laneW f
  .next (finish s 1 d [a] (same1 s f a fun x => intLane w (satMode sat) ((signedOf w x).natAbs : Int)))

/-- NEG (R139). -/
def execNeg (f : Fmt) (d : Dst) (a : Src) (sat : Bool) (s : State) : Res :=
  let w := laneW f
  .next (finish s 1 d [a] (same1 s f a fun x => intLane w (satMode sat) (-signedOf w x)))

/-- ADDS (R139). -/
def execAdds (f : Fmt) (d : Dst) (a b : Src) (s : State) : Res :=
  let w := laneW f
  .next (finish s 1 d [a, b] (same2 s f a b fun x y => intLane w .unsat ((x : Int) + y)))

/-- SUBS (R139). -/
def execSubs (f : Fmt) (d : Dst) (a b : Src) (s : State) : Res :=
  let w := laneW f
  .next (finish s 1 d [a, b] (same2 s f a b fun x y => intLane w .unsat ((x : Int) - y)))

/-- MAD (R139). -/
def execMad (f : Fmt) (d : Dst) (a b c : Src) (sat : Bool) (s : State) : Res :=
  let w := laneW f
  .next (finish s 2 d [a, b, c] (same3 s f a b c fun x y z =>
    intLane w (satMode sat) (signedOf w x * signedOf w y + signedOf w z)))

/-! ### Bit operations (R140) -/

/-- One raw operand; the result keeps the operand's format when `keep`, and is W32 else. -/
def raw1 (s : State) (a : Src) (keep : Bool) (g : Word → Word) : LaneRes :=
  let x := readSrc s .w32 a
  laneRes s .w32 [(x, .raw)] false (if keep then x.tok.fmt else .w32) (sOfA x []) (g x.tok.payload) {} none

/-- Two raw operands, the result in sA's format. -/
def raw2 (s : State) (a b : Src) (g : Word → Word → Word) : LaneRes :=
  let x := readSrc s .w32 a
  let y := readSrc s .w32 b
  laneRes s .w32 [(x, .raw), (y, .raw)] false x.tok.fmt (sOfA x [y]) (g x.tok.payload y.tok.payload) {} none

/-- Three raw operands. -/
def raw3 (s : State) (a b c : Src) (keep : Bool) (g : Word → Word → Word → Word) : LaneRes :=
  let x := readSrc s .w32 a
  let y := readSrc s .w32 b
  let z := readSrc s .w32 c
  laneRes s .w32 [(x, .raw), (y, .raw), (z, .raw)] false (if keep then x.tok.fmt else .w32) (sOfA x [y, z])
    (g x.tok.payload y.tok.payload z.tok.payload) {} none

/-- AND (R140). -/
def execAnd (d : Dst) (a b : Src) (s : State) : Res := .next (finish s 1 d [a, b] (raw2 s a b fun x y => x &&& y))
/-- OR (R140). -/
def execOr (d : Dst) (a b : Src) (s : State) : Res := .next (finish s 1 d [a, b] (raw2 s a b fun x y => x ||| y))
/-- XOR (R140). -/
def execXor (d : Dst) (a b : Src) (s : State) : Res := .next (finish s 1 d [a, b] (raw2 s a b fun x y => x ^^^ y))
/-- ANDN (R140). -/
def execAndn (d : Dst) (a b : Src) (s : State) : Res := .next (finish s 1 d [a, b] (raw2 s a b fun x y => x &&& ~~~y))
/-- SHL (R140). -/
def execShl (d : Dst) (a b : Src) (s : State) : Res :=
  .next (finish s 1 d [a, b] (raw2 s a b fun x y => x <<< (y.toNat % 32)))
/-- SHR (R140). -/
def execShr (d : Dst) (a b : Src) (s : State) : Res :=
  .next (finish s 1 d [a, b] (raw2 s a b fun x y => x >>> (y.toNat % 32)))
/-- SAR (R140). -/
def execSar (d : Dst) (a b : Src) (s : State) : Res :=
  .next (finish s 1 d [a, b] (raw2 s a b fun x y => x.sshiftRight (y.toNat % 32)))
/-- ROL (R140). -/
def execRol (d : Dst) (a b : Src) (s : State) : Res :=
  .next (finish s 1 d [a, b] (raw2 s a b fun x y =>
    let k := y.toNat % 32
    if k = 0 then x else (x <<< k) ||| (x >>> (32 - k))))
/-- ANDI (R140). -/
def execAndi (d : Dst) (a : Src) (imm : BitVec 11) (s : State) : Res :=
  .next (finish s 1 d [a] (raw1 s a true fun x => x &&& imm.signExtend 32))
/-- ORI (R140). -/
def execOri (d : Dst) (a : Src) (imm : BitVec 11) (s : State) : Res :=
  .next (finish s 1 d [a] (raw1 s a true fun x => x ||| imm.signExtend 32))

/-- The number of significant bits of a word. -/
def sigBits (w : Nat) : Nat := if w = 0 then 0 else flog2 w + 1

/-- The number of one bits among the low `n` of a number. -/
def popCount (v : Nat) : Nat → Nat
  | 0 => 0
  | n + 1 => (bitOf v n).toNat + popCount v n

/-- CLZ (R140). -/
def execClz (d : Dst) (a : Src) (s : State) : Res :=
  .next (finish s 1 d [a] (raw1 s a false fun x => BitVec.ofNat 32 (32 - sigBits x.toNat)))
/-- POPC (R140). -/
def execPopc (d : Dst) (a : Src) (s : State) : Res :=
  .next (finish s 1 d [a] (raw1 s a false fun x => BitVec.ofNat 32 (popCount x.toNat 32)))

/-- EXT's field: `len` bits of a from `pos`, bits above bit 31 reading 0 (R140). -/
def extField (a b c : Word) : Word :=
  BitVec.ofNat 32 (a.toNat / 2 ^ (b.toNat % 32) % 2 ^ min (c.toNat % 64) 32)

/-- INS: a with `len` bits at `pos` replaced by the low bits of b (R140). -/
def insField (a b c : Word) : Word :=
  let pos := c.toNat % 32
  let len := min (field c.toNat 13 8) 32
  let top := min (pos + len) 32
  BitVec.ofNat 32 (a.toNat % 2 ^ pos + b.toNat % 2 ^ (top - pos) * 2 ^ pos + a.toNat / 2 ^ top * 2 ^ top)

/-- EXT (R140). -/
def execExt (d : Dst) (a b c : Src) (s : State) : Res := .next (finish s 1 d [a, b, c] (raw3 s a b c false extField))
/-- INS (R140). -/
def execIns (d : Dst) (a b c : Src) (s : State) : Res := .next (finish s 1 d [a, b, c] (raw3 s a b c true insField))

/-! ### Compare and select (R141, R142) -/

/-- SEL's result: the chosen token whole, no scale check (R142). -/
def selRes (s : State) (a b c : Src) : LaneRes :=
  let x := readSrc s .w32 a
  let y := readSrc s .w32 b
  let z := readSrc s .w32 c
  match checkOpds .w32 [(x, .raw), (y, .raw), (z, .raw)] with
  | some e => { out := .error e }
  | none =>
    if z.tok.payload = 0 then { out := .ok { y.tok with s := sOfA y [x, z] } }
    else { out := .ok { x.tok with s := sOfA x [y, z] } }

/-- SEL (R142). -/
def execSel (d : Dst) (a b c : Src) (s : State) : Res := .next (finish s 1 d [a, b, c] (selRes s a b c))

/-- CMP (R141). -/
def execCmp (f : Fmt) (cc : Cc) (d : Dst) (a b : Src) (s : State) : Res :=
  .next (finish s 1 d [a, b] (outcome2 s f (readSrc s f a) (readSrc s f b) true (iCmp (laneW f) cc)))

/-- The signed 8-bit immediate of CMPI in every lane (R141). -/
def cmpiTok (f : Fmt) (imm : BitVec 8) : Opd :=
  { tok := { fmt := f, payload := packLanes f (List.replicate f.lanes (codeOf (laneW f) imm.toInt)) }, const := true }

/-- CMPI (R141). -/
def execCmpi (f : Fmt) (cc : Cc) (d : Dst) (a : Src) (imm : BitVec 8) (s : State) : Res :=
  .next (finish s 1 d [a] (outcome2 s f (readSrc s f a) (cmpiTok f imm) false (iCmp (laneW f) cc)))

end Sys2Proof.Machine
end

