-- ==== Sys2Proof/Machine/LaneFloat.lean ====
section
/-! DEFINITION. The float lane instructions, transcendentals, conversions and packing, groups 0x2 and 0x3
(R143 to R150). -/

namespace Sys2Proof.Machine
open Sys2Proof

/-- The latency of R137's "F32 4, else 3". -/
def fLat (f : Fmt) : Nat := if f == .f32 then 4 else 3

/-- A lane result without conditions. -/
def quiet (x : Nat) : LaneR := (x, {})

/-- FADD (R143). -/
def execFadd (f : Fmt) (d : Dst) (a b : Src) (rm : Rm) (s : State) : Res :=
  .next (finish s (fLat f) d [a, b] (same2 s f a b (fAdd f (rmOf s rm))))
/-- FSUB (R143). -/
def execFsub (f : Fmt) (d : Dst) (a b : Src) (rm : Rm) (s : State) : Res :=
  .next (finish s (fLat f) d [a, b] (same2 s f a b (fSub f (rmOf s rm))))
/-- FMUL (R143). -/
def execFmul (f : Fmt) (d : Dst) (a b : Src) (rm : Rm) (s : State) : Res :=
  .next (finish s (fLat f) d [a, b] (same2 s f a b (fMul f (rmOf s rm))))
/-- FMA, rounded in the plane default mode (R143). -/
def execFma (f : Fmt) (d : Dst) (a b c : Src) (s : State) : Res :=
  .next (finish s (fLat f) d [a, b, c] (same3 s f a b c (fMa f (rmOf s .dflt))))
/-- FMIN (R143). -/
def execFmin (f : Fmt) (d : Dst) (a b : Src) (s : State) : Res :=
  .next (finish s 2 d [a, b] (same2 s f a b fun x y => quiet (fMin f x y)))
/-- FMAX (R143). -/
def execFmax (f : Fmt) (d : Dst) (a b : Src) (s : State) : Res :=
  .next (finish s 2 d [a, b] (same2 s f a b fun x y => quiet (fMax f x y)))
/-- FABS (R143). -/
def execFabs (f : Fmt) (d : Dst) (a : Src) (s : State) : Res :=
  .next (finish s 1 d [a] (same1 s f a fun x => quiet (x % signBit f)))
/-- FNEG (R143). -/
def execFneg (f : Fmt) (d : Dst) (a : Src) (s : State) : Res :=
  .next (finish s 1 d [a] (same1 s f a fun x => quiet ((x + signBit f) % (2 * signBit f))))
/-- FCMP (R141). -/
def execFcmp (f : Fmt) (cc : Cc) (d : Dst) (a b : Src) (s : State) : Res :=
  .next (finish s 2 d [a, b] (outcome2 s f (readSrc s f a) (readSrc s f b) true (fCmp f cc)))

/-- FHSUM's result (R67, R144). -/
def hsumRes (s : State) (f : Fmt) (a : Src) (r : Rnd) : LaneRes :=
  let x := readSrc s f a
  let v := xsum r ((lanesOf f x.tok.payload).map (fval f))
  let q := invalidIf v.2 (roundX .f32 r false v.1)
  laneRes s f [(x, .same)] true .f32 (sOfA x []) (BitVec.ofNat 32 q.1) q.2 none

/-- FHSUM (R144). -/
def execFhsum (f : Fmt) (d : Dst) (a : Src) (rm : Rm) (s : State) : Res :=
  .next (finish s 4 d [a] (hsumRes s f a (rmOf s rm)))

/-- FDOT's lane (R67, R144): the exact products and the addend, summed and rounded once. -/
def dotLane (f : Fmt) (r : Rnd) (a b c : Word) : LaneR :=
  let ps := List.zipWith (fun x y => xmul (fval f x) (fval f y)) (lanesOf f a) (lanesOf f b)
  let bad := ps.any (·.2)
  let v := xsum r (ps.map (·.1) ++ [fval .f32 c.toNat])
  if bad then (canonNaN .f32, { iv := true }) else invalidIf v.2 (roundX .f32 r false v.1)

/-- FDOT's result (R144). -/
def dotRes (s : State) (f : Fmt) (a b c : Src) : LaneRes :=
  let x := readSrc s f a
  let y := readSrc s f b
  let z := readSrc s .f32 c
  let q := dotLane f (rmOf s .dflt) x.tok.payload y.tok.payload z.tok.payload
  laneRes s f [(x, .same), (y, .same), (z, .f32)] true .f32 (sOfA x [y, z]) (BitVec.ofNat 32 q.1) q.2 none

/-- FDOT (R144). -/
def execFdot (f : Fmt) (d : Dst) (a b c : Src) (s : State) : Res :=
  .next (finish s 4 d [a, b, c] (dotRes s f a b c))

/-- FCLS's result: the class of lane i in bits 4i+3 to 4i (R143). -/
def clsRes (s : State) (f : Fmt) (a : Src) : LaneRes :=
  let x := readSrc s f a
  laneRes s f [(x, .same)] true .w32 (sOfA x []) (BitVec.ofNat 32 (packNat 4 ((lanesOf f x.tok.payload).map (fClass f)))) {} none

/-- FCLS (R143). -/
def execFcls (f : Fmt) (d : Dst) (a : Src) (s : State) : Res := .next (finish s 1 d [a] (clsRes s f a))
/-- FCLP (R143). -/
def execFclp (f : Fmt) (d : Dst) (a b c : Src) (s : State) : Res :=
  .next (finish s 2 d [a, b, c] (same3 s f a b c fun x y z => quiet (fMin f (fMax f x y) z)))

/-! ### Transcendentals (R65, R136, R145) -/

/-- A latency by format. -/
def lat2 (f : Fmt) (x y : Nat) : Nat := if f == .f32 then x else y

/-- The cycle in which a micro-operation's destination is written, which an earlier write of it may hold back (R18, R193). -/
def microFree (r : State) (n : NodeId) (d : Dst) : Nat :=
  match (r.node n).seqr, d with
  | some q, .g k => (mget? q.busyG k.val).getD 0
  | some q, .t k => (mget? q.busyH k.val).getD 0
  | some q, .p k => (mget? q.busyP k.val).getD 0
  | _, _ => 0

/-- The unit of a stitch is busy from issue until write-back (R136); a slot's operation that an earlier write holds back keeps it
longer (`transHeld`), and so does a micro-operation. -/
def transBusy (s : State) (d : Dst) (lat : Nat) (r : State) : State :=
  match s.cur with
  | .slot n _ _ => r.setNode n { r.node n with trans := max (r.node n).trans (s.cycle + slow s n lat) }
  | .micro n _ => r.setNode n { r.node n with trans := max (r.node n).trans (max (s.cycle + slow s n lat) (microFree r n d)) }
  | _ => r

/-- A transcendental of a slot, a micro-word or a handler: its unit is taken when it issues (R136). DESIGN CHOICE (log 30): one
that faults at issue, and so never writes back, holds the unit for its latency all the same; the spec states no end. -/
def transOp (f : Fmt) (d : Dst) (a : Src) (lat : Nat) (g : Nat → LaneR) (s : State) : Res :=
  .next (transBusy s d lat (finish s lat d [a] (same1 s f a g)))

/-- FRCP (R145). -/
def execFrcp (f : Fmt) (d : Dst) (a : Src) (rm : Rm) (s : State) : Res := transOp f d a (lat2 f 12 8) (fRcp f (rmOf s rm)) s
/-- FRSQ (R145). -/
def execFrsq (f : Fmt) (d : Dst) (a : Src) (rm : Rm) (s : State) : Res := transOp f d a (lat2 f 14 8) (fRsq f (rmOf s rm)) s
/-- FSQRT (R145). -/
def execFsqrt (f : Fmt) (d : Dst) (a : Src) (rm : Rm) (s : State) : Res := transOp f d a (lat2 f 14 8) (fSqrt f (rmOf s rm)) s
/-- FEX2 (R145). -/
def execFex2 (f : Fmt) (d : Dst) (a : Src) (rm : Rm) (s : State) : Res := transOp f d a (lat2 f 16 10) (fEx2 f (rmOf s rm)) s
/-- FLG2 (R145). -/
def execFlg2 (f : Fmt) (d : Dst) (a : Src) (rm : Rm) (s : State) : Res := transOp f d a (lat2 f 16 10) (fLg2 f (rmOf s rm)) s
/-- FTNH (R145). -/
def execFtnh (f : Fmt) (d : Dst) (a : Src) (rm : Rm) (s : State) : Res := transOp f d a (lat2 f 24 12) (fTnh f (rmOf s rm)) s

/-! ### Conversion and packing (R146 to R150) -/

/-- Lanes converted one by one, up to the fewer of the two formats (R146, R149). -/
def convLanes (src dst : Fmt) (w : Word) (g : Nat → LaneR) : List LaneR :=
  ((lanesOf src w).take (min src.lanes dst.lanes)).map g

/-- CVT's result (R146). -/
def cvtRes (s : State) (f : Fmt) (a : Src) (r : Rnd) (nanov : Bool) : LaneRes :=
  let x := readSrc s .f32 a
  let g := x.tok.fmt
  let q := convLanes g f x.tok.payload (fCvt g f r nanov)
  laneRes s f [(x, .flt)] true f (sOfA x []) (payOf f q) (condsOf q) none

/-- CVT (R146). -/
def execCvt (f : Fmt) (d : Dst) (a : Src) (rm : Rm) (nanov : Bool) (s : State) : Res :=
  .next (finish s 2 d [a] (cvtRes s f a (rmOf s rm) nanov))

/-- PACK's result (R147). -/
def packRes (s : State) (f : Fmt) (a b : Src) : LaneRes :=
  let x := readSrc s f a
  let y := readSrc s f b
  let h := f.lanes / 2
  laneRes s f [(x, .same), (y, .same)] true f (sOfA x [y])
    (packLanes f ((lanesOf f x.tok.payload).take h ++ (lanesOf f y.tok.payload).take h)) {} none

/-- PACK (R147). -/
def execPack (f : Fmt) (d : Dst) (a b : Src) (s : State) : Res := .next (finish s 1 d [a, b] (packRes s f a b))

/-- UNPK's result (R147). -/
def unpkRes (s : State) (f : Fmt) (a : Src) (hi : Bool) : LaneRes :=
  let x := readSrc s f a
  let h := f.lanes / 2
  let ls := lanesOf f x.tok.payload
  laneRes s f [(x, .same)] true f (sOfA x []) (packLanes f (if hi then ls.drop h else ls.take h)) {} none

/-- UNPK (R147). -/
def execUnpk (f : Fmt) (d : Dst) (a : Src) (hi : Bool) (s : State) : Res := .next (finish s 1 d [a] (unpkRes s f a hi))

/-- A lane times an F32 scale, rounded to the lane's format (R63, R148). -/
def scaleLane (f : Fmt) (r : Rnd) (c : Word) (x : Nat) : LaneR :=
  let v := xmul (fval f x) (fval .f32 c.toNat)
  invalidIf v.2 (roundX f r false v.1)

/-- SCL's result (R148): `S` is set or cleared whatever the operands carry. -/
def sclRes (s : State) (f : Fmt) (a b : Src) (r : Rnd) (clr : Bool) : LaneRes :=
  let x := readSrc s f a
  let y := readSrc s .f32 b
  let q := if f.isInt then (lanesOf f x.tok.payload).map quiet
    else (lanesOf f x.tok.payload).map (scaleLane f r y.tok.payload)
  laneRes s f [(x, .same), (y, .f32)] false f (!clr) (payOf f q) (condsOf q) none

/-- SCL (R148). -/
def execScl (f : Fmt) (d : Dst) (a b : Src) (rm : Rm) (clr : Bool) (s : State) : Res :=
  .next (finish s (if f.isInt then 1 else fLat f) d [a, b] (sclRes s f a b (rmOf s rm) clr))

/-- ITOF's result (R149). -/
def itofRes (s : State) (f : Fmt) (a : Src) (r : Rnd) (u : Bool) : LaneRes :=
  let x := readSrc s .w32 a
  let g := x.tok.fmt
  let q := convLanes g f x.tok.payload fun v => iToF f r (if u then (v : Int) else signedOf (laneW g) v)
  laneRes s f [(x, .int)] true f (sOfA x []) (payOf f q) (condsOf q) none

/-- ITOF (R149). -/
def execItof (f : Fmt) (d : Dst) (a : Src) (rm : Rm) (u : Bool) (s : State) : Res :=
  .next (finish s 2 d [a] (itofRes s f a (rmOf s rm) u))

/-- FTOI's result: a lane out of range faults CONVERT_RANGE at write-back without `SAT` (R58, R149). -/
def ftoiRes (s : State) (f : Fmt) (a : Src) (r : Rnd) (sat u : Bool) : LaneRes :=
  let x := readSrc s .f32 a
  let g := x.tok.fmt
  let w := laneW f
  let lo : Int := if u then 0 else smin w
  let hi : Int := if u then (2 ^ w : Nat) - 1 else smax w
  let q := ((lanesOf g x.tok.payload).take (min g.lanes f.lanes)).map fun v => fToI lo hi r sat (fval g v)
  laneRes s f [(x, .flt)] true f (sOfA x []) (packLanes f (q.map fun v => codeOf w (v.getD 0))) {}
    (if q.any (·.isNone) then some .convertRange else none)

/-- FTOI (R149). -/
def execFtoi (f : Fmt) (d : Dst) (a : Src) (rm : Rm) (sat u : Bool) (s : State) : Res :=
  .next (finish s 2 d [a] (ftoiRes s f a (rmOf s rm) sat u))

/-- RNDI (R150). -/
def execRndi (f : Fmt) (d : Dst) (a : Src) (rm : Rm) (s : State) : Res :=
  .next (finish s 2 d [a] (same1 s f a fun x => quiet (fRndi f (rmOf s rm) x)))

end Sys2Proof.Machine
end

