-- ==== Sys2Proof/Machine/TokenOps.lean ====
section
/-! DEFINITION. Arrival of a token at an in-port (R22, R117), conversion at cv (R117), the swap of a node's planes
(R177, R258, R293, R328), and the edge scaler (R63). -/

namespace Sys2Proof.Machine
open Sys2Proof

/-! ### Arrival (R13, R22) -/

/-- Whether an in-port accepts a token as it is (R22). -/
def accepts (w : Word) (t : Token) : Bool :=
  match t.kind with
  | .data => iwAccept w t.fmt
  | .blkh => bitOf w.toNat 6 || bitOf w.toNat 7
  | _ => true

/-- The cv entry that serves a token steered at a panel's letter, if it has a conversion (R22, R117). -/
def cvEntry (s : State) (n : NodeId) (l : Letter) (t : Token) : Option Word :=
  match n with
  | .panel p _ =>
    let w := (s.side p l).cvt[Fin.ofNat 8 t.fmt.code]
    if bitOf w.toNat 0 then some w else none
  | _ => none

/-- Puts a token into an in-port's FIFO. -/
def enqueue (s : State) (n : NodeId) (l : Letter) (k : Fin 4) (f : Flit) : State :=
  settle (s.updIn n l k fun q => { q with fifo := q.fifo ++ [f] }) n l k

/-- A token enters an active plane's in-port: into the FIFO, to cv, or into the FIFO with the fault it raises as it
becomes the head (R22). -/
def accept (s : State) (n : NodeId) (l : Letter) (k : Fin 4) (f : Flight) : State :=
  let t := { f.tok with l := false }
  let w := (s.plane n l).inw[k]
  let s := s.updIn n l k fun q => { q with blk := blkLeft t q.blk }
  if accepts w t then enqueue s n l k { tok := t, from_ := f.from_ }
  else if iwSteer w && (cvEntry s n l t).isSome then
    s.updIn n l k fun q => { q with cv := some { f with tok := t, due := s.cycle + slow s n 4 } }
  else enqueue s n l k { tok := t, bad := some .steerUnrouted, from_ := f.from_ }

/-! ### Conversion at cv (R117) -/

/-- The rounding mode of a cv entry: `CRM`, or the steering plane's default (R117). -/
def cvRnd (w pcw : Word) : Rnd :=
  match field w.toNat 6 4 with
  | 0 => rndOfDrm (field pcw.toNat 2 0)
  | k => rndOfDrm k

/-- What cv makes of a token: the converted token, or the token with CONVERT_RANGE; a block token is never converted
(R117). DESIGN CHOICE (log 31): an entry with `CEN` 1 whose `TO` is X8 or X4, which R117 neither rejects nor gives a conversion,
makes lane 0's integer value the low bits of a payload of that format. -/
def cvConvert (w pcw : Word) (t : Token) : Token × Option Cause :=
  let g := Fmt.ofCode (field w.toNat 3 1)
  let r := cvRnd w pcw
  let sat := bitOf w.toNat 8
  let src := (lanesOf t.fmt t.payload).take (min t.fmt.lanes g.lanes)
  let out (xs : List Nat) : Token := { t with fmt := g, payload := packLanes g xs }
  if t.kind != .data then (t, none)
  else if t.fmt.isFlt && g.isFlt then (out (src.map fun x => (fCvt t.fmt g r (bitOf w.toNat 7) x).1), none)
  else if t.fmt.isInt && g.isFlt then (out (src.map fun x => (iToF g r (signedOf (laneW t.fmt) x)).1), none)
  else if t.fmt.isFlt && g.isInt then
    let q := src.map fun x => fToI (smin (laneW g)) (smax (laneW g)) r sat (fval t.fmt x)
    if q.any (·.isNone) then (t, some .convertRange) else (out (q.map fun v => codeOf (laneW g) (v.getD 0)), none)
  else
    let x := signedOf (laneW t.fmt) (src.headD 0)
    (out [codeOf (laneW g) (if sat && g == .i8 then clampI x (smin 8) (smax 8) else x)], none)

/-! ### The swap of a node's planes (R177, R258, R293) -/

/-- One token arrives: it uses a credit, and a full FIFO ends them all (R164). -/
def useCredit (q : InPort) : InPort := { q with credit := if fifoCap ≤ q.fifo.length then 0 else q.credit - 1 }

/-- Whether a token that is no PSN enters a window region elsewhere than at a logged in-port (R369; log 114). -/
def entersRegion (s : State) (n : NodeId) (l : Letter) (k : Fin 4) (f : Flight) : Bool :=
  let r := (s.inst (instOf s n l)).region
  f.tok.kind != .psn && r.contains (n, l) && !logged s n l k && !(f.from_.any fun e => r.contains e)

/-- A flight enters an active plane's in-port (R19, R22, R164, R369). -/
def arrive (s : State) (n : NodeId) (l : Letter) (k : Fin 4) (f : Flight) : State :=
  (accept (if entersRegion s n l k f then imprecise s (instOf s n l) else s) n l k f).updIn n l k useCredit

/-- A token held in a seam buffer slot enters its plane's FIFO, once the plane is active, an entry is free and its time has
come (R258). -/
def enterBuf (s : State) (n : NodeId) (l : Letter) (k : Fin 4) : State :=
  let q := s.inp n l k
  match (if q.fifo.length < fifoCap ∧ q.cv.isNone then q.buf else none) with
  | some f => if s.cycle < f.due then s else arrive (s.updIn n l k fun q => { q with buf := none }) n l k f
  | none => s

/-- The lanes of a plane that becomes active in a cycle: what waits there enters the FIFOs in the next cycle, and satisfies a
guard from the one after it (R258). -/
def wakeLanes (c : Nat) (p : Plane) : Plane :=
  let late (f : Flight) : Flight := { f with due := max f.due (c + 2) }
  { p with ins := Vector.ofFn fun k => { p.ins[k] with lane := p.ins[k].lane.map late, buf := p.ins[k].buf.map late } }

/-- Whether the first load of a newly active plane waits for the stores of the phase it ends (R293). -/
def hasPhases (n : NodeId) : Bool :=
  match kindOf n with
  | .mp => true
  | .cp => true
  | .mxa => true
  | _ => false

/-- A node's planes after a swap to letter `l` in cycle `c` (R113, R177, R258, R293, R328). -/
def swapTo (n : NodeId) (c : Nat) (l : Letter) (v : Node) : Node :=
  let old := v.plane l.other
  let new := v.plane l
  let v := v.setPlane l.other { old with active := false, out := true, pcw := pcwAct old.pcw false }
  let v := v.setPlane l { wakeLanes c new with active := true, basted := false, out := false, pcw := pcwAct new.pcw true
                                               phase := if hasPhases n then some c else none }
  { v with ca := 0, cb := 0, last := .b }

/-- The swap of R177 from the active plane `l` to the other, if that can be swapped in; the node issues again from the next
cycle. -/
def swapPlanes (s : State) (n : NodeId) (l : Letter) : State :=
  if (s.plane n l.other).ready then s.setNode n { swapTo n s.cycle l.other (s.node n) with lastIssue := some s.cycle } else s

/-! ### Edge scaler (R27, R63) -/

/-- The exponent j of a scale that is +2^j with j from −126 to 127 (R63). -/
def scalePow (c : Word) : Option Int :=
  match fval .f32 c.toNat with
  | .fin false m e =>
    let j : Int := flog2 m + e
    if m = 2 ^ flog2 m ∧ -126 ≤ j ∧ j ≤ 127 then some j else none
  | _ => none

/-- One exponent of a block header under a scale of 2^j (R63). -/
def scaleExp (j : Int) (e : Nat) : Nat :=
  if e = 0 ∨ e = 255 then e
  else if (e : Int) + j > 254 then 255 else if (e : Int) + j < 1 then 0 else ((e : Int) + j).toNat

/-- A token as an enabled edge scaler passes it, or the fault it raises (R63). DESIGN CHOICE (log 32): a BLKH whose `FMT` is
neither X8 nor X4, for which the table has no row, is treated as a block header is. -/
def edgeScale (r : Rnd) (c : Word) (t : Token) : Except Cause Token :=
  match t.kind with
  | .data =>
    if t.fmt.isFlt then
      .ok { t with s := true, payload := payOf t.fmt ((lanesOf t.fmt t.payload).map (scaleLane t.fmt r c)) }
    else .ok { t with s := true }
  | .blkh =>
    match scalePow c with
    | none => .error .blockExponent
    | some j =>
      let e0 := scaleExp j (field t.payload.toNat 7 0)
      let e1 := scaleExp j (field t.payload.toNat 15 8)
      .ok { t with s := true, payload := BitVec.ofNat 32 (t.payload.toNat / 65536 * 65536 + e1 * 256 + e0) }
  | _ => .ok t

end Sys2Proof.Machine
end

