-- ==== Sys2Proof/Machine/Loader.lean ====
section
/-! DEFINITION. Loading planes from images (R14, R39, R41, R124, R125, R167, R173 to R175, R254, R342). -/

namespace Sys2Proof.Machine
open Sys2Proof

/-- Fills a vector from a list of words. -/
def vecOf (n : Nat) (ws : List Word) (at_ : Nat) : Vector Word n := Vector.ofFn fun i => ws.getD (at_ + i.val) 0

/-- A loaded plane: post-load values, the image's words, then the control word; inactive (R14, R39, R108). -/
def loadedPlane (ws : List Word) (pid ver inst : Nat) : Plane :=
  { slots := Vector.ofFn fun i => (ws.getD (2 * i.val) 0, ws.getD (2 * i.val + 1) 0)
    inw := vecOf 4 ws 32, rw := vecOf 4 ws 36, sw := vecOf 4 ws 40, pcw := ws.getD 44 0 &&& 0x1FFFF, ext := ws.drop 45
    pid := pid, patVer := ver, inst := inst }

/-- The tokens that wait on the seam lanes of a plane survive its load, and its copies go on (R40, R218, R258, R335). -/
def keepLanes (old new : Plane) : Plane :=
  { new with ins := Vector.ofFn fun k => { new.ins[k] with lane := old.ins[k].lane, buf := old.ins[k].buf }, copies := old.copies }

/-- The words of a node in a panel record, of one `NPL`; a node without a record is empty (R124). -/
def recWords (r : PanelRec) (a : Nat) (npl : Bool) : List Word :=
  match r.nodes.find? fun e => e.npl == npl && e.node == .panel 0 a with
  | some e => e.words
  | none => []

/-- The panel record of an offset (R124, R173). -/
def panelRec (p : Pattern) (dx dy : Nat) : PanelRec :=
  (p.panels.find? fun r => r.dx == dx && r.dy == dy).getD { dx := dx, dy := dy }

/-- The in-ports that the route words of an image name with the letter of one `NPL` (R167): panel offset, node
address and in-port for a panel target. -/
def fedPorts (p : Pattern) (npl : Bool) : List (Nat × Nat × Nat × Nat) :=
  let ofEntry (ox oy : Int) (v : Nat) : List (Nat × Nat × Nat × Nat) :=
    if field v 31 30 = 0 then
      [((ox + signedOf 5 (field v 29 25)).toNat, (oy + signedOf 5 (field v 24 20)).toNat, field v 19 13, field v 12 11)] else []
  let ofWords (ox oy : Int) (tbl : List Word) (ws : List Word) (mxa : Bool) : List (Nat × Nat × Nat × Nat) :=
    ((List.range 4).map (fun j => ws.getD (36 + j) 0) ++ (if mxa then (ws.drop 45).take 16 else [])).flatMap fun w =>
      if rwWired w then (List.range (rwCount w)).flatMap fun j => ofEntry ox oy (tbl.getD (rwBase w + j) 0).toNat else []
  let panels := p.panels.flatMap fun r => r.nodes.flatMap fun e =>
    if e.npl == npl then ofWords r.dx r.dy r.routes e.words (e.node == .panel 0 70) else []
  let tree := p.tnodes.flatMap fun e =>
    if e.npl == npl then
      (List.range 4).flatMap fun j =>
        let w := e.words.getD (36 + j) 0
        if rwWired w then (List.range (rwCount w)).flatMap fun q =>
          let v := (e.words.getD (49 + rwBase w + q) 0).toNat
          if field v 31 30 = 0 then [(field v 29 25, field v 24 20, field v 19 13, field v 12 11)] else []
        else []
    else []
  panels ++ tree

/-- The in-ports of merge and port units that an image's route words name, by node and in-port (R167). A merge
entry names the ancestor switch of its sender; the origin panel's is taken. -/
def fedTree (p : Pattern) (npl : Bool) (origin : Nat) : List (NodeId × Nat) :=
  let ofEntry (from_ : Nat) (v : Nat) : List (NodeId × Nat) :=
    match field v 31 30 with
    | 1 => [(.mg (field v 29 27) (switchOf (field v 29 27) from_) (field v 26 26), field v 12 11)]
    | 2 => [(.pc (field v 29 26) (field v 24 23), field v 12 11)]
    | _ => []
  let panels := p.panels.flatMap fun r => r.nodes.flatMap fun e =>
    if e.npl == npl then
      let base := if e.node == .panel 0 70 then (e.words.drop 45).take 16 else []
      ((List.range 4).map (fun j => e.words.getD (36 + j) 0) ++ base).flatMap fun w =>
        if rwWired w then (List.range (rwCount w)).flatMap fun j =>
          ofEntry (origin + r.dx + 128 * r.dy) (r.routes.getD (rwBase w + j) 0).toNat else []
    else []
  let tree := p.tnodes.flatMap fun e =>
    if e.npl == npl then
      (List.range 4).flatMap fun j =>
        let w := e.words.getD (36 + j) 0
        if rwWired w then (List.range (rwCount w)).flatMap fun q => ofEntry origin (e.words.getD (49 + rwBase w + q) 0).toNat else []
    else []
  panels ++ tree

/-- Marks in-ports of a plane as fed. -/
def setFed (ks : List Nat) (p : Plane) : Plane :=
  { p with ins := Vector.ofFn fun k => { p.ins[k] with fed := p.ins[k].fed || ks.contains k.val } }

/-- A list of route words as a table of a letter (R112, R124). -/
def routeMap (ws : List Word) : Map Nat Word := (ws.zipIdx.filter fun e => e.1 != 0).map fun e => (e.2, e.1)

/-- Whether a micro-word lies in the sequence that a binding word binds (R118). -/
def inSeq (b : Word) (j : Nat) : Bool :=
  bitOf b.toNat 31 && decide (field b.toNat 8 0 ≤ j) && decide (j < field b.toNat 8 0 + field b.toNat 15 9)

/-- The bespoke store a load writes: the sequences that the context binds, zero elsewhere (R41). -/
def boundStore (x : Ctx) : Map Nat Word := x.micro.filter fun e => x.bound.any fun b => inSeq b.2 e.1

/-- A panel's side as a load writes it: routes, cv table and bespoke store, with what each bound sequence reads and writes
(R41, R192). -/
def loadSide (x : Ctx) (r : PanelRec) (npl : Bool) (v : PanelSide) : PanelSide :=
  { v with routes := routeMap r.routes ++ v.routes.filter fun e => decide (1008 ≤ e.1), cvt := vecOf 8 (recWords r 69 npl) 0
           micro := boundStore x, bind := x.bound, uses := x.bound.map fun e => (e.1, seqUses { v with micro := boundStore x } e.2) }

/-- Loads one node of a panel in a letter; `ACT` reads 0 where the load does not activate, and the deficit counters reset
(R39, R113, R173, R328). -/
def loadNode (s : State) (p a : Nat) (l : Letter) (ws : List Word) (fed : List Nat) (pid ver inst : Nat) (act basted : Bool) : State :=
  let n := NodeId.panel p a
  let v := s.node n
  let q := setFed fed (keepLanes (v.plane l) (loadedPlane ws pid ver inst))
  let on := act && bitOf q.pcw.toNat 16
  let q := if on then wakeLanes s.cycle q else q
  let q := { q with active := on, basted := basted, pcw := if act then q.pcw else pcwAct q.pcw false,
                    phase := if on && hasPhases n then some s.cycle else none }
  s.setNode n { v.setPlane l q with ca := 0, cb := 0, last := .b }

/-- Loads every node of a panel in a letter from a panel record (R39, R124, R173). -/
def loadNodes (s : State) (p : Nat) (l : Letter) (r : PanelRec) (npl : Bool) (fed : List (Nat × Nat)) (pid ver inst : Nat)
    (act basted : Bool) : List Nat → State
  | [] => s
  | a :: t =>
    let s := loadNode s p a l (if a = 69 then [] else recWords r a npl) ((fed.filter fun e => e.1 == a).map (·.2)) pid ver inst act basted
    loadNodes s p l r npl fed pid ver inst act basted t

/-- The loads of a panel's letter (R39, R173): the route table, the cv table, the bespoke store and every node. -/
def loadPanel (s : State) (p : Nat) (l : Letter) (pat : Pattern) (npl : Bool) (dx dy inst : Nat) (act basted : Bool) : State :=
  let r := panelRec pat dx dy
  let fed := ((fedPorts pat npl).filter fun e => e.1 == dx && e.2.1 == dy).map fun e => (e.2.2.1, e.2.2.2)
  let s := (cleanWords s (homeStore p l 0) 2048).updSide p l (loadSide (s.ctx (s.inst inst).ctx) r npl)
  loadNodes s p l r npl fed pat.pid pat.ver inst act basted (List.range 72)

/-- The time of a plane load (R175). -/
def loadTime (r : PanelRec) : Nat := 40 + (r.size + 31) / 32

/-! ### The pattern cache (R342) -/

/-- Whether a die's pattern cache holds an image. -/
def cached (s : State) (die c pat : Nat) : Bool := (mget s.pcache die).contains (c, pat)

/-- When an image is available in a die's cache: now, or after a fetch that starts if none is in progress (R342). -/
def fetchImage (s : State) (die c pat len : Nat) : State × Nat :=
  if cached s die c pat then
    ({ s with pcache := mset s.pcache die (((mget s.pcache die).filter fun e => e != (c, pat)) ++ [(c, pat)]) }, s.cycle)
  else
    match s.fetches.find? fun e => e.1 == die && e.2.1 == c && e.2.2.1 == pat with
    | some e => (s, e.2.2.2)
    | none =>
      let due := s.cycle + slowAt s (16 + die) (1024 + (len + 63) / 64)
      ({ s with fetches := s.fetches ++ [(die, c, pat, due)] }, due)

/-! ### PLOAD (R173, R174) -/

/-- A letter's hold says it is loading or basted with a pattern for an instance. -/
def holdsPat (h : Hold) (i pat : Nat) : Bool :=
  match h with
  | .basted j q => j == i && q == pat
  | .loading j q _ => j == i && q == pat
  | _ => false

/-- Whether the letter `l` of a panel holds a pattern basted on every node (R174, R180). -/
def bastedWith (s : State) (p : Nat) (l : Letter) (i pat : Nat) : Bool :=
  (match (s.side p l).hold with
    | .basted j q => j == i && q == pat
    | _ => false)
  && (s.side p l).ploads.isEmpty
  && (s.nodes.all fun e => match e.1 with
    | .panel q _ => q != p || (e.2.plane l).basted
    | _ => true)

/-- The instance and pattern that a letter holds basted (R174). -/
def bastedPat (s : State) (p : Nat) (l : Letter) : Option (Nat × Nat) :=
  match (s.side p l).hold with
  | .basted i q => if bastedWith s p l i q then some (i, q) else none
  | _ => none

/-- Starts the load of a panel's letter (R39, R173 to R175): the planes are inactive and not basted. -/
def startLoad (s : State) (p : Nat) (l : Letter) (i : Nat) (pat : Pattern) : State :=
  let v := s.inst i
  let dx := colOf p - colOf v.origin
  let dy := rowOf p - rowOf v.origin
  let r := panelRec pat dx dy
  let was := (bastedPat s p l).map fun e => (s.cycle, e.1, e.2)
  let (s, at_) := fetchImage s (dieOf v.origin) v.ctx pat.pid pat.len
  let due := at_ + slow s (.panel p 0) (loadTime r)
  let off (q : Plane) : Plane := { q with active := false, basted := false, out := false }
  let s := { s with nodes := mmap s.nodes fun n d => match n with
    | .panel q _ => if q = p then d.setPlane l (off (d.plane l)) else d
    | _ => d }
  let npl := l != v.letter
  s.updSide p l fun q => { q with hold := .loading i pat.pid due, ldrec := some pat, ldnpl := npl, was := was }

end Sys2Proof.Machine
end

