-- ==== Sys2Proof/Machine/Moves.lean ====
section
/-! DEFINITION. Moves, headers, identity and predicates, group 0x4 (R151 to R155). -/

namespace Sys2Proof.Machine
open Sys2Proof

/-- The result of an instruction that checks its operands and then delivers a token. -/
def tokRes (f : Fmt) (xs : List (Opd × OpCls)) (t : Token) : LaneRes :=
  match checkOpds f xs with
  | some e => { out := .error e }
  | none => { out := .ok t }

/-- A W32 result with `S` 0. -/
def w32Res (v : Word) : LaneRes := { out := .ok { payload := v } }

/-- MOV's result (R151): the token whole; `MOV.W32` takes any format, and BLKH. -/
def movRes (s : State) (f : Fmt) (a : Src) : LaneRes :=
  let x := readSrc s f a
  tokRes f [(x, if f == .w32 then .rawBlkh else .same)] x.tok

/-- MOV (R151). -/
def execMov (f : Fmt) (d : Dst) (a : Src) (s : State) : Res := .next (finish s 1 d [a] (movRes s f a))

/-- MOVI (R152). -/
def execMovi (d : Dst) (imm : BitVec 16) (s : State) : Res := .next (finish s 1 d [] (w32Res (imm.signExtend 32)))

/-- A destination register read as a source (R137). -/
def dstSrc : Dst → Src
  | .g k => .g k
  | .t k => .t k
  | _ => .zero

/-- MOVHI (R152). -/
def execMovhi (d : Dst) (imm : BitVec 16) (s : State) : Res :=
  let x := readSrc s .w32 (dstSrc d)
  .next (finish s 1 d [] (tokRes .w32 [(x, .raw)]
    { payload := BitVec.ofNat 32 (imm.toNat * 65536 + x.tok.payload.toNat % 65536) }))



/-- MKTAG (R153). -/
def execMktag (d : Dst) (a : Src) (hdr : BitVec 8) (s : State) : Res :=
  let x := readSrc s .w32 a
  .next (finish s 1 d [a] (tokRes .w32 [(x, .any)] (tokOfHdr hdr.toNat x.tok.payload)))

/-- GTAG (R153). -/
def execGtag (d : Dst) (a : Src) (s : State) : Res :=
  let x := readSrc s .w32 a
  .next (finish s 1 d [a] (tokRes .w32 [(x, .any)] { payload := BitVec.ofNat 32 (hdrOf x.tok) }))

/-! ### Predicates (R155) -/

/-- PLOG (R155). -/
def execPlog (pd pa pb : Fin 8) (lut : BitVec 4) (s : State) : Res :=
  .next (finishPreds s [(pd, bitOf lut.toNat (2 * (readPred s pa).toNat + (readPred s pb).toNat))])

/-- PMOV (R155). -/
def execPmov (pd pa : Fin 8) (s : State) : Res := .next (finishPreds s [(pd, readPred s pa)])

/-- PSETI (R155). -/
def execPseti (mask vals : BitVec 8) (s : State) : Res :=
  .next (finishPreds s (((List.finRange 8).filter fun k => bitOf mask.toNat k.val).map fun k => (k, bitOf vals.toNat k.val)))

/-! ### Identity (R154) -/

/-- The value WID gives for field n (R34). -/
def widOf (w : Work) (n : Nat) : Nat :=
  if n = 0 ∨ w.nf < n then 0
  else match w.fixed[n - 1]? with
    | some v => v
    | none => w.extents.getD (n - 1) 0

/-- WID (R34, R154). -/
def execWid (d : Dst) (n : BitVec 16) (s : State) : Res :=
  .next (finish s 1 d [] (w32Res (if idleCore s then 0 else BitVec.ofNat 32 (widOf (s.inst (actInst s)).work n.toNat))))

/-- CLK (R154). -/
def execClk (d : Dst) (half : BitVec 16) (s : State) : Res :=
  .next (finish s 1 d [] (w32Res (if idleCore s then 0 else BitVec.ofNat 32 (s.cycle / 2 ^ (32 * half.toNat)))))

/-- The node address of a node, 0 for one outside the panels (R154). -/
def nodeAddr : NodeId → Nat
  | .panel _ n => n
  | _ => 0

/-- What IID reads (R154). -/
def iidOf (s : State) (sel : Nat) : Nat :=
  let n := actNode s
  let p := panelOf s n (actLetter s)
  let o := (s.inst (actInst s)).origin
  match sel with
  | 0 => actInst s
  | 1 => (actLetter s).bit.toNat
  | 2 => p
  | 3 => (colOf p - colOf o) % 16 + (rowOf p - rowOf o) % 16 * 16
  | _ => nodeAddr n

/-- IID (R154). -/
def execIid (d : Dst) (sel : BitVec 16) (s : State) : Res :=
  .next (finish s 1 d [] (w32Res (if idleCore s then 0 else BitVec.ofNat 32 (iidOf s sel.toNat))))

end Sys2Proof.Machine
end

