-- ==== Sys2Proof/Machine/Signals.lean ====
section
/-! DEFINITION. Signals, queue control blocks and the completion of packets (R310 to R312, R316 to R322, R325, R327,
R334, R398, R418, R427): what a signal operation does at its home and to waiting barriers. -/

namespace Sys2Proof.Machine
open Sys2Proof

/-! ### Signals at their home (R214, R320, R427) -/

/-- Whether the far end of a page beyond the domain carries an atomic, by its `SEAT` bit (R408). -/
def carries (s : State) (p : Page) (bit : Option Nat) : Bool :=
  decide (p.loc ≠ 1) || (match bit with
    | some b => bitOf (mget s.ends (p.pa / 2 ^ 40)).1 (8 + b)
    | none => false)

/-- Reads a signal whole (R320). -/
def readSignal (s : State) (c va : Nat) : State × Except Cause Int :=
  match readCtx s c va 8 with
  | (s, .ok bs) => (s, .ok (signedOf 64 (leNat bs)))
  | (s, .error e) => (s, .error e)

/-- Changes a signal as one indivisible access; a page that does not translate or grant `r` leaves it (R427). -/
def putSignal (s : State) (c va : Nat) (r : Right) (f : Int → Int) : State × Option Cause :=
  let (s, p) := translate s c va
  match p, pageFault p r with
  | some q, none =>
    if r = .atomic ∧ carries s q (some 6) = false then (s, some .atomicPath)
    else if homeDown s (pageHome q va) then (s, some .eccUncorrectable)
    else
      let s := if homeD s c q then revive s c q else s
      let h := pageHome q va
      ({ s with mem := memPutDouble s.mem h (codeOf 64 (f (signedOf 64 (memDouble s.mem h)))) }, none)
  | _, some e => (s, some e)
  | none, none => (s, some .pageNotPresent)

/-! ### Priority inheritance (R327) -/

/-- The effective class of a queue (R327). -/
def queueCls (q : Queue) : Nat := max q.cls q.inh

/-- The effective class of a dispatched packet: its `PCL` and what it inherits, and for a barrier its queue's class
(R326, R327). -/
def runCls (s : State) (r : Run) : Nat :=
  let base := max r.pcl r.inh
  match r.kind, r.src with
  | .barrier _ _, .queue q _ => max base (queueCls (mget s.queues q))
  | _, _ => base

/-- A packet that has not finished its work. -/
def Run.live (r : Run) : Bool := !r.ended

/-- The signals a waiting barrier awaits. -/
def Run.awaits (r : Run) : List Nat :=
  match r.kind with
  | .barrier sigs _ => if r.ended then [] else sigs
  | _ => []

/-- The VA of ring slot `n` of a queue (R309). -/
def slotVa (q : Queue) (n : Nat) : Nat := q.base + 64 * (n % 2 ^ q.log2)

/-- The `CSIG` of a packet still in the ring, 0 when its slot does not translate (R313). -/
def queuedCsig (s : State) (q : Queue) (n : Nat) : Nat :=
  match (readCtx s q.ctx (slotVa q n + 8) 8).2 with
  | .ok bs => leNat bs % 2 ^ 57
  | .error _ => 0

/-- Raises the owners of signals awaited at class `c`: launches and spawned children, and queues that hold the packet
still queued (R327). -/
def raiseOwners (s : State) (ctx c : Nat) (sigs : List Nat) : State :=
  { s with
    runs := mmap s.runs fun _ r =>
      if r.ctx = ctx ∧ r.csig ≠ 0 ∧ sigs.contains r.csig = true ∧ r.ended = false then { r with inh := max r.inh c } else r
    queues := mmap s.queues fun _ q =>
      if q.ctx = ctx ∧ ((List.range (q.tail - q.disp)).any fun j =>
          let v := queuedCsig s q (q.disp + j)
          v != 0 && sigs.contains v) = true then { q with inh := max q.inh c } else q }

/-- One round of raises, by every waiting barrier. -/
def raiseRound (s : State) : List (Nat × Run) → State
  | [] => s
  | (k, _) :: t =>
    let r := mget s.runs k
    raiseRound (if r.awaits = [] then s else raiseOwners s r.ctx (runCls s r) r.awaits) t

/-- Rounds of raises, enough for a chain through every barrier. -/
def raiseRounds (s : State) : Nat → State
  | 0 => s
  | n + 1 => raiseRounds (raiseRound s s.runs) n

/-- The classes inherited now: those of waiting barriers, passed along chains, and into instances (R327). -/
def inheritAll (s : State) : State :=
  let s := { s with runs := mmap s.runs fun _ r => { r with inh := 0 }, queues := mmap s.queues fun _ q => { q with inh := 0 } }
  let s := raiseRounds s (s.runs.filter fun e => decide (e.2.awaits ≠ [])).length
  { s with insts := mmap s.insts fun _ v => { v with inhCls := (mget s.runs v.run).inh } }

/-! ### Queue control blocks (R310, R311, R322) -/

/-- Byte offsets of the words of a QCB (R310). -/
def writeQcbAt (s : State) (h : Nat) (q : Queue) (stale res : Bool) : State :=
  let w := memDouble s.mem (h + 8)
  let w := w % 2 ^ 10 + q.state * 2 ^ 10 + stale.toNat * 2 ^ 12 + res.toNat * 2 ^ 13 + q.errc * 2 ^ 14 + w / 2 ^ 20 * 2 ^ 20
  let m := memPutDouble s.mem (h + 8) w
  let m := memPutDouble m (h + 24) (q.prog % 2 ^ 64)
  let m := memPutDouble m (h + 32) (q.disp % 2 ^ 64)
  { s with mem := memPutDouble m (h + 40) (q.erridx % 2 ^ 64) }

/-- Writes a queue's pointers and state to its QCB; a write that does not translate is dropped with a notice
(R311, R427). -/
def writeQcb (s : State) (q : Queue) (stale res : Bool) : State :=
  let (s, p) := translate s q.ctx q.qcb
  match p, pageFault p .write with
  | some g, none =>
    let s := if homeD s q.ctx g then revive s q.ctx g else s
    if homeDown s (pageHome g q.qcb) then s else writeQcbAt s (pageHome g q.qcb) q stale res
  | _, _ => notify s 5 q.ctx

/-- Changes a queue and, while it is resident, writes its QCB (R311). -/
def updQueue (s : State) (k : Nat) (f : Queue → Queue) : State :=
  let q := f (mget s.queues k)
  let s := { s with queues := mset s.queues k q }
  if q.res then writeQcb s q false true else s

/-- A queue with an error recorded, unless an earlier one stands (R312, R319). -/
def qError (st : Nat) (c : Cause) (idx : Nat) (q : Queue) : Queue :=
  { q with state := st, errc := if q.errc = 0 then c.code else q.errc, erridx := if q.errc = 0 then idx else q.erridx }

/-- A fault of a packet aborts its queue; a stopped queue stays stopped (R319, R322). -/
def abortQueue (s : State) (src : RunSrc) (c : Cause) : State :=
  match src with
  | .queue k idx => updQueue s k fun q => qError (if q.state = 3 then 3 else 2) c idx q
  | .spawn _ => s

/-! ### Completion (R316, R318, R319, R325) -/

/-- `PROG` passes every completed index (R316). -/
def advanceProg (prog : Nat) (comp : List Nat) : Nat → Nat × List Nat
  | 0 => (prog, comp)
  | n + 1 => if comp.contains prog then advanceProg (prog + 1) (comp.filter fun k => !decide (k = prog)) n else (prog, comp)

/-- A queue's `PROG` passes what has completed. -/
def qAdvance (q : Queue) : Queue :=
  let (p, c) := advanceProg q.prog q.comp q.comp.length
  { q with prog := p, comp := c }

/-- A packet index of a queue has completed; `PROG` of a queue that is not resident advances only after its switch-in (R311,
R316). -/
def qComplete (idx : Nat) (q : Queue) : Queue :=
  let q := { q with comp := q.comp ++ [idx] }
  if q.res then qAdvance q else q

/-- Whether a packet is a spawned child (R325). -/
def Run.spawned (r : Run) : Bool :=
  match r.src with
  | .spawn _ => true
  | .queue _ _ => false

/-- A spawned child no longer counts (R325). -/
def spawnLess (s : State) (c : Nat) : State := s.updCtx c fun x => { x with spused := x.spused - 1 }

/-- A packet is complete: its queue's `PROG`, or its context's spawn count and error status; the count falls in the step of the
completion write, which a descheduled VF withholds (R316, R325, R398). -/
def packetDone (s : State) (id : Nat) : State :=
  let r := mget s.runs id
  let s := { s with runs := mdel s.runs id }
  let s := match r.src with
    | .queue k idx => updQueue s k (qComplete idx)
    | .spawn c =>
      let s := if descheduled s c && r.csig != 0 then s else spawnLess s c
      let s := s.updCtx c fun x => { x with sperr := match r.cause with
        | some e => e.code
        | none => x.sperr }
      if r.cause.isSome then notify s 4 c else s
  inheritAll s

/-- The work of a packet has ended: a packet without `CSIG` is complete, another waits for its completion add. -/
def endRun (s : State) (id : Nat) : State :=
  if (mget s.runs id).csig = 0 ∧ (mget s.runs id).cause = none then packetDone s id
  else { s with runs := mupd s.runs id fun r => { r with ended := true, seq := nextSeq s } }

/-- A packet faults (R319): its queue aborts at once, and its completion write is still to come. -/
def faultRun (s : State) (id : Nat) (c : Cause) : State :=
  let s := { s with runs := mupd s.runs id fun r => { r with cause := some c, ended := true, seq := nextSeq s } }
  abortQueue s (mget s.runs id).src c

/-! ### Barriers (R320, R321) -/

/-- A barrier's time is up (R321). -/
def Run.overdue (now : Nat) (r : Run) : Bool :=
  match r.kind with
  | .barrier _ (some d) => decide (d ≤ now)
  | _ => false

/-- A barrier's evaluation in progress reads its next signal: one below zero aborts, and with the last one read the condition is met
unless one was above zero; what asked for an evaluation meanwhile then gets its own (R320, R321, R427). -/
def readNext (s : State) (id : Nat) : State :=
  let r := mget s.runs id
  let left (vs : List Nat) (pos again : Bool) (s : State) : State :=
    { s with runs := mupd s.runs id fun r => { r with reads := vs, pos := pos, again := again } }
  if r.awaits = [] ∨ r.overdue s.cycle = true then s
  else match r.reads with
    | [] => s
    | v :: t =>
      match readSignal s r.ctx v with
      | (s, .error e) => faultRun s id e
      | (s, .ok x) =>
        let pos := r.pos || decide (x ≠ 0)
        if x < 0 then faultRun s id .signalNegative
        else if !t.isEmpty then left t pos r.again s
        else if pos then left (if r.again then r.awaits else []) false false s
        else endRun s id

/-- An evaluation of a barrier begins, or follows the one in progress; its reads are not simultaneous (R321). -/
def evalBarrier (s : State) (id : Nat) : State :=
  let r := mget s.runs id
  if r.reads.isEmpty then readNext { s with runs := mupd s.runs id fun r => { r with reads := r.awaits, pos := false, again := false } } id
  else { s with runs := mupd s.runs id fun r => { r with again := true } }

/-- The evaluations in progress go on. -/
def readAll (s : State) : State := inheritAll (s.runs.foldl (fun s e => readNext s e.1) s)

/-- Evaluates a list of barriers. -/
def evalList (s : State) : List (Nat × Run) → State
  | [] => s
  | (k, _) :: t => evalList (evalBarrier s k) t

/-- Every waiting barrier of a context that names a signal is evaluated (R320). -/
def evalSignal (s : State) (c va : Nat) : State :=
  inheritAll (evalList s (s.runs.filter fun e => decide (e.2.ctx = c) && e.2.awaits.contains va))

/-- Every waiting barrier is evaluated (R320). -/
def evalAll (s : State) : State := inheritAll (evalList s s.runs)

/-! ### Signal operations (R214, R318, R319, R398) -/

/-- A signal operation of a unit that may be refused: the change, then the barriers (R320). -/
def signalOp (s : State) (c va : Nat) (r : Right) (f : Int → Int) : State × Option Cause :=
  match putSignal s c va r f with
  | (s, some e) => (s, some e)
  | (s, none) => (evalSignal s c va, none)

/-- A signal write of the queue unit, dropped with a notice when it does not translate (R427). -/
def unitSignal (s : State) (c va : Nat) (r : Right) (f : Int → Int) : State :=
  match signalOp s c va r f with
  | (s, some _) => notify s 5 c
  | (s, none) => s

/-- How many events a VF has withheld (R387, R398). -/
def heldCount (s : State) (c : Nat) : Nat := (s.vf (s.ctx c).vf).withheld.length

/-- An event of a descheduled VF can still be withheld; other VFs perform theirs (R398). -/
def eventFree (s : State) (c : Nat) : Bool := !descheduled s c || decide (heldCount s c < 1024)

/-- Withholds an event of a context's VF (R398). -/
def withhold (s : State) (c : Nat) (w : Withheld) : State :=
  { s with vfs := mupd s.vfs (s.ctx c).vf fun v => { v with withheld := v.withheld ++ [w] } }

/-- Adds to a signal for the queue unit, a copy or a shootdown: withheld while its VF is descheduled (R398). -/
def addSignal (s : State) (c va : Nat) (v : Int) : State :=
  if descheduled s c then withhold s c (.add c va v false) else unitSignal s c va .atomic (· + v)

/-- Writes −1 to a signal, replacing its value (R319, R334), withheld while its VF is descheduled (R398). -/
def minusOne (s : State) (c va : Nat) : State :=
  if descheduled s c then withhold s c (.minus1 c va false) else unitSignal s c va .write fun _ => -1

/-- The completion write of a packet's `CSIG` (R318, R319). -/
def csigWrite (s : State) (r : Run) : State :=
  if r.csig = 0 then s
  else if descheduled s r.ctx then
    withhold s r.ctx (if r.cause.isSome then .minus1 r.ctx r.csig r.spawned else .add r.ctx r.csig (-1) r.spawned)
  else match r.cause with
    | none => addSignal s r.ctx r.csig (-1)
    | some _ => minusOne s r.ctx r.csig

end Sys2Proof.Machine
end

