-- ==== Sys2Proof/Machine/Access.lean ====
section
/-! DEFINITION. Accesses to memory: windows and their checks (R36, R198 to R201), latch files and demand
translation (R277, R281, R283), peers (R405, R406), the order in which accesses perform (R204, R205, R210,
R212, R213, R293, R303), what an access does at its home (R206, R214, R216, R226, R287), and commit windows
(R212). -/

namespace Sys2Proof.Machine
open Sys2Proof

/-! ### Windows (R35, R36, R198 to R201) -/

/-- A window of an instance; one at or beyond `NWIN` is not described (R36). -/
def winOf (s : State) (i w : Nat) : Window := (s.inst i).wins.getD w {}

/-- Whether a window grants a right; a handle window takes no store and no atomic (R200). -/
def winRight (x : Window) : Right → Bool
  | .read => x.rd
  | .write => x.wr && !x.hv
  | .atomic => x.at_ && !x.hv

/-- Steps 1 and 2 of R36. -/
def winAdmits (x : Window) (sps : List Space) (r : Right) : Bool := x.described && sps.contains x.space && winRight x r

/-- The checks of R36 in order, for an access of `size` bytes aligned to `al`. -/
def winExtent (x : Window) (sps : List Space) (r : Right) (al size off : Nat) : Option Cause :=
  if !winAdmits x sps r then some .windowAccess
  else if off % al ≠ 0 then some .alignment
  else if x.len < off + size then some .windowBounds
  else none

/-- The checks of R36 for an access of one size. -/
def winCheck (x : Window) (sps : List Space) (r : Right) (size off : Nat) : Option Cause := winExtent x sps r size size off

/-- The physical scratchpad byte of a byte address under a swizzle (R201). -/
def swizzle (swz a : Nat) : Nat :=
  let w := a / 4
  let l := w / 32
  let b0 := w % 32
  let b := match swz with
    | 1 => b0 ^^^ (l % 32)
    | 2 => b0 ^^^ (l % 16)
    | _ => b0
  (l * 32 + b) * 4 + a % 4

/-- The panel that an exchange window of a panel names (R199). -/
def exchTarget (p : Nat) (x : Window) : Nat := panelAt p x.dx x.dy

/-- Whether a panel lies in an instance's gusset. -/
def inGusset (v : Inst) (p : Nat) : Bool :=
  decide (colOf v.origin ≤ colOf p) && decide (colOf p < colOf v.origin + v.pat.fw)
    && decide (rowOf v.origin ≤ rowOf p) && decide (rowOf p < rowOf v.origin + v.pat.fh)

/-- A panel's number in an instance's gusset, under which its exchange counts stand (R210). -/
def panelKey (v : Inst) (p : Nat) : Nat := (rowOf p - rowOf v.origin) * v.pat.fw + (colOf p - colOf v.origin)

/-- The panel at the offset of an exchange window lies on the mesh and in the gusset (R210). -/
def exchInside (v : Inst) (p : Nat) (x : Window) : Bool :=
  decide (0 ≤ (colOf p : Int) + x.dx) && decide (0 ≤ (rowOf p : Int) + x.dy) && decide ((colOf p : Int) + x.dx < 128)
    && inGusset v (exchTarget p x)

/-- The home of a byte of a physical space or of a peer's memory (R37, R201, R210, R268, R291); the front exchange bank is
the panel's at the moment. -/
def physHome (s : State) (p : Nat) (x : Window) (off : Nat) : Nat :=
  match x.space with
  | .scratch => homeScratch p (swizzle x.swz (x.base + off))
  | .slice => homeSlice x.level x.bank (x.base + off)
  | .exchange => homeExch p (s.panel p).front off
  | .peer => homePeer x.peer (x.base + off)
  | .device => 0

/-- A peer window that names this device is served by its own tiles (R405). -/
def ownPeer (s : State) (x : Window) : Bool := x.space == .peer && decide (x.peer = s.dev.devnum)

/-- Whether an access through a window is translated here (R37, R405). -/
def translated (s : State) (x : Window) : Bool := x.space == .device || ownPeer s x

/-- The route checks of a peer access (R405). -/
def peerCheck (s : State) (x : Window) : Option Cause :=
  if x.space != .peer then none
  else if 9216 ≤ x.peer ∨ s.dev.domen = false then some .peerUnreachable
  else if x.peer = s.dev.devnum then none
  else if (mget s.peers x.peer).2 = false ∨ peerLinks s x.peer = [] then some .peerUnreachable
  else none

/-- Cycles from issue to write-back of a load (R208). -/
def spaceLat (x : Window) : Nat :=
  match x.space with
  | .slice => 6 + 4 * x.level
  | .device => 320
  | .peer => 1800
  | _ => 3

/-! ### Latch files (R277, R281, R283) -/

/-- The latch file of a window at a node's plane. -/
def latchFile (s : State) (n : NodeId) (l : Letter) (w : Nat) : LatchFile := mget (s.plane n l).latch w

/-- Changes a latch file. -/
def updLatch (s : State) (n : NodeId) (l : Letter) (w : Nat) (f : LatchFile → LatchFile) : State :=
  s.updPlane n l fun p => { p with latch := mupd p.latch w f }

/-- The latched page that holds a VA. -/
def latched (f : LatchFile) (va : Nat) : Option Page :=
  f.pages.find? fun p => !p.absent && decide (va / p.size = p.vpn * 65536 / p.size)

/-- The latched page that a context's access uses: none while its translation is not enabled (R275). -/
def latchedIn (s : State) (c : Nat) (f : LatchFile) (va : Nat) : Option Page := if canWalk s c va then latched f va else none

/-- The first byte of the page that a latched entry stands for. -/
def Page.start (p : Page) : Nat := p.vpn * 65536 / p.size * p.size

/-- The first granule of the page that holds a granule, as far as the file knows its size. -/
def pageVpn (f : LatchFile) (v : Nat) : Nat :=
  match latched f (v * 65536) with
  | some p => p.start / 65536
  | none => v

/-- The last two distinct pages of a window, older first. -/
def recentPages (f : LatchFile) : List Nat := (f.recent.map (pageVpn f)).dedup

/-- The direction of a window's last two distinct pages: upward unless the last lies below (R277). -/
def upward (f : LatchFile) : Bool :=
  match recentPages f with
  | [a, b] => decide (a ≤ b)
  | _ => true

/-- Records that an access goes to a page (R277, R283): the last two distinct pages, and the low-water mark, which falls
to the window's base when the page lies below it. -/
def noteAccess (base mark vpn : Nat) (f : LatchFile) : LatchFile :=
  { f with
    recent := match f.recent with
      | [] => [vpn]
      | [a] => if pageVpn f a = pageVpn f vpn then [a] else [a, vpn]
      | _ :: b :: _ => if pageVpn f b = pageVpn f vpn then f.recent else [b, vpn]
    low := if vpn * 65536 < mark then some base else f.low }

/-- Removes from eight latched pages the one furthest behind in the direction of travel (R277). -/
def evictLatch (f : LatchFile) : List Page :=
  if f.pages.length < 8 then f.pages
  else
    let vs := f.pages.map (·.vpn)
    let out := if upward f then vs.foldl min (vs.headD 0) else vs.foldl max 0
    f.pages.filter fun p => !decide (p.vpn = out)

/-- Latches a page, in place of an earlier entry for it (R277). -/
def addLatch (p : Page) (f : LatchFile) : LatchFile :=
  let g := { f with pages := f.pages.filter fun q => !decide (q.vpn = p.vpn) }
  { g with pages := evictLatch g ++ [p] }

/-- The addresses that the next chunk of a copy reads or writes through a window (R217, R218). -/
def copyVas (w : Nat) (j : CopyJob) : List Nat :=
  let r := j.pos / j.clen
  let b := j.pos % j.clen
  (if j.swn = w then [j.swin.base + j.soff + r * j.sstr + b] else []) ++ (if j.dwn = w then [j.dwin.base + j.doff + r * j.dstr + b] else [])

/-- The copies of a plane that hold an access outstanding: one that a fault has stopped (R281). -/
def stoppedCopies (p : Plane) : List CopyJob :=
  match p.stop with
  | .stall _ => p.copies.take 1
  | _ => []

/-- The pages of a window's outstanding accesses at a plane, a stopped copy's among them. -/
def windowVas (s : State) (n : NodeId) (l : Letter) (w : Nat) : List Nat :=
  ((s.accs.filter fun e => e.2.node == n && e.2.letter == l && decide (e.2.win = w)).map (·.2.va)
    ++ (stoppedCopies (s.plane n l)).flatMap (copyVas w)).map fun a => a / 65536 * 65536

/-- The low-water mark a latch file publishes, none while it holds and awaits nothing (R283). -/
def lowWater (s : State) (n : NodeId) (l : Letter) (w : Nat) : Option Nat :=
  let f := latchFile s n l w
  match f.low with
  | some v => some v
  | none =>
    match (f.pages.filter fun p => !p.absent).map (·.start) ++ windowVas s n l w with
    | [] => none
    | v :: t => some (t.foldl min v)

/-- The entry of a latch file that holds a granule, an absent one too. -/
def entryAt (f : LatchFile) (v : Nat) : Option Page := f.pages.find? fun p => decide (v * 65536 / p.size = p.vpn * 65536 / p.size)

/-- The granule after the page that holds a granule, or before it. -/
def pastPage (f : LatchFile) (up : Bool) (v : Nat) : Option Nat :=
  let (a, k) := match entryAt f v with
    | some p => (p.start / 65536, p.size / 65536)
    | none => (v, 1)
  if up then some (a + k) else if 0 < a then some (a - 1) else none

/-- The first granule that no entry holds, from one on in a direction. -/
def freeGranule (f : LatchFile) (up : Bool) : Nat → Nat → Option Nat
  | 0, _ => none
  | fuel + 1, v =>
    match entryAt f v with
    | none => some v
    | some _ => match pastPage f up v with
      | some u => freeGranule f up fuel u
      | none => none

/-- The entries of a latch file beyond the page of a granule, in a direction. -/
def pagesBeyond (f : LatchFile) (up : Bool) (v : Nat) : List Page :=
  f.pages.filter fun p => if up then decide (pageVpn f v < p.start / 65536) else decide (p.start / 65536 < pageVpn f v)

/-- The next page that run-ahead asks for within a range of VAs: the first one that is not latched, beyond the current page in the
direction of the last two distinct ones, when fewer than two beyond it are latched (R277). -/
def aheadPage (base len : Nat) (f : LatchFile) (vpn : Nat) : Option Nat :=
  let up := upward f
  match recentPages f with
  | [_, _] =>
    if 2 ≤ (pagesBeyond f up vpn).length then none
    else ((pastPage f up vpn).bind (freeGranule f up 9)).filter fun v =>
      decide (base / 65536 ≤ v) && decide (v * 65536 < base + len)
  | _ => none

/-- What a run-ahead request latches, which never faults: an answer that it could not read is not kept (R277; log 12: answered in
the same step). -/
def aheadLatch (v : Nat) (p : Option Page) (f : LatchFile) : LatchFile :=
  match p with
  | none => addLatch { vpn := v, absent := true } f
  | some q => if q.bad then f else addLatch { q with vpn := v } f

/-- A run-ahead request of a window and its answer (R277). -/
def runAhead (s : State) (n : NodeId) (l : Letter) (w c : Nat) (x : Window) (vpn : Nat) : State :=
  match aheadPage x.base x.len (latchFile s n l w) vpn with
  | none => s
  | some v =>
    let (s, p) := translate s c (v * 65536)
    updLatch s n l w (aheadLatch v p)

/-- An access of a port goes to a page of a window (R277, R283). -/
def notePage (s : State) (n : NodeId) (l : Letter) (w : Nat) (x : Window) (va : Nat) : State :=
  updLatch s n l w (noteAccess x.base ((lowWater s n l w).getD 0) (va / 65536))

/-- The translation of an access at a port: its latch file, else the home tile, whose page is then latched; then the
right (R274, R275, R277). -/
def portXlate (s : State) (n : NodeId) (l : Letter) (w c va : Nat) (r : Right) : State × Except Cause Page :=
  match latchedIn s c (latchFile s n l w) va with
  | some p => (s, match pageFault (some p) r with
    | some e => .error e
    | none => .ok p)
  | none =>
    let (s, p) := translate s c va
    match p with
    | none => (s, .error .pageNotPresent)
    | some q =>
      let s := if q.bad then s else updLatch s n l w (addLatch { q with vpn := field va 56 16 })
      (s, match pageFault (some q) r with
        | some e => .error e
        | none => .ok q)

/-! ### Faults of operations in flight -/

/-- The trap of an operation in flight (R370). -/
def opTrap (s : State) (n : NodeId) (l : Letter) (o : Op) (c : Cause) : Trap :=
  { cause := c, node := n, letter := l, inst := instOf s n l, slot := o.slot, fire := o.fire, tw := o.tw, aw := o.aw,
    ops := o.ops, op := o.id, done := o.done, px := if tPE o.tw && kindOf n == .stitch then some ((tPX o.tw).val, tPVAL o.tw) else none }

/-- Removes an operation that faulted on its token `k`: its marks revert, its reservation is gone, and what it issued for
the tokens before stands (R17, R135, R209). -/
def abandonOp (s : State) (n : NodeId) (l : Letter) (id k : Nat) : State :=
  let s := s.updPlane n l fun p =>
    { p with ops := p.ops.filter fun o => !decide (o.id = id)
             outs := Vector.ofFn fun q => { p.outs[q] with
               res := if p.outs[q].res = some id then none else p.outs[q].res
               retq := p.outs[q].retq.filter fun e => decide (e.op ≠ id) || decide (e.k < k) }
             mp := { p.mp with feed := if p.mp.feed = some id then none else p.mp.feed } }
  { s with accs := s.accs.filter fun e =>
      !(decide (e.2.node = n) && decide (e.2.letter = l) && decide (e.2.op = id)) || decide (e.2.k < k) }

/-- An operation in flight faults on its token `done` (R135, R362): the firing is abandoned, and tokens before that one
stand. -/
def opFault (s : State) (n : NodeId) (l : Letter) (id : Nat) (c : Cause) : State :=
  match s.op? n l id with
  | none => s
  | some o => takeTrap (abandonOp s n l id o.done) (opTrap s n l o c)

/-- The `TACC` kind of an access (R370). -/
def accKind (a : AccAct) : Nat :=
  match a with
  | .load => 0
  | .bred _ _ => 0
  | .store _ => 1
  | .dsc => 1
  | .lt _ _ _ => 1
  | _ => 2

/-- The id under which a trap of an instance stands: the flag's trap, or the next (R364). -/
def trapIdOf (s : State) (i : Nat) : Nat := if (s.inst i).fault then (s.inst i).trap else s.ids

/-- A stall fault of an access over a VA: the node stops and keeps the access and everything behind it (R281, R413). -/
def stallAccess (s : State) (id : Nat) (a : Access) (c : Cause) (va : Nat) : State :=
  match s.op? a.node a.letter a.op with
  | none => { s with accs := mdel s.accs id }
  | some o =>
    let t := { opTrap s a.node a.letter o c with va := va, acc := accKind a.act + a.win * 8, done := a.k }
    let tid := trapIdOf s t.inst
    takeTrap { s with accs := mset s.accs id { a with st := .stalled tid } } t

/-! ### Issue of accesses -/

/-- A load-class act (R291). -/
def loadClass (a : AccAct) : Bool :=
  match a with
  | .store _ => false
  | .bupd _ _ => false
  | .dsc => false
  | _ => true

/-- A store-class act (R291). -/
def storeClass (a : AccAct) : Bool :=
  match a with
  | .load => false
  | .bred _ _ => false
  | _ => true

/-- The right of the page table an act needs (R200, R274). -/
def actRight (a : AccAct) : Right :=
  match a with
  | .load => .read
  | .bred _ _ => .read
  | .store _ => .write
  | .dsc => .write
  | _ => .atomic

/-- The XBARs of a panel's nt that have issued in this cycle, which an STX of the cycle does not count yet: it belongs before them
(R210, R211). -/
def xbarsNow (s : State) (p : Nat) : Nat :=
  let here (l : Letter) : Nat := ((s.plane (.panel p 71) l).ops.filter fun o => o.kind == .xbar && decide (o.issued = s.cycle)).length
  here .a + here .b

/-- The access of an act at a window's offset, before its translation. -/
def mkAccess (s : State) (n : NodeId) (l : Letter) (op w : Nat) (x : Window) (act : AccAct) (f : Fmt) (off k : Nat)
    (acq rel : Bool) : Access :=
  let i := instOf s n l
  let p := panelOf s n l
  { node := n, letter := l, op := op, k := k, inst := i, ctx := (s.inst i).ctx, space := x.space, win := w, act := act,
    fmt := f, va := x.base + off, home := physHome s p x off, lset := x.lset, due := s.cycle + slow s n (spaceLat x),
    acq := acq, rel := rel, ord := x.ord, peer := x.peer, xn := mget (s.inst i).xn (panelKey (s.inst i) p) - xbarsNow s p, run := (s.inst i).run,
    issued := s.cycle, opAt := ((s.op? n l op).map (·.issued)).getD s.cycle
    link := if x.space == .peer && !ownPeer s x then peerLink s x.peer (x.base + off) else none
    st := if translated s x then .trans else .ready }

/-- An earlier access of a port's window waits for its translation or is stalled, so that a later one waits (R277, R281). -/
def windowWaits (s : State) (a : Access) : Bool :=
  s.accs.any fun e => e.2.node == a.node && e.2.letter == a.letter && decide (e.2.win = a.win) && (match e.2.st with
    | .trans => true
    | .stalled _ => true
    | _ => false)

/-- The link of the system-scope path to a home, if it lies there: that of its endpoint (R408). -/
def farLink (s : State) (h : Nat) : Option Nat :=
  if isFar h then
    let e := (mget s.ends ((h - 2 ^ 60) / 2 ^ 40)).1
    some (4 * field e 4 1 + field e 6 5)
  else none

/-- An access whose page is known goes to its home (R273, R408). -/
def toHome (s : State) (p : Page) (a : Access) : Access :=
  { a with st := .ready, home := pageHome p a.va, link := farLink s (pageHome p a.va) }

/-- A translated access whose page is latched with its right waits for nothing but the earlier ones of its window (R277). -/
def tryLatch (s : State) (a : Access) : Access :=
  if a.st = .trans ∧ windowWaits s a = false then
    match latchedIn s a.ctx (latchFile s a.node a.letter a.win) a.va with
    | some p => if p.grants (actRight a.act) then toHome s p a else a
    | none => a
  else a

/-- Adds an access to those outstanding, in issue order. -/
def pushAccess (s : State) (x : Window) (a : Access) : State :=
  let vpn := a.va / 65536
  if a.st = .trans then
    let s := notePage s a.node a.letter a.win x a.va
    let b := tryLatch s a
    let s := { s.fresh with accs := s.accs ++ [(s.ids, b)] }
    if b.st = .ready then runAhead s a.node a.letter a.win a.ctx x vpn else s
  else { s.fresh with accs := s.accs ++ [(s.ids, a)] }

/-- Adds a list of accesses. -/
def pushAll (s : State) (x : Window) : List Access → State
  | [] => s
  | a :: t => pushAll (pushAccess s x a) x t

/-! ### When an access performs -/

/-- The bytes that an act names from its address on. -/
def actBytes (a : AccAct) : Nat :=
  match a with
  | .sigw _ => 8
  | .bred f n => n * laneW f / 8
  | .dsc => 65536
  | .lt _ _ _ => 128
  | _ => 4

/-- Whether two accesses of one node go to the same bytes (R205). -/
def sameBytes (a b : Access) : Bool :=
  let w (x : Access) : Nat := actBytes x.act
  a.space == b.space && a.layered.isNone && b.layered.isNone && (match a.space with
    | .device => decide (a.ctx = b.ctx) && decide (a.va < b.va + w b) && decide (b.va < a.va + w a)
    | .peer => decide (a.peer = b.peer) && decide (a.va < b.va + w b) && decide (b.va < a.va + w a)
    | .exchange => decide (a.home = b.home) && decide (a.va = b.va)
    | _ => decide (a.home < b.home + w b) && decide (b.home < a.home + w a))

/-- Whether an access goes to bytes of a buffered store (R205, R212). -/
def sameWord (a : Access) (b : BufStore) : Bool :=
  a.space == b.space && a.layered.isNone && (match a.space with
    | .device => decide (a.ctx = b.ctx) && decide (a.va < b.va + 4) && decide (b.va < a.va + actBytes a.act)
    | .peer => decide (a.peer = b.peer) && decide (a.va < b.va + 4) && decide (b.va < a.va + actBytes a.act)
    | _ => decide (a.home < b.home + 4) && decide (b.home < a.home + actBytes a.act))

/-- The buffered stores of a node, older plane's first. -/
def nodeBuf (s : State) (n : NodeId) : List BufStore := (s.plane n .a).mp.buf ++ (s.plane n .b).mp.buf

/-- The copies of a node. -/
def nodeCopies (s : State) (n : NodeId) : List CopyJob := (s.plane n .a).copies ++ (s.plane n .b).copies

/-- Fences in flight at a node, by operation (R213). -/
def fencesBefore (s : State) (n : NodeId) (op : Nat) : Bool :=
  let isFence (o : Op) : Bool := match o.kind with
    | .fence _ => decide (o.id < op)
    | _ => false
  (s.plane n .a).ops.any isFence || (s.plane n .b).ops.any isFence

/-- Whether two accesses travel on one link to one peer, which delivers and serves them in order (R406). -/
def sameLink (a b : Access) : Bool :=
  a.space == .peer && b.space == .peer && decide (a.peer = b.peer) && a.link.isSome && a.link == b.link && !isFar a.home

/-- Whether an earlier access of the same node holds this one: stalled before it, of the same operation, same bytes,
`ORD`, `.REL`, `.ACQ`, on the same link to a peer, or stores that one port commits (R204, R205, R209, R212, R281, R406). -/
def heldBy (a b : Access) : Bool :=
  (match b.st with
    | .stalled _ => true
    | _ => false)
  || decide (a.op = b.op) || sameBytes a b || (a.ord && decide (a.win = b.win) && decide (a.inst = b.inst)) || a.rel || b.acq
  || sameLink a b || (a.commit && b.commit)

/-- Whether an earlier buffered store of the same node holds an access: `.REL`, `.ACQ`, `ORD`, and for any but a load, which takes
its value from the buffer, the same bytes (R204, R205, R212). -/
def heldByBuf (a : Access) (b : BufStore) : Bool :=
  a.rel || b.acq || (a.ord && decide (a.win = b.win) && decide (a.inst = b.inst)) || (a.act != .load && sameWord a b)

/-- Whether an access waits behind those of a failed link to its peer that are re-sent: in their original order, and after all of them
if it came after the failure (R412). -/
def heldByResent (s : State) (id : Nat) (a : Access) : Bool :=
  a.space == .peer && s.accs.any fun e => match e.2.resent with
    | some m => decide (e.2.peer = a.peer) && decide (e.1 ≠ id) && (decide (m ≤ id) || (a.resent.isSome && decide (e.1 < id)))
    | none => false

/-- The address, as a window of a panel and a context gives it, of the bytes that an access names; none if they lie
elsewhere. -/
def addrIn (s : State) (c p : Nat) (x : Window) (a : Access) : Option Nat :=
  if a.layered.isSome then none
  else if inDevice s x.space x.peer && inDevice s a.space a.peer then (if a.ctx = c then some a.va else none)
  else if a.space != x.space then none
  else match x.space with
    | .scratch =>
      let lo := homeScratch p 0
      if lo ≤ a.home ∧ a.home < lo + 2 ^ 17 then some (swizzle x.swz (a.home - lo)) else none
    | .slice =>
      let lo := homeSlice x.level x.bank 0
      if lo ≤ a.home ∧ a.home < lo + 2 ^ 28 then some (a.home - lo) else none
    | .peer => if a.peer = x.peer then some a.va else none
    | _ => none

/-- Whether bytes lie in a row of a copy's side (R217). -/
def inRows (j : CopyJob) (lo str va n : Nat) : Bool :=
  (List.range j.rows).any fun r => decide (lo + r * str < va + n) && decide (va < lo + r * str + j.clen)

/-- The ranges of bytes that a load through a handle window reads: the word's base, of a low-rank layer its row and columns, of a
sparse one its list (R68, R223). -/
def layerReads (sn : Snapshot) (off : Nat) : List (Nat × Nat) :=
  let sz := laneW sn.efmt / 8
  let i := off / sn.rstride
  let j := off % sn.rstride / sz
  (sn.base + off, 4) :: sn.layers.flatMap fun y =>
    let v := laneW y.vfmt / 8
    if y.low then (y.ava + i * y.rank * v, y.rank * v) :: (List.range y.rank).map fun t => (y.bva + (t * sn.cols + j) * v, 4 / sz * v)
    else [(y.ava, 4 * y.nnz), (y.bva, y.nnz * v)]

/-- Whether an access goes to bytes that a copy of a panel writes (R218, R219, R303). -/
def copyWrites (s : State) (p : Nat) (j : CopyJob) (a : Access) : Bool :=
  match a.layered with
  | some sn =>
    inDevice s j.dwin.space j.dwin.peer && decide (a.ctx = j.ctx)
      && (layerReads sn (a.va - (winOf s a.inst a.win).base)).any fun r => inRows j (j.dwin.base + j.doff) j.dstr r.1 r.2
  | none =>
    match addrIn s j.ctx p j.dwin a with
    | some v => inRows j (j.dwin.base + j.doff) j.dstr v (actBytes a.act)
    | none => false

/-- Whether an access goes to bytes that a copy of a panel reads (R218). -/
def copyReads (s : State) (p : Nat) (j : CopyJob) (a : Access) : Bool :=
  match addrIn s j.ctx p j.swin a with
  | some v => inRows j (j.swin.base + j.soff) j.sstr v (actBytes a.act)
  | none => false

/-- Whether a copy and an access of one node are kept in issue order: the same bytes, or `ORD` of a window that both name
(R205, R291). -/
def copyOrdered (s : State) (p : Nat) (j : CopyJob) (a : Access) : Bool :=
  copyWrites s p j a || (storeClass a.act && copyReads s p j a)
    || (decide (a.inst = j.inst) && a.ord && (decide (a.win = j.swn) || decide (a.win = j.dwn)))

/-- Whether an earlier copy of the same node holds an access (R204, R205). -/
def heldByCopy (s : State) (a : Access) (j : CopyJob) : Bool :=
  j.acq || a.rel || copyOrdered s (panelOf s a.node a.letter) j a

/-- A store-class access that a panel's node issued under the letter `old` up to cycle `ph` has still to perform (R293):
outstanding, buffered, of a copy, or a later token of an STV or SCT. -/
def phaseStores (s : State) (p : Nat) (old : Letter) (ph : Nat) : Bool :=
  let here (n : NodeId) : Bool := match n with
    | .panel q _ => q == p
    | _ => false
  (s.accs.any fun e => here e.2.node && e.2.letter == old && storeClass e.2.act && decide (e.2.opAt ≤ ph))
    || s.nodes.any fun e => here e.1 &&
      (let q := e.2.plane old
       (q.mp.buf.any fun b => decide (b.opAt ≤ ph)) || (q.mp.held.any fun b => decide (b.opAt ≤ ph))
        || (q.copies.any fun j => decide (j.issued ≤ ph))
        || (match q.mp.feed with
          | some id => q.ops.any fun o => decide (o.id = id) && !o.load && decide (o.issued ≤ ph)
          | none => false))

/-- What a newly active plane of a node issued in cycle `at_` is held (R293, R307): a load-class access by the stores of
the panel's other letter, any access by a tenant exchange of the panel. -/
def phaseHeld (s : State) (n : NodeId) (l : Letter) (at_ : Nat) (load : Bool) : Bool :=
  match (s.plane n l).phase with
  | none => false
  | some ph =>
    let p := panelOf s n l
    decide (ph ≤ at_) && ((load && phaseStores s p l.other ph) || (s.panel p).swapping)

/-- A copy that has not completed by its promised cycle holds the loads of its destination that issued from that cycle on
(R219, R303). -/
def promiseHeld (s : State) (a : Access) : Bool :=
  loadClass a.act && s.nodes.any fun e =>
    let hit (l : Letter) : Bool := (e.2.plane l).copies.any fun j =>
      decide (j.ctx = a.ctx) && decide (j.promise ≤ a.opAt) && copyWrites s (panelOf s e.1 l) j a
    hit .a || hit .b

/-- The XBARs or swaps that an instance counts for a panel (R210). -/
def xsOf (s : State) (i p : Nat) : Nat := mget (s.inst i).xs (panelKey (s.inst i) p)

/-- An STX whose target panel has not yet made the swaps its sender counted is held (R210); until it performs its
`home` is the number of that panel. One for a bank that has just come to the back waits for the LDX that still read it
(R211, R302). -/
def stxHeld (s : State) (a : Access) : Bool :=
  a.space == .exchange && storeClass a.act && (decide (xsOf s a.inst a.home ≠ a.xn)
    || s.accs.any fun e => e.2.space == .exchange && !storeClass e.2.act && decide (e.2.home = homeExch a.home (!(s.panel a.home).front) e.2.va))

/-- The limiter of an access (R330). -/
def limiterOf (s : State) (a : Access) : Option (Fin 3) :=
  match a.act with
  | .dsc => some 0
  | .lt _ _ _ => some 0
  | _ => if a.layered.isSome then some 0 else limiterAt s a.space a.peer a.home

/-- The request bytes of an act (R330). -/
def requestBytes (a : AccAct) : Nat :=
  match a with
  | .load => 16
  | .bred _ _ => 16
  | .sigw _ => 8
  | _ => 4

/-- Whether a port may carry an access: fewer older ones are outstanding there than its generation allows (R404). -/
def linkRoom (s : State) (id link : Nat) : Bool :=
  decide ((s.accs.filter fun e => decide (e.1 < id) && (e.2.link.map (· / 4)) == some (link / 4)).length
    < if bitOf (s.port (link / 4)).pcfg 6 then 16384 else 8192)

/-- A ready access to another peer that has lost its link takes the one that the hash now gives, or stalls its port when there is none
(R406, R412, R413). -/
def relink (s : State) (id : Nat) (a : Access) : Option State :=
  if a.space == .peer && !decide (a.peer = s.dev.devnum) && a.st == .ready && !a.link.any (linkUp s) then
    some (match peerLink s a.peer a.va with
      | some k => { s with accs := mset s.accs id { a with link := some k } }
      | none => stallAccess s id a .linkDown a.va)
  else none

/-- Whether an access may perform now, its limiter and its bank apart: translated, its time has come, and no rule of order,
phase, promise or exchange holds it. -/
def accReady (s : State) (id : Nat) (a : Access) : Bool :=
  let addressed := match a.act with
    | .dsc => false
    | .lt _ _ _ => false
    | act => !loadClass act && a.layered.isNone
  a.st == .ready && decide (a.due ≤ s.cycle)
    && (s.accs.all fun e => !(decide (e.1 < id) && e.2.node == a.node && heldBy a e.2))
    && (((nodeBuf s a.node).filter fun b => decide (b.id < id)).all fun b => !heldByBuf a b) && !heldByResent s id a
    && (((nodeCopies s a.node).filter fun j => decide (j.op < a.op)).all fun j => !heldByCopy s a j)
    && !fencesBefore s a.node a.op && !phaseHeld s a.node a.letter a.opAt (loadClass a.act) && !promiseHeld s a && !stxHeld s a
    && (match a.link with
      | some k => linkUp s k && linkRoom s id k
      | none => a.space != .peer || decide (a.peer = s.dev.devnum))
    && !(addressed && inDevice s a.space a.peer && homeDown s a.home)

/-! ### At the home (R206, R214, R216, R226, R287) -/

/-- A lane of AFADD: the sum in the format, rounded to nearest (R214). -/
def afaddPay (f : Fmt) (x y : Word) : Word :=
  payOf f (List.zipWith (fun a b => fAdd f .rne a b) (lanesOf f x) (lanesOf f y))

/-- A lane of BUPD: the sum in F32, rounded into the format (R216). -/
def bupdPay (f : Fmt) (x y : Word) : Word :=
  packLanes f (List.zipWith (fun a b =>
    (fCvt .f32 f .rne false (fAdd .f32 .rne (fCvt f .f32 .rne false a).1 (fCvt f .f32 .rne false b).1).1).1) (lanesOf f x) (lanesOf f y))

/-- The new value of a W32 atomic, by its opcode's low digit (R214). -/
def atomicNew (op : Nat) (f : Fmt) (old b c : Word) : Word :=
  match op with
  | 0 => old + b
  | 1 => afaddPay f old b
  | 2 => if old.toInt ≤ b.toInt then old else b
  | 3 => if b.toInt ≤ old.toInt then old else b
  | 4 => old &&& b
  | 5 => old ||| b
  | 6 => old ^^^ b
  | 7 => b
  | _ => if old = b then c else old

/-- The elements of a BRED, by their order in memory (R216). -/
def bredElems (m : List Host.Cell) (h : Nat) (f : Fmt) (n : Nat) : List Nat :=
  let sz := laneW f / 8
  (List.range n).map fun j => leNat (memBytes m (h + sz * j) sz)

/-- The F32 sum of elements in order, each addition rounded, after that of the elements before them (R216). -/
def bredSum (f : Fmt) (part : Option Word) (xs : List Nat) : Word :=
  let w (x : Nat) : Nat := (fCvt f .f32 .rne false x).1
  let add (a y : Nat) : Nat := (fAdd .f32 .rne a (w y)).1
  match part, xs with
  | some v, xs => BitVec.ofNat 32 (xs.foldl add v.toNat)
  | none, [] => 0
  | none, x :: t => BitVec.ofNat 32 (t.foldl add (w x))

/-- The part of a BRED that it reads in one cycle: sixteen words from those that it has read on (R216, R268). -/
def sweepOf (a : Access) : Access :=
  match a.act with
  | .bred f n =>
    let sz := max 1 (laneW f / 8)
    { a with home := a.home + 4 * a.swept, act := .bred f (min (n - 4 * a.swept / sz) (64 / sz)) }
  | _ => a

/-- Whether a BRED has more words to read after the sixteen of this cycle. -/
def sweepsOn (a : Access) : Bool :=
  match a.act with
  | .bred _ _ => decide (4 * a.swept + 64 < actBytes a.act)
  | _ => false

/-- The system-scope bit of an atomic, by its opcode's low digit; none is never carried (R408). -/
def seatBit (a : AccAct) : Option (Option Nat) :=
  match a with
  | .atomic 0 _ _ _ => some (some 0)
  | .atomic 4 _ _ _ => some (some 1)
  | .atomic 5 _ _ _ => some (some 2)
  | .atomic 6 _ _ _ => some (some 3)
  | .atomic 7 _ _ _ => some (some 4)
  | .atomic 8 _ _ _ => some (some 5)
  | .atomic _ _ _ _ => some none
  | .sigw _ => some (some 6)
  | .bupd _ _ => some none
  | _ => none

/-- Whether an STX would cross the edge of a partition (R389). -/
def storeCrosses (s : State) (a : Access) : Bool :=
  let p := panelOf s a.node a.letter
  a.space == .exchange && storeClass a.act && selvageStops s p (exchTarget p (winOf s a.inst a.win))

/-- What the path of an access does not carry: an STX between two partitions (R389), and an atomic on a page beyond the domain
(R215, R408). -/
def pathFault (s : State) (a : Access) : Option Cause :=
  if storeCrosses s a then some .internal
  else if isFar a.home then
    match seatBit a.act with
    | none => none
    | some none => some .atomicPath
    | some (some b) => if bitOf (mget s.ends ((a.home - 2 ^ 60) / 2 ^ 40)).1 (8 + b) then none else some .atomicPath
  else none

/-- The buffered store of a list that issued last. -/
def lastBuf : List BufStore → Option BufStore
  | [] => none
  | b :: t => match lastBuf t with
    | none => some b
    | some c => some (if c.op < b.op then b else c)

/-- The latest of a node's own buffered stores, before an operation, to the word that an access names (R205, R212). -/
def ownStore (s : State) (a : Access) : Option Word :=
  (lastBuf ((nodeBuf s a.node).filter fun b => decide (b.op < a.op) && sameWord a b)).map (·.val)

/-- A word as a load finds it at its home: zero on a discarded page, and the latest of the node's own buffered stores
to it (R205, R212, R287). -/
def loadWord (s : State) (a : Access) : Word :=
  match ownStore s a with
  | some v => v
  | none =>
    let d := inDevice s a.space a.peer && (match homePage s a.ctx a.va with
      | some p => p.d
      | none => false)
    if d then 0 else memWord s.mem a.home

/-- A store-class act revives a discarded page first (R287). -/
def reviveFor (s : State) (sp : Space) (peer c va : Nat) : State :=
  if inDevice s sp peer then
    match homePage s c va with
    | some p => if p.d then revive s c { p with vpn := field va 56 16 } else s
    | none => s
  else s

/-- Marks a page discarded in a latch file (R287). -/
def latchFileD (vpn : Nat) (f : LatchFile) : LatchFile :=
  { f with pages := f.pages.map fun q => if q.vpn = vpn then { q with d := true } else q }

/-- Marks a page discarded in every latch, those of the press engines too, and in the layer units, whose lines of it go (R280, R287). -/
def latchD (c vpn : Nat) (s : State) : State :=
  let fix (p : Plane) : Plane :=
    if (s.inst p.inst).ctx = c then { p with latch := mmap p.latch fun _ f => latchFileD vpn f } else p
  { s with
    nodes := mmap s.nodes fun _ d => { d with pa := fix d.pa, pb := fix d.pb }
    lunits := mmap s.lunits fun _ ls => ls.filter fun e => !(decide (e.1 = c) && decide (e.2.1 / 65536 = vpn))
    presses := mmap s.presses fun _ ps => ps.map fun p => if p.ctx = c then { p with latch := mmap p.latch fun _ f => latchFileD vpn f } else p }

/-- DSC at the home tile (R226, R285, R287): a page that is not present stays, one of more than 64 KiB is refused. -/
def discardAt (s : State) (c va : Nat) : State × Except Cause Word :=
  let (s, p) := translate s c va
  match p with
  | none => (s, .ok 0)
  | some q =>
    if q.bad then (s, .error .eccUncorrectable)
    else if q.size ≠ 65536 ∨ q.w = false then (s, .error .pageProtection)
    else
      let q := { q with vpn := field va 56 16 }
      (latchD c q.vpn (setD s c q true), .ok 0)

/-- What an access reads and writes at its home: the word it delivers, or its fault, which leaves memory as it is. -/
def actAt (s : State) (a : Access) : State × Except Cause Word :=
  match a.act with
  | .load => (s, .ok (loadWord s a))
  | .store v =>
    let s := reviveFor s a.space a.peer a.ctx a.va
    ({ s with mem := memPutWord s.mem a.home v }, .ok v)
  | .atomic op f b c =>
    let s := reviveFor s a.space a.peer a.ctx a.va
    let old := memWord s.mem a.home
    ({ s with mem := memPutWord s.mem a.home (atomicNew op f old b c) }, .ok old)
  | .sigw v =>
    let s := reviveFor s a.space a.peer a.ctx a.va
    let new := codeOf 64 (signedOf 64 (memDouble s.mem a.home) + v.toInt)
    let s := { s with mem := memPutDouble s.mem a.home new }
    (if inDevice s a.space a.peer then evalSignal s a.ctx a.va else s, .ok (BitVec.ofNat 32 new))
  | .bupd f b =>
    let old := memWord s.mem a.home
    ({ s with mem := memPutWord s.mem a.home (bupdPay f old b) }, .ok 0)
  | .bred f n => (s, .ok (bredSum f a.part (bredElems s.mem a.home f n)))
  | .dsc => discardAt s a.ctx a.va
  | .lt _ _ _ => (s, .ok 0)

/-- The effect of the protection code on a read (R266, R419): the bit errors that stand in what it reads, and one that the
read itself meets. -/
def eccRead (s : State) (a : Access) (e : Ecc) : State × Option Cause :=
  match e with
  | .clean => eccBytes s a.ctx a.home (actBytes a.act)
  | .corrected => eccBytes (eccCorrected s a.ctx a.home) a.ctx a.home (actBytes a.act)
  | .uncorrectable => (eccFailed s a.home, some .eccUncorrectable)

/-- The fault a peer answers with, if any: its own tiles translate, and their state lies outside the device (R275,
R405; log 13: a free value). -/
def peerAnswer (s : State) (sp : Space) (peer : Nat) : State × Option Cause :=
  if sp == .peer && !decide (peer = s.dev.devnum) then
    ({ s with free := s.free + 1 }, match Config.freeNat s.free % 4 with
      | 0 => some .pageNotPresent
      | 1 => some .pageProtection
      | _ => none)
  else (s, none)

/-- Whether an act reads its home: loads, atomics, and a BUPD, which adds to what it reads (R266, R291). -/
def actReads (a : AccAct) : Bool :=
  match a with
  | .bupd _ _ => true
  | a => loadClass a

/-- An access performs at its home: a down link, the far path, the peer's answer and the protection code first. -/
def performAt (s : State) (a : Access) (e : Ecc) : State × Except Cause Word :=
  if inDevice s a.space a.peer && decide (a.home < 2 ^ 52) && a.act != .dsc && paDown s a.home then (s, .error .eccUncorrectable)
  else match pathFault s a with
    | some c => (s, .error c)
    | none =>
      match peerAnswer s a.space a.peer with
      | (s, some c) => (s, .error c)
      | (s, none) =>
        match (if actReads a.act then eccRead s a e else (s, none)) with
        | (s, some c) => (s, .error c)
        | (s, none) => actAt (match limiterOf s a with
            | some k => spend s a.ctx k (requestBytes a.act)
            | none => s) a

/-! ### Completion of an operation's accesses -/

/-- The token a load delivers: the window's `LSET` as its `S`; an atomic's old value has `S` 0 (R209, R214). -/
def accToken (a : Access) (v : Word) : Token :=
  match a.act with
  | .load => { fmt := a.fmt, s := a.lset, payload := v }
  | .bred _ _ => { fmt := .f32, payload := v }
  | .atomic _ f _ _ => { fmt := f, payload := v }
  | _ => { payload := v }

/-- Puts the k-th result of an operation into its entry of an out-port's return queue (R207). -/
def retPut (k : Nat) (id : Nat) (t : Token) (o : OutPort) : OutPort :=
  { o with retq := o.retq.map fun e => if e.op = id ∧ e.k = k then { e with tok := some t } else e }

/-- The completion token of a store-class operation: W32 with the access's byte offset (R206). -/
def doneToken (o : Op) : Token := { payload := o.fold }

/-- An operation after one more of its accesses has performed with result `t`. -/
def opStep (cyc : Nat) (t : Token) (o : Op) : Op :=
  let n := o.done + 1
  { o with done := n, ready := decide (o.total ≤ n), due := cyc,
           toks := if o.total ≤ n then [t] else o.toks }

/-- One access of an operation has performed: it is no longer outstanding, its result goes to the return queue or, when
the last has performed, to write-back (R206, R207); of an operation that has faulted, the results before the fault stand
(R209). `own` delivers the access's own token, else the completion token. -/
def accDone (s : State) (id : Nat) (a : Access) (own : Bool) (v : Word) : State :=
  let s := { s with accs := mdel s.accs id }
  match s.op? a.node a.letter a.op with
  | none =>
    s.updPlane a.node a.letter fun p =>
      if own then { p with outs := Vector.ofFn fun q => retPut a.k a.op (accToken a v) p.outs[q] } else p
  | some o =>
    let t := if own then accToken a v else doneToken o
    let s := s.updOp a.node a.letter a.op (opStep s.cycle t)
    match o.queued, o.dst with
    | true, .out k => s.updOut a.node a.letter k (retPut a.k a.op t)
    | _, _ => s

/-- Whether an act delivers its own result, not a completion token. -/
def ownResult (a : AccAct) : Bool :=
  match a with
  | .store _ => false
  | .bupd _ _ => false
  | .dsc => false
  | _ => true

/-! ### Commit windows (R212) -/

/-- A buffered store on its way home, under the number that it was issued with (R212): it goes through its bank or link as any
access. -/
def commitAccess (s : State) (n : NodeId) (l : Letter) (b : BufStore) : Access :=
  { node := n, letter := l, op := b.op, k := b.k, inst := b.inst, ctx := b.ctx, space := b.space, win := b.win, act := .store b.val,
    va := b.va, home := b.home, peer := b.peer, run := b.run, due := s.cycle, issued := s.cycle, opAt := b.opAt, acq := b.acq,
    rel := b.rel, ord := b.ord, commit := true,
    link := if b.space = .peer ∧ b.peer ≠ s.dev.devnum then peerLink s b.peer b.va else farLink s b.home }

/-- Buffered stores leave their buffer and perform in issue order (R212). -/
def commitWhere (s : State) (n : NodeId) (l : Letter) (f : BufStore → Bool) : State :=
  let bs := (s.plane n l).mp.buf.filter f
  { s with accs := s.accs ++ bs.map fun (b : BufStore) => (b.id, commitAccess s n l b) }.updPlane n l fun p =>
    { p with mp := { p.mp with buf := p.mp.buf.filter fun b => !f b } }

/-- Commits every buffered store of a port, unless the instance's fault flag is set (R212, R366). -/
def commitPort (s : State) (n : NodeId) (l : Letter) : State :=
  if (s.inst (instOf s n l)).fault then s else commitWhere s n l fun _ => true

/-- Commits the stores of one window, an early commit (R212); it leaves a trap imprecise (R369). -/
def commitWindow (s : State) (n : NodeId) (l : Letter) (w : Nat) : State :=
  imprecise (commitWhere s n l fun b => decide (b.win = w)) (instOf s n l)

/-- A committed store has performed: it counts (R212). -/
def countCommit (s : State) (a : Access) : State :=
  if a.commit then s.updPlane a.node a.letter fun p => { p with mp := { p.mp with committed := (p.mp.committed + 1) % 2 ^ 32 } } else s

/-- Puts a store into its commit buffer; the 513th of a window commits the 512 before it, or is held while the fault
flag is set (R212). -/
def bufferStore (s : State) (n : NodeId) (l : Letter) (b : BufStore) : State :=
  let put (s : State) : State := s.updPlane n l fun p => { p with mp := { p.mp with buf := p.mp.buf ++ [b], held := none } }
  if ((s.plane n l).mp.buf.filter fun c => decide (c.win = b.win)).length < 512 then put s
  else if (s.inst (instOf s n l)).fault then s.updPlane n l fun p => { p with mp := { p.mp with held := some b } }
  else put (commitWindow s n l b.win)

/-- A translated store of a commit window enters the buffer in place of performing (R209, R212). -/
def bufferAccess (s : State) (id : Nat) (a : Access) (v : Word) : State :=
  let s := { s with accs := mdel s.accs id }
  let b : BufStore := { id := id, win := a.win, op := a.op, k := a.k, inst := a.inst, run := a.run, ctx := a.ctx, space := a.space,
                        peer := a.peer, va := a.va, home := a.home, opAt := a.opAt, acq := a.acq, rel := a.rel, ord := a.ord, val := v }
  bufferStore s a.node a.letter b

end Sys2Proof.Machine
end

