-- ==== Sys2Proof/Machine/Layers.lean ====
section
/-! DEFINITION. Layered tensors (R68, R221 to R225, R289, R290): handle records and layer descriptors as memory holds
them, latches, layer units and their buffers, the elements a snapshot gives, the LT operations at the record's home, and
presses. -/

namespace Sys2Proof.Machine
open Sys2Proof

/-! ### Records and descriptors (R221, R222) -/

/-- Replaces a bit field. -/
def setField (v hi lo x : Nat) : Nat := v - field v hi lo * 2 ^ lo + x % 2 ^ (hi + 1 - lo) * 2 ^ lo

/-- Bytes of an element of a format. -/
def elemSize (f : Fmt) : Nat := laneW f / 8

/-- `EFMT` or `VFMT` as a format. -/
def recFmt (r : Nat) : Fmt := Fmt.ofCode (field r 194 192)

/-- The shape of a handle record, a 1024-bit number, is valid (R221). -/
def shapeOk (r : Nat) : Bool :=
  let m := field r 159 128
  let n := field r 191 160
  let f := recFmt r
  decide (1 ≤ m) && decide (m ≤ 65536) && decide (1 ≤ n) && decide (n ≤ 65536) && f.isFlt
    && decide (n * elemSize f ≤ field r 255 224) && decide (field r 312 256 % 64 = 0) && decide (field r 380 377 ≤ 8)

/-- A list entry of a record: attach number and pool index (R221). -/
def listEntry (r k : Nat) : Nat × Nat := (field r (543 + 64 * k) (512 + 64 * k), field r (555 + 64 * k) (544 + 64 * k))

/-- The layers a record lists. -/
def listOf (r : Nat) : List (Nat × Nat) := (List.range (field r 380 377)).map (listEntry r)

/-- A record with a list, its `NLAY` and `SEQ`. -/
def setList (r seq : Nat) (xs : List (Nat × Nat)) : Nat :=
  let base := setField (setField (r % 2 ^ 512) 127 96 seq) 380 377 xs.length
  (xs.zipIdx.foldl (fun a e => a + (e.1.1 % 2 ^ 32 + e.1.2 * 2 ^ 32) * 2 ^ (512 + 64 * e.2)) base)

/-- A layer descriptor, a 512-bit number, with its attach number (R222). -/
def layerOf (r d seq : Nat) : Layer :=
  let kind := field d 1 0
  let f := Fmt.ofCode (field d 4 2)
  let rank := field d 14 8
  let nnz := field d 63 32
  { seq := seq, low := kind == 2, vfmt := f, rank := rank, nnz := nnz, ava := field d 120 64, bva := field d 184 128
    ok := f.isWideFlt && decide (field d 223 192 = field r 159 128) && decide (field d 255 224 = field r 191 160)
      && decide (d / 2 ^ 256 = 0)
      && ((kind == 1 && decide (1 ≤ nnz) && decide (rank = 0)) || (kind == 2 && decide (1 ≤ rank) && decide (rank ≤ 64) && decide (nnz = 0))) }

/-- A fault met in a context's memory with the VA that it concerns (R370). -/
abbrev Fail := Cause × Nat

/-- The VA that a failed access of `n` bytes concerns: its own, or the first of the next page. -/
def failVa (s : State) (c va : Nat) (r : Right) : Nat :=
  if (pageFault (translate s c va).2 r).isSome then va else (va / 65536 + 1) * 65536

/-- Reads `n` bytes of a context as a number. -/
def readNum (s : State) (c va n : Nat) : State × Except Fail Nat :=
  match readCtx s c va n with
  | (s, .ok bs) => (s, .ok (leNat bs))
  | (s, .error e) => (s, .error (e, failVa s c va .read))

/-- Reads the descriptors of a record's list. -/
def readLayers (s : State) (c r : Nat) : List (Nat × Nat) → State × Except Fail (List Layer)
  | [] => (s, .ok [])
  | e :: t =>
    match readNum s c (field r 312 256 + 64 * e.2) 64 with
    | (s, .error x) => (s, .error x)
    | (s, .ok d) =>
      match readLayers s c r t with
      | (s, .error x) => (s, .error x)
      | (s, .ok ls) => (s, .ok (layerOf r d e.1 :: ls))

/-- The snapshot of a record and its layers (R223). -/
def snapOf (r : Nat) (ls : List Layer) : Snapshot :=
  { ok := shapeOk r && ls.all (·.ok), base := field r 56 0, bver := field r 95 64, rows := field r 159 128,
    cols := field r 191 160, efmt := recFmt r, rstride := field r 255 224, layers := ls }

/-- The snapshot of a record, or the fault of reading its list. -/
def readSnap (s : State) (c r : Nat) : State × Except Fail Snapshot :=
  match readLayers s c r (listOf r) with
  | (s, .error x) => (s, .error x)
  | (s, .ok ls) => (s, .ok (snapOf r ls))

/-! ### Layer units (R265, R289; log 33) -/

/-- The layer unit that serves a panel: that of its level-3 switch (R289). -/
def unitOf (p : Nat) : Nat := switchOf 3 p

/-- The place of a line in a unit's buffer of 1,024 lines of 64 bytes. DESIGN CHOICE (log 33). -/
def lineSlot (line : Nat) : Nat := line / 64 % 1024

/-- The bytes of a line as memory now has them, where it translates to a page that is there. -/
def lineNow (s : State) (c line : Nat) : Option (List Byte) :=
  (homePage s c line).bind fun q => if q.r && !homeD s c q then some (memBytes s.mem (pageHome q line) 64) else none

/-- A line of a context's layer data or descriptors at a unit: from its buffer, or read and kept there in place of what its slot held
(R266, R289). DEDUCED (log 33): a line that memory has changed since is taken as memory has it, so that a load gives the same
outcome whatever the buffer holds (R223). -/
def unitLine (s : State) (u c line : Nat) : State × Except Fail (List Byte) :=
  let ls := mget s.lunits u
  let h := homeLayer u (64 * lineSlot line)
  match ls.find? fun e => e.1 == c && e.2.1 == line with
  | some e =>
    match eccBytes s c h 64 with
    | (s, some x) => (s, .error (x, line))
    | (s, none) =>
      let bs := (lineNow s c line).getD e.2.2
      (if bs = e.2.2 then s else { s with lunits := mset s.lunits u ((c, line, bs) :: ls.erase e) }, .ok bs)
  | none =>
    match readCtx s c line 64 with
    | (s, .error x) => (s, .error (x, line))
    | (s, .ok bs) =>
      ({ zeroMem s h (h + 64) with
           lunits := mset s.lunits u ((c, line, bs) :: ls.filter fun e => !decide (lineSlot e.2.1 = lineSlot line)) }, .ok bs)

/-- Bytes of layer data at a unit: of one line, or of two where they lie across its end. -/
def unitBytes (s : State) (u c va n : Nat) : State × Except Fail (List Byte) :=
  let line := va / 64 * 64
  match unitLine s u c line with
  | (s, .error x) => (s, .error x)
  | (s, .ok bs) =>
    let k := va % 64
    if k + n ≤ 64 then (s, .ok ((bs.drop k).take n))
    else
      match unitLine s u c (line + 64) with
      | (s, .error x) => (s, .error x)
      | (s, .ok cs) => (s, .ok ((bs.drop k) ++ cs.take (k + n - 64)))

/-- The lines that a unit drops: a context's in a range of VAs. -/
def dropLines (s : State) (c lo hi : Nat) (f : Nat → Bool) : State :=
  { s with lunits := mmap s.lunits fun u ls => if f u then ls.filter fun e => !(decide (e.1 = c) && decide (lo ≤ e.2.1) && decide (e.2.1 < hi)) else ls }

/-- A unit reads the descriptors of a record's list into its buffer (R289). -/
def unitDescs (s : State) (u c r : Nat) : State :=
  (listOf r).foldl (fun s e => (unitLine s u c ((field r 312 256 + 64 * e.2) / 64 * 64)).1) s

/-- Takes a snapshot of a handle's record, as memory holds it, in one serialised operation, for a layer unit, which keeps the
descriptors; one that memory does not let it read is invalid (R223, R289; log 14). -/
def takeSnap (s : State) (u c va : Nat) : State × Snapshot :=
  match readNum s c va 128 with
  | (s, .error _) => (s, {})
  | (s, .ok r) =>
    match readSnap s c r with
    | (s, .error _) => (s, {})
    | (s, .ok sn) => (unitDescs s u c r, sn)

/-- A memory port or copy node latches a window: its translations, its low-water mark, and the snapshot of the handle
that the window now binds (R179, R223, R277, R283). Its layer unit reads the context's layer data afresh (log 33). -/
def latchWindow (s : State) (n : NodeId) (l : Letter) (w : Nat) : State :=
  let i := instOf s n l
  match (winOf s i w).handle with
  | none => updLatch s n l w fun _ => {}
  | some va =>
    let c := (s.inst i).ctx
    let u := unitOf (panelOf s n l)
    let (s, sn) := takeSnap (dropLines s c 0 (2 ^ 57) fun k => k == u) u c va
    pruneHandles (updLatch s n l w fun _ => { snap := some sn, handle := some va })

/-! ### Reading for a layer unit or a press engine -/

/-- Who forms elements: a layer unit, through its buffer, or the press engine of a die, through its latch files. -/
inductive Reader where
  | unit (u : Nat)
  | press (die : Nat)
  deriving DecidableEq, Repr, Inhabited

/-- The press that an engine runs, if it has accepted one (R290). -/
def pressHead (s : State) (die : Nat) : Option Press :=
  match mget s.presses die with
  | p :: _ => if p.op.isNone then some p else none
  | [] => none

/-- Changes the press that an engine runs. -/
def updPress (s : State) (die : Nat) (f : Press → Press) : State :=
  { s with presses := mupd s.presses die fun ps => match ps with
      | p :: t => f p :: t
      | [] => [] }

/-- The VAs that a press reaches through file `w` of its engine: the base, the data of each layer, and from file 17 on what it
writes. -/
def pressExtent (p : Press) (w : Nat) : Nat × Nat :=
  let sn := p.snap
  if w = 0 then (sn.base, sn.rows * sn.rstride)
  else if 17 ≤ w then (p.nbase, sn.rows * sn.rstride)
  else match sn.layers[(w - 1) / 2]? with
    | none => (0, 0)
    | some y =>
      let sz := elemSize y.vfmt
      if w % 2 = 1 then (y.ava, if y.low then sn.rows * y.rank * sz else 4 * y.nnz)
      else (y.bva, if y.low then y.rank * sn.cols * sz else y.nnz * sz)

/-- File `w` of the latch files of the press that an engine runs. -/
def pressFile (s : State) (die w : Nat) : LatchFile := mget (((pressHead s die).map (·.latch)).getD []) w

/-- Changes a file of the press that an engine runs. -/
def updFile (s : State) (die w : Nat) (f : LatchFile → LatchFile) : State :=
  updPress s die fun p => { p with latch := mupd p.latch w f }

/-- A press engine's demand for a page, through file `w` of its latch files (R277, R290). -/
def pressDemand (s : State) (die w c va : Nat) (r : Right) : State × Except Cause Page :=
  match latchedIn s c (pressFile s die w) va with
  | some q => (s, match pageFault (some q) r with
    | some e => .error e
    | none => .ok q)
  | none =>
    let (s, q) := translate s c va
    match q, pageFault q r with
    | some q, none => (updFile s die w (addLatch { q with vpn := field va 56 16 }), .ok q)
    | _, some e => (s, .error e)
    | none, none => (s, .error .pageNotPresent)

/-- A press engine's run-ahead in a file (R277, R290). -/
def pressAhead (s : State) (die w c vpn : Nat) : State :=
  let (base, len) := ((pressHead s die).map fun p => pressExtent p w).getD (0, 0)
  match aheadPage base len (pressFile s die w) vpn with
  | none => s
  | some v =>
    let (s, p) := translate s c (v * 65536)
    updFile s die w (aheadLatch v p)

/-- The translation of a press engine, through file `w` of its latch files (R277, R290). -/
def pressXlate (s : State) (die w c va : Nat) (r : Right) : State × Except Cause Page :=
  match pressDemand (updFile s die w (noteAccess 0 0 (va / 65536))) die w c va r with
  | (s, .error e) => (s, .error e)
  | (s, .ok q) => (pressAhead s die w c (va / 65536), .ok q)

/-- Reads `n` bytes of one page for a press engine. -/
def pressRead (s : State) (die w c va n : Nat) : State × Except Fail (List Byte) :=
  match pressXlate s die w c va .read with
  | (s, .error e) => (s, .error (e, va))
  | (s, .ok q) =>
    match readPage s c va n q with
    | (s, .error e) => (s, .error (e, va))
    | (s, .ok bs) => (s, .ok bs)

/-- Reads at most 64 bytes for a press engine, over the end of a page where they lie there. -/
def pressBytes (s : State) (die w c va n : Nat) : State × Except Fail (List Byte) :=
  let k := min n (65536 - va % 65536)
  match pressRead s die w c va k with
  | (s, .error x) => (s, .error x)
  | (s, .ok bs) =>
    if n ≤ k then (s, .ok bs)
    else
      match pressRead s die w c (va + k) (n - k) with
      | (s, .error x) => (s, .error x)
      | (s, .ok cs) => (s, .ok (bs ++ cs))

/-- A number of `n` bytes of the base, file 0, or of layer data, file `w`, as a reader finds it. -/
def readFor (s : State) (v : Reader) (w c va n : Nat) : State × Except Fail Nat :=
  let r : State × Except Fail (List Byte) := match v with
    | .unit u => if w = 0 then (match readNum s c va n with
        | (s, .error x) => (s, .error x)
        | (s, .ok x) => (s, .ok (leBytes x n))) else unitBytes s u c va n
    | .press die => pressBytes s die w c va n
  match r with
  | (s, .error x) => (s, .error x)
  | (s, .ok bs) => (s, .ok (leNat bs))

/-! ### Elements of a snapshot (R68, R223) -/

/-- The outcome of scanning a sparse list for a coordinate: the first at or above it that matches, or a fault for an
out-of-order pair (R223). -/
def scanSparse (s : State) (g : Reader) (c w : Nat) (y : Layer) (e : Nat) : Nat → Nat → Option Nat → State × Except Fail (Option Nat)
  | 0, _, _ => (s, .ok none)
  | fuel + 1, k, last =>
    match readFor s g w c (y.ava + 4 * k) 4 with
    | (s, .error x) => (s, .error x)
    | (s, .ok v) =>
      let bad := match last with
        | some p => decide (v ≤ p)
        | none => false
      if bad then (s, .error (.layerShape, y.ava + 4 * k))
      else if v = e then (s, .ok (some k))
      else if e < v then (s, .ok none)
      else scanSparse s g c w y e fuel (k + 1) (some v)

/-- The products of a low-rank layer's row and column (R68). -/
def lowTerms (s : State) (g : Reader) (c w : Nat) (y : Layer) (i j n : Nat) : Nat → Nat → State × Except Fail (List (XVal × Bool))
  | 0, _ => (s, .ok [])
  | fuel + 1, t =>
    let sz := elemSize y.vfmt
    match readFor s g w c (y.ava + (i * y.rank + t) * sz) sz with
    | (s, .error x) => (s, .error x)
    | (s, .ok u) =>
      match readFor s g (w + 1) c (y.bva + (t * n + j) * sz) sz with
      | (s, .error x) => (s, .error x)
      | (s, .ok v) =>
        match lowTerms s g c w y i j n fuel (t + 1) with
        | (s, .error x) => (s, .error x)
        | (s, .ok ps) => (s, .ok (xmul (fval y.vfmt u) (fval y.vfmt v) :: ps))

/-- What a layer, whose data a reader finds by its files `w` and `w` + 1, adds to element (i, j), as F32; none adds nothing
(R68). -/
def layerTerm (s : State) (g : Reader) (c w : Nat) (sn : Snapshot) (y : Layer) (i j : Nat) : State × Except Fail (Option Nat) :=
  if y.low then
    match lowTerms s g c w y i j sn.cols y.rank 0 with
    | (s, .error x) => (s, .error x)
    | (s, .ok ps) =>
      let v := xsum .rne (ps.map (·.1))
      (s, .ok (some (if ps.any (·.2) then canonNaN .f32 else (invalidIf v.2 (roundX .f32 .rne false v.1)).1)))
  else
    match scanSparse s g c w y (i * 65536 + j) y.nnz 0 none with
    | (s, .error x) => (s, .error x)
    | (s, .ok none) => (s, .ok none)
    | (s, .ok (some k)) =>
      match readFor s g (w + 1) c (y.bva + k * elemSize y.vfmt) (elemSize y.vfmt) with
      | (s, .error x) => (s, .error x)
      | (s, .ok v) => (s, .ok (some (fCvt y.vfmt .f32 .rne false v).1))

/-- Adds the layers in list order (R68). -/
def addLayers (s : State) (g : Reader) (c : Nat) (sn : Snapshot) (i j acc : Nat) : Nat → List Layer → State × Except Fail Nat
  | _, [] => (s, .ok acc)
  | w, y :: t =>
    match layerTerm s g c w sn y i j with
    | (s, .error x) => (s, .error x)
    | (s, .ok none) => addLayers s g c sn i j acc (w + 2) t
    | (s, .ok (some v)) => addLayers s g c sn i j (fAdd .f32 .rne acc v).1 (w + 2) t

/-- Element (i, j) of a snapshot (R68). -/
def layeredElem (s : State) (g : Reader) (c : Nat) (sn : Snapshot) (i j : Nat) : State × Except Fail Nat :=
  let sz := elemSize sn.efmt
  match readFor s g 0 c (sn.base + i * sn.rstride + j * sz) sz with
  | (s, .error x) => (s, .error x)
  | (s, .ok b) =>
    match addLayers s g c sn i j (fCvt sn.efmt .f32 .rne false b).1 1 sn.layers with
    | (s, .error x) => (s, .error x)
    | (s, .ok v) => (s, .ok (fCvt .f32 sn.efmt .rne false v).1)

/-- The lanes of a word from column j on; lanes past the last column are zero (R223). -/
def layeredLanes (s : State) (g : Reader) (c : Nat) (sn : Snapshot) (i : Nat) : Nat → Nat → State × Except Fail (List Nat)
  | 0, _ => (s, .ok [])
  | fuel + 1, j =>
    if sn.cols ≤ j then (s, .ok [])
    else
      match layeredElem s g c sn i j with
      | (s, .error x) => (s, .error x)
      | (s, .ok v) =>
        match layeredLanes s g c sn i fuel (j + 1) with
        | (s, .error x) => (s, .error x)
        | (s, .ok vs) => (s, .ok (v :: vs))

/-- A load through a handle window at a layer unit (R223): its shape faults, then its lanes. A word that starts inside an element, which
a row stride that is no multiple of the element size allows, is a free value (log 15). -/
def layeredWord (s : State) (u c : Nat) (sn : Snapshot) (f : Fmt) (off : Nat) : State × Except Fail Word :=
  let i := off / sn.rstride
  let b := off % sn.rstride
  let sz := elemSize sn.efmt
  if !sn.ok || f != sn.efmt then (s, .error (.layerShape, sn.base + off))
  else if sn.rows ≤ i ∨ sn.cols * sz ≤ b then (s, .error (.layerShape, sn.base + off))
  else if b % sz ≠ 0 then ({ s with free := s.free + 1 }, .ok (Config.freeWord s.free))
  else
    match layeredLanes s (.unit u) c sn i f.lanes (b / sz) with
    | (s, .error x) => (s, .error x)
    | (s, .ok vs) => (s, .ok (packLanes f vs))

/-! ### The LT operations (R223, R224) -/

/-- Whether an expected counter matches; all ones means any (R224). -/
def expects (b v : Nat) : Bool := b == 0xFFFFFFFF || b == v

/-- The checks of an LT operation on a record that come before LTA reads a descriptor (R224). -/
def ltFirst (op a b r : Nat) : Option Cause :=
  let seq := field r 127 96
  match op with
  | 4 => if !shapeOk r then some .layerShape else if !expects b (field r 95 64) then some .layerVersion else none
  | 5 =>
    if !expects b seq then some .layerVersion
    else if (listOf r).length = 8 then some .layerOverflow else if 4095 < a then some .layerShape else none
  | 6 => if !expects b seq || !((listOf r).any fun e => e.1 == a) then some .layerVersion else none
  | 7 => if !expects b seq || decide (field r 382 381 = 1) then some .layerVersion else none
  | _ => none

/-- The cycles that a layer unit takes for a word beyond a plain load, its data in the buffer (R289). -/
def layerTime (sn : Snapshot) (f : Fmt) : Nat :=
  let m := if sn.layers.any fun y => y.low && y.vfmt == .f32 then 32 else 64
  16 + (f.lanes * (sn.layers.map fun y => if y.low then y.rank else 0).sum + m - 1) / m

/-- What an LT operation that its checks admit does to a record at its home: its result and the record it leaves (R224).
`op` is 4 LTB, 5 LTA, 6 LTD, 7 LTP, 8 LTQ. -/
def ltRecord (op a r : Nat) : Nat × Nat :=
  let seq := field r 127 96
  let q := (seq + 1) % 2 ^ 32
  match op with
  | 4 => (field r 95 64, r)
  | 5 => (q, setList r q (listOf r ++ [(q, a)]))
  | 6 => (q, setList r q ((listOf r).filter fun e => e.1 != a))
  | 7 => (seq, setField (setField r 382 381 1) 388 383 0)
  | _ =>
    match a with
    | 0 => (seq, r)
    | 1 => (field r 380 377, r)
    | 2 => (field r 95 64, r)
    | _ => (field r 382 381 + field r 388 383 * 256, r)

/-- A record with the two fields that software may write as memory holds them (R221). -/
def mergeRecord (own m : Nat) : Nat := setField (setField own 312 256 (field m 312 256)) 376 320 (field m 376 320)

/-- A record as an operation finds it: the device's own state of it, loaded at its first operation, with `LPOOL` and `NBASE`
from memory (R221). -/
def recordNow (s : State) (c va : Nat) : State × Except Fail Nat :=
  match readNum s c va 128 with
  | (s, .error x) => (s, .error x)
  | (s, .ok m) => (s, .ok (match mget? s.handles (c, va) with
    | some bs => mergeRecord (leNat bs) m
    | none => m))

/-- Writes a record to memory and to the device's own state of it (R221); one that memory refuses is left. -/
def putRecord (s : State) (c va r : Nat) : State × Except Fail Unit :=
  match writeCtx s c va (leBytes r 128) with
  | (s, .error e) => (s, .error (e, failVa s c va .write))
  | (s, .ok ()) => ({ s with handles := mset s.handles (c, va) (leBytes r 128) }, .ok ())

/-- The check of the descriptor that an LTA attaches (R222, R224). -/
def ltaCheck (s : State) (c a r : Nat) : State × Option Fail :=
  match readNum s c (field r 312 256 + 64 * a) 64 with
  | (s, .error x) => (s, some x)
  | (s, .ok d) => (s, if (layerOf r d 0).ok then none else some (.layerShape, 0))

/-- A press of the current list joins the engine of the issuing panel's die; a list that memory does not let it read ends
the press (R224, R225, R290). -/
def queuePress (s : State) (acc : Access) (r : Nat) (swing : Bool) (seq : Nat) : State :=
  let (s, x) := readSnap s acc.ctx r
  let p : Press := { id := s.ids, ctx := acc.ctx, run := acc.run, handle := acc.va, nbase := field r 376 320, swing := swing, seq := seq,
                     op := some (acc.node, acc.letter, acc.op) }
  let p := match x with
    | .ok sn => { p with snap := sn }
    | .error e => { p with fault := some e.1 }
  { s.fresh with presses := mupd s.presses (dieOf (panelOf s acc.node acc.letter)) fun ps => ps ++ [p] }

/-- The serialisation of an LT operation at the record's home: the checks in order, then the record rewritten and the
operation's effect (R221, R223, R224, R290). -/
def ltSerialise (s : State) (acc : Access) : State × Except Fail Nat :=
  match acc.act with
  | .lt op a b =>
    match recordNow s acc.ctx acc.va with
    | (s, .error x) => (s, .error x)
    | (s, .ok r) =>
      match ltFirst op a.toNat b.toNat r with
      | some e => (s, .error (e, acc.va))
      | none =>
        match (if op = 5 then ltaCheck s acc.ctx a.toNat r else (s, none)) with
        | (s, some x) => (s, .error x)
        | (s, none) =>
          let (v, r') := ltRecord op a.toNat r
          match putRecord s acc.ctx acc.va r' with
          | (s, .error x) => (s, .error x)
          | (s, .ok ()) =>
            (match op with
              | 4 => s.updInst acc.inst fun i => { i with wins := i.wins.set acc.win { i.wins.getD acc.win {} with handle := some acc.va } }
              | 7 => queuePress s acc r' (bitOf a.toNat 0) v
              | _ => s, .ok v)
  | _ => (s, .ok 0)

/-! ### Presses (R225, R290) -/

/-- Writes an element of a press, over the end of a page where it lies there; one whose memory link is down is not performed, and
the error is none (R272, R290). -/
def pressWrite (s : State) (die c va : Nat) (bs : List Byte) : State × Except (Option Cause) Unit :=
  let k := min bs.length (65536 - va % 65536)
  match pressXlate s die 17 c va .write with
  | (s, .error e) => (s, .error (some e))
  | (s, .ok q) =>
    if homeDown s (pageHome q va) then (s, .error none)
    else if bs.length ≤ k then (writePage s c va q bs, .ok ())
    else
      match pressXlate s die 17 c (va + k) .write with
      | (s, .error e) => (writePage s c va q (bs.take k), .error (some e))
      | (s, .ok q') =>
        if homeDown s (pageHome q' (va + k)) then (s, .error none)
        else (writePage (writePage s c va q (bs.take k)) c (va + k) q' (bs.drop k), .ok ())

/-- A press after one more of its elements. -/
def nextElem (p : Press) : Press :=
  if p.col + 1 < p.snap.cols then { p with col := p.col + 1 } else { p with row := p.row + 1, col := 0 }

/-- The next elements of a press, in row order, up to a number of them (R225, R290); what it writes is subtracted from its limiter
(R330). One that its memory link does not take waits. -/
def pressElems (s : State) (die : Nat) : Nat → State × Option Cause
  | 0 => (s, none)
  | fuel + 1 =>
    match pressHead s die with
    | none => (s, none)
    | some p =>
      if p.snap.rows ≤ p.row then (s, none)
      else
        match layeredElem s (.press die) p.ctx p.snap p.row p.col with
        | (s, .error x) => (s, some x.1)
        | (s, .ok v) =>
          let sz := elemSize p.snap.efmt
          let va := p.nbase + p.row * p.snap.rstride + p.col * sz
          match pressWrite s die p.ctx va (leBytes v sz) with
          | (s, .error (some e)) => (s, some e)
          | (s, .error none) => (s, none)
          | (s, .ok ()) =>
            let s := match limiterVa s p.ctx .device 0 va with
              | some k => spend s p.ctx k sz
              | none => s
            pressElems (updPress s die nextElem) die fuel

/-- Whether the sparse layers' coordinates are in order over the whole of each list, which a press reads (R225). -/
def sparseAll (s : State) (die c : Nat) : Nat → List Layer → State × Except Cause Unit
  | _, [] => (s, .ok ())
  | w, y :: t =>
    if y.low then sparseAll s die c (w + 2) t
    else
      match scanSparse s (.press die) c w y (2 ^ 33) y.nnz 0 none with
      | (s, .error x) => (s, .error x.1)
      | (s, .ok _) => sparseAll s die c (w + 2) t

/-- An engine's turn: the press it runs writes its next elements, up to 64 of them, and past the last one has read the whole of each
list; a fault stops it (R225, R290, R295; log 34). `row` stands at the number of rows plus one once all is done. -/
def pressWork (s : State) (die : Nat) : State :=
  match pressHead s die with
  | none => s
  | some p =>
    if p.fault.isSome || decide (p.snap.rows < p.row) then s
    else if !p.snap.ok then updPress s die fun p => { p with fault := some .layerShape }
    else
      if p.row < p.snap.rows then
        match pressElems s die 64 with
        | (s, some e) => updPress s die fun p => { p with fault := some e }
        | (s, none) => s
      else
        match sparseAll s die p.ctx 1 p.snap.layers with
        | (s, .error e) => updPress s die fun p => { p with fault := some e }
        | (s, .ok ()) => updPress s die fun p => { p with row := p.row + 1 }

/-- The record after a press has completed: `PST` 2, and with `SWING` the new base, version and list (R225). -/
def pressedRecord (p : Press) (r : Nat) : Nat :=
  let r := setField (setField r 382 381 2) 388 383 0
  if p.swing then
    let xs := (listOf r).filter fun e => decide (p.seq < e.1)
    setField (setField (setList r (field r 127 96) xs) 56 0 p.nbase) 95 64 (field r 95 64 + 1)
  else r

/-- The record after a press has failed: `PST` 3 with the cause (R225). -/
def failedRecord (c : Cause) (r : Nat) : Nat := setField (setField r 382 381 3) 388 383 c.code

/-- Rewrites a record through a function, the device's own state of it also where memory does not translate. -/
def updRecord (s : State) (c va : Nat) (f : Nat → Nat) : State :=
  let keep (s : State) (r : Nat) : State := { s with handles := mset s.handles (c, va) (leBytes r 128) }
  match recordNow s c va with
  | (s, .ok r) => keep (putRecord s c va (f r)).1 (f r)
  | (s, .error _) =>
    match mget? s.handles (c, va) with
    | some bs => keep s (f (leNat bs))
    | none => s

/-- The press at the head of an engine ends with a record that a function makes (R225). -/
def endPress (s : State) (die : Nat) (p : Press) (f : Nat → Nat) : State :=
  pruneHandles { updRecord s p.ctx p.handle f with presses := mupd s.presses die List.tail }

end Sys2Proof.Machine
end

