-- ==== Sys2Proof/Machine/Sysreg.lean ====
section
/-! DEFINITION. The system registers (R187, R350, R380, R382) and the registers of the trap record (R370). -/

namespace Sys2Proof.Machine
open Sys2Proof

/-! ### Context and instance registers (R187) -/

/-- The effective priority class of an instance (R186). -/
def pclass (v : Inst) : Nat := max v.setCls v.inhCls

/-- The value of a register that slots and handlers reach, for an instance and its context; none if the number is
not listed (R187). -/
def sregRead (s : State) (i c : Nat) (r : Nat) : Option Nat :=
  let v := s.inst i
  let x := s.ctx c
  match r with
  | 0x000 => some c
  | 0x001 => some x.vf
  | 0x002 => some (partOf s c)
  | 0x003 => some v.depth
  | 0x004 => some v.member
  | 0x005 => some (pclass v)
  | 0x006 => some x.maxcls
  | 0x008 => some (v.work.origins.getD 0 0)
  | 0x009 => some (v.work.origins.getD 1 0)
  | 0x00A => some (v.work.origins.getD 2 0)
  | 0x00B => some (v.work.origins.getD 3 0)
  | 0x00C => some (v.work.origins.getD 4 0)
  | 0x00D => some (v.work.origins.getD 5 0)
  | 0x010 => some x.spquota
  | 0x011 => some x.spused
  | 0x012 => some (x.spbase % 2 ^ 32)
  | 0x013 => some (x.spbase / 2 ^ 32)
  | 0x014 => some x.splen
  | 0x018 => some x.markto
  | 0x019 => some x.dbgen
  | 0x01A => some x.waitb
  | 0x01B => some x.wdog
  | 0x01C => some (x.castbase % 2 ^ 32)
  | 0x01D => some (x.castbase / 2 ^ 32)
  | 0x01E => some x.castunits
  | 0x020 => some (x.hndbase % 2 ^ 32)
  | 0x021 => some (x.hndbase / 2 ^ 32)
  | 0x022 => some x.hndlen
  | 0x023 => some (x.cswbase % 2 ^ 32)
  | 0x024 => some (x.cswbase / 2 ^ 32)
  | 0x025 => some x.cswunits
  | 0x026 => some x.dbgsel
  | 0x027 => some x.dbgcmd
  | 0x028 => some x.dbgst
  | 0x029 => some x.dbgpr
  | _ => none

/-- Whether a listed register is RO (R187, R380). -/
def sregRo (r : Nat) : Bool := decide (r ≤ 0x005) || (decide (0x008 ≤ r) && decide (r ≤ 0x00D)) || r == 0x011 || r == 0x028 || r == 0x029

/-- Sets the low 32 bits of a VA register. -/
def setLo (v x : Nat) : Nat := v / 2 ^ 32 * 2 ^ 32 + x

/-- Sets bits [56:32] of a VA register. -/
def setHi (v x : Nat) : Nat := v % 2 ^ 32 + x % 2 ^ 25 * 2 ^ 32

/-- Writes a RW register of a context (R187, R350, R380, R382). -/
def sregSet (r v : Nat) (x : Ctx) : Ctx :=
  match r with
  | 0x006 => { x with maxcls := v }
  | 0x010 => { x with spquota := v }
  | 0x012 => { x with spbase := setLo x.spbase v }
  | 0x013 => { x with spbase := setHi x.spbase v }
  | 0x014 => { x with splen := v }
  | 0x018 => { x with markto := v }
  | 0x019 => { x with dbgen := v }
  | 0x01A => { x with waitb := v }
  | 0x01B => { x with wdog := v }
  | 0x01C => { x with castbase := setLo x.castbase v }
  | 0x01D => { x with castbase := setHi x.castbase v }
  | 0x01E => { x with castunits := v }
  | 0x020 => { x with hndbase := setLo x.hndbase v }
  | 0x021 => { x with hndbase := setHi x.hndbase v }
  | 0x022 => { x with hndlen := v }
  | 0x023 => { x with cswbase := setLo x.cswbase v }
  | 0x024 => { x with cswbase := setHi x.cswbase v }
  | 0x025 => { x with cswunits := v }
  | 0x026 => { x with dbgsel := v % 2 ^ 22 }
  | 0x027 => { x with dbgcmd := if bitOf x.dbgen 0 && decide (v ≤ 3) then v else 0 }
  | _ => x

/-- The cause WRSR to a register of R187 raises, if any; every RW register there is privileged. DESIGN CHOICE (log 119): an
unprivileged write of more than 4,096 to `SPQUOTA` is PRIVILEGE, where R187 does not order it and SYSREG_INVALID. -/
def sregFault (priv : Bool) (listed : Bool) (r v : Nat) : Option Cause :=
  if !listed || sregRo r then some .sysregInvalid
  else if !priv then some .privilege
  else if r = 0x010 ∧ 4096 < v then some .sysregInvalid
  else none

/-! ### The trap record (R370) -/

/-- The node field of `TNODE` and `TSEL`, plane bit apart (R370). -/
def nodeCode : NodeId → Nat
  | .panel p n => p + n * 2 ^ 14
  | .mg lvl sw u => sw % 1024 + u * 1024 + lvl * 2 ^ 11
  | .pc q u => q + u * 16

/-- The kind field of `TNODE` (R370). -/
def nodeKindCode : NodeId → Nat
  | .panel _ _ => 0
  | .mg _ _ _ => 1
  | .pc _ _ => 2

/-- The header register of an entry: header byte, and bit 8 when the entry is present (R370). -/
def hdrReg (e : Entry) : Nat := hdrOf e.tok + (if e.present then 256 else 0)

/-- An entry's payload or header register. -/
def entryReg (e : Entry) (hdr : Bool) : Nat := if hdr then hdrReg e else e.tok.payload.toNat

/-- A register token as an entry. -/
def present (t : Token) : Entry := { tok := t, present := true }

/-- The memory port m of the selected panel, as it stood at the entry (R370). -/
def selPort (s : State) (c m : Nat) : Plane :=
  let k := s.core c
  entryPlane s c (.panel (panelOf s k.tselNode k.tselLetter) (64 + m)) k.tselLetter

/-- The predicates as bits. -/
def predBits (p : Vector Bool 8) : Nat := outcomeBits p.toList

/-- Four residues as bytes. -/
def bytesNat (v : Vector Nat 4) : Nat := packNat 8 v.toList

/-- Reads a register of the trap record; none for a number that is not listed (R370). -/
def trapRead (s : State) (c : Nat) (r : Nat) : Option Nat :=
  let k := s.core c
  let t := servedTrap s c
  let v := s.inst t.inst
  let i := imageOf s c k.tselNode k.tselLetter
  let p := s.plane k.tselNode k.tselLetter
  let e := entryPlane s c k.tselNode k.tselLetter
  if r = 0x100 then
    some (if k.serving.isNone then 0 else t.cause.code + (causeCls t.cause).code * 64 + t.prec.toNat * 512 + t.phase.toNat * 1024
      + t.div.toNat * 2048 + v.tmulti * 65536)
  else if r = 0x101 then some (nodeCode t.node + nodeKindCode t.node * 2 ^ 21 + t.letter.bit.toNat * 2 ^ 23)
  else if r = 0x102 then some (t.slot + t.slotKind * 16)
  else if r = 0x103 then some t.fire
  else if r = 0x104 then some t.tw.toNat
  else if r = 0x105 then some t.aw.toNat
  else if r = 0x106 then some t.arg
  else if r = 0x107 then some v.twin
  else if r = 0x108 then some (t.va % 2 ^ 32)
  else if r = 0x109 then some (t.va / 2 ^ 32)
  else if r = 0x10A then some t.acc
  else if r = 0x10B then some (match t.upc with
    | some u => u % 64 + 256
    | none => 0)
  else if r = 0x10C then some t.done
  else if r = 0x110 then some (nodeCode k.tselNode + k.tselLetter.bit.toNat * 2 ^ 21)
  else if r = 0x112 then some k.tact
  else if r = 0x113 then some (if p.stop == .held && p.budget.isSome && p.budget != some 0 then 1 else 0)
  else if 0x120 ≤ r ∧ r ≤ 0x137 then some (entryReg i.slots[Fin.ofNat 12 ((r - 0x120) / 2)] (r % 2 == 1))
  else if 0x138 ≤ r ∧ r ≤ 0x13F then some (entryReg i.outs[Fin.ofNat 4 ((r - 0x138) / 2)] (r % 2 == 1))
  else if 0x140 ≤ r ∧ r ≤ 0x14F then some (entryReg (present i.g[Fin.ofNat 8 ((r - 0x140) / 2)]) (r % 2 == 1))
  else if 0x150 ≤ r ∧ r ≤ 0x15F then some (entryReg (present i.h[Fin.ofNat 8 ((r - 0x150) / 2)]) (r % 2 == 1))
  else if r = 0x160 then some (predBits i.p)
  else if r = 0x161 then some (bytesNat i.sticky)
  else if r = 0x162 then some i.pcw.toNat
  else if 0x170 ≤ r ∧ r ≤ 0x177 then
    let m := (selPort s c ((r - 0x170) / 2)).mp
    some (if r % 2 = 0 then m.committed % 2 ^ 32 else if m.buf.isEmpty then m.discarded else m.buf.length)
  else if 0x180 ≤ r ∧ r ≤ 0x18F then some (entryReg (present e.shadow.g[Fin.ofNat 8 ((r - 0x180) / 2)]) (r % 2 == 1))
  else if r = 0x190 then some (predBits e.shadow.p)
  else if r = 0x191 then some (bytesNat e.shadow.residue)
  else if r = 0x1F0 then some k.amode
  else none

/-- Whether a listed register of the trap record is RO (R370). -/
def trapRo (r : Nat) : Bool :=
  decide (r ≤ 0x10C) || (decide (0x170 ≤ r) && decide (r ≤ 0x191))

/-- Writes an entry's payload or header register; header bit 8 sets presence (R370). What arrival knew of the token is gone. -/
def setEntry (e : Entry) (hdr : Bool) (v : Nat) : Entry :=
  if hdr then { e with tok := tokOfHdr v e.tok.payload, present := bitOf v 8, bad := none, back := false }
  else { e with tok := { e.tok with payload := BitVec.ofNat 32 v }, bad := none, back := false }

/-- A write of a FIFO's image or of a residue leaves the port as the handler has it: a retire drops nothing there (R372, R386). -/
def keepHead (i : Image) (ks : List Nat) : Image := { i with opd := i.opd.filter fun k => !ks.contains k }

/-- Writes a register of the image that `TSEL` names (R370, R371). -/
def imageSet (i : Image) (r v : Nat) : Image :=
  let h := r % 2 == 1
  if 0x120 ≤ r ∧ r ≤ 0x137 then
    let j := Fin.ofNat 12 ((r - 0x120) / 2)
    keepHead { i with slots := i.slots.set j (setEntry i.slots[j] h v) } [j.val / 3]
  else if 0x138 ≤ r ∧ r ≤ 0x13F then
    let j := Fin.ofNat 4 ((r - 0x138) / 2)
    { i with outs := i.outs.set j (setEntry i.outs[j] h v) }
  else if 0x140 ≤ r ∧ r ≤ 0x14F then
    let j := Fin.ofNat 8 ((r - 0x140) / 2)
    { i with g := i.g.set j (setEntry (present i.g[j]) h v).tok }
  else if 0x150 ≤ r ∧ r ≤ 0x15F then
    let j := Fin.ofNat 8 ((r - 0x150) / 2)
    { i with h := i.h.set j (setEntry (present i.h[j]) h v).tok }
  else if r = 0x160 then { i with p := Vector.ofFn fun j => bitOf v j.val }
  else if r = 0x161 then
    keepHead { i with sticky := Vector.ofFn fun j => field v (8 * j.val + 7) (8 * j.val) }
      ((List.range 4).filter fun k => i.sticky.toList.getD k 0 != 0)
  else if r = 0x162 then { i with pcw := BitVec.ofNat 32 (v % 2 ^ 17) }
  else i

/-- The plane that a handler's step lets issue again, if it is held (R370). -/
def stepHeld (n : Nat) (p : Plane) : Plane := if p.stop = .held then { p with budget := some n } else p

/-- Writes a RW register of the trap record (R370). -/
def trapSet (s : State) (c r v : Nat) : State :=
  let k := s.core c
  if r = 0x110 then
    s.updCore c fun k => { k with tselNode := .panel (v % 2 ^ 14) (field v 20 14), tselLetter := Letter.ofBit (bitOf v 21) }
  else if r = 0x112 then s.updCore c fun k => { k with tact := v }
  else if r = 0x113 then
    if 1 ≤ v ∧ v ≤ 65535 then s.updPlane k.tselNode k.tselLetter (stepHeld v) else s
  else if r = 0x1F0 then s.updCore c fun k => { k with amode := v % 256 }
  else setImage s c k.tselNode k.tselLetter (imageSet (imageOf s c k.tselNode k.tselLetter) r v)

/-! ### RDSR and WRSR -/

/-- The context of the present step. -/
def actCtx (s : State) : Nat := (s.inst (actInst s)).ctx

/-- The context a core's handler runs for. -/
def coreCtx (s : State) : Nat := match s.cur with
  | .core c => (servedTrap s c).ctx
  | _ => actCtx s

/-- The core of the present step, if a core runs it. -/
def actCore (s : State) : Option Nat := match s.cur with
  | .core c => some c
  | _ => none

/-- What RDSR reads: the trap record in sequential mode, else a register of R187. -/
def rdsrVal (s : State) (r : Nat) : Option Nat :=
  if 0x100 ≤ r ∧ r ≤ 0x1FF then
    match actCore s with
    | some c => trapRead s c r
    | none => none
  else sregRead s (actInst s) (coreCtx s) r

/-- RDSR (R187). -/
def execRdsr (d : Dst) (sr : BitVec 10) (s : State) : Res :=
  .next (finish s 2 d [] (match rdsrVal s sr.toNat with
    | some v => w32Res (BitVec.ofNat 32 v)
    | none => { out := .error .sysregInvalid }))

/-- The cause that WRSR raises beyond its operand check (R128, R187). -/
def wrsrFault (s : State) (r v : Nat) : Option Cause :=
  match actCore s with
  | some c =>
    if 0x100 ≤ r ∧ r ≤ 0x1FF then (if (trapRead s c r).isNone || trapRo r then some .sysregInvalid else none)
    else sregFault true (sregRead s 0 0 r).isSome r v
  | none => sregFault (s.ctx (actCtx s)).priv (sregRead s 0 0 r).isSome r v

/-- WRSR (R187): in a slot the write takes effect at write-back, in a handler at once. DESIGN CHOICE (log 119): the operand check
comes before PRIVILEGE. -/
def execWrsr (a : Src) (sr : BitVec 10) (s : State) : Res :=
  let x := readSrc s .w32 a
  let v := x.tok.payload.toNat
  let r := sr.toNat
  let chk := (checkOpds .w32 [(x, .raw)]).or (wrsrFault s r v)
  match actCore s with
  | some c => .next (match chk with
    | some e => raise s e []
    | none => if 0x100 ≤ r then trapSet s c r v else s.updCtx (coreCtx s) (sregSet r v))
  | none => .next (launch s 2 .disc [a] chk (fun o => { o with kind := .wrsr, arg := r, fold := x.tok.payload }) fun _ t => t)

end Sys2Proof.Machine
end

