-- ==== Sys2Proof/Machine/Memory.lean ====
section
/-! DEFINITION. Loads, stores, fences and atomics, groups 0x8 and 0x9, and the gather, scatter and discard of group
0xA (R202 to R216, R220, R226). In a slot an instruction issues its accesses, which perform later; in a handler
they perform at once. -/

namespace Sys2Proof.Machine
open Sys2Proof

/-! ### Issue from a memory port -/

/-- Whether a destination is an out-port. -/
def isOut : Dst → Bool
  | .out _ => true
  | _ => false

/-- A new entry of an out-port's return queue for the `k`-th result of an operation (R207). -/
def retPush (s : State) (n : NodeId) (l : Letter) (d : Dst) (id k : Nat) (win : Option Nat) : State :=
  match d with
  | .out q => s.updOut n l q fun o => { o with retq := o.retq ++ [{ op := id, k := k, win := win }] }
  | _ => s

/-- The commit window in which a load through a window counts (R212). -/
def winCount (w : Nat) (x : Window) : Option Nat := if x.cwe then some w else none

/-- A memory port is busy for a number of its cycles (R207). -/
def setBusy (s : State) (n : NodeId) (l : Letter) (k : Nat) : State :=
  s.updPlane n l fun p => { p with mp := { p.mp with busy := s.cycle + slow s n k } }

/-- The `k`-th access of an operation (R209): one through a handle window reads the snapshot that the port's latch holds
(R223), and an STX names its target panel until it performs (R210). -/
def accessOf (s : State) (n : NodeId) (l : Letter) (op w : Nat) (x : Window) (f : Fmt) (acq rel : Bool) (k off : Nat) (act : AccAct) : Access :=
  let a := mkAccess s n l op w x act f off k acq rel
  if x.hv && act == .load then
    let sn := (latchFile s n l w).snap.getD {}
    { a with layered := some sn, st := .ready, due := a.due + slow s n (layerTime sn f) }
  else if x.space == .exchange && storeClass act then { a with home := exchTarget (panelOf s n l) x }
  else a

/-- What a memory port's instruction issues (R206, R207, R209): an operation of `total` accesses, of which the first goes
out now, keeping the port busy `total` cycles; the port issues the others one a cycle. `queued` sends its results through
the return queue. -/
def issueAccess (s : State) (d : Dst) (srcs : List Src) (w : Nat) (x : Window) (f : Fmt) (off total : Nat)
    (load queued acq rel : Bool) (chk : Option Cause) (act : AccAct) : State :=
  let n := actNode s
  let l := actLetter s
  launch s (spaceLat x) d srcs chk
    (fun o => { o with kind := .access, ready := false, total := total, win := w, fold := BitVec.ofNat 32 off, queued := queued, load := load })
    (fun o t =>
      let t := if queued && load then retPush t n l d o.id 0 (winCount w x) else t
      let t := pushAccess t x (accessOf t n l o.id w x f acq rel 0 off act)
      let t := if 1 < total then t.updPlane n l fun p => { p with mp := { p.mp with feed := some o.id } } else t
      setBusy t n l total)

/-! ### Accesses of a handler (R138, R213) -/

/-- The panel whose memories a handler's accesses reach: that of the trap (log 16). -/
def coreAccess (s : State) (w : Nat) (x : Window) (act : AccAct) (f : Fmt) (off : Nat) : Access :=
  { mkAccess s (actNode s) (actLetter s) 0 w x act f off 0 false false with inst := actInst s, ctx := coreCtx s }

/-- One access of a handler, performed at once: its translation by the home tile, then its effect. -/
def coreOne (s : State) (w : Nat) (x : Window) (act : AccAct) (f : Fmt) (off : Nat) : State × Except Cause Word :=
  let a := coreAccess s w x act f off
  if x.hv && act == .load then
    match x.handle with
    | none => (s, .error .layerShape)
    | some h =>
      let u := unitOf (panelOf s (actNode s) (actLetter s))
      let (s, sn) := takeSnap s u a.ctx h
      match layeredWord s u a.ctx sn f off with
      | (s, .error e) => (s, .error e.1)
      | (s, .ok v) => (s, .ok v)
  else if x.space == .exchange && storeClass act then
    let p := exchTarget (panelOf s (actNode s) (actLetter s)) x
    performAt s { a with home := homeExch p (!(s.panel p).front) off } .clean
  else if translated s x then
    let (s, p) := translate s a.ctx a.va
    match p, pageFault p (actRight act) with
    | some q, none => performAt s { a with home := pageHome q a.va } .clean
    | _, some e => (s, .error e)
    | none, none => (s, .error .pageNotPresent)
  else performAt s a .clean

/-- Accesses of a handler in order; the last word is the result. -/
def coreMany (s : State) (w : Nat) (x : Window) (f : Fmt) (last : Word) : List (Nat × AccAct) → State × Except Cause Word
  | [] => (s, .ok last)
  | e :: t =>
    match coreOne s w x e.2 f e.1 with
    | (s, .error c) => (s, .error c)
    | (s, .ok v) => coreMany s w x f v t

/-- A handler's access as its home tells what it reads: through a handle window, of the record as it now stands. -/
def coreReads (s : State) (w : Nat) (x : Window) (f : Fmt) (e : Nat × AccAct) : Access :=
  let a := coreAccess s w x e.2 f e.1
  match x.handle with
  | some h => if x.hv && e.2 == .load then { a with layered := some (takeSnap s 0 a.ctx h).2 } else a
  | none => a

/-- A handler's access that its home holds: an STX waits for its target's swap, a load for a copy that is past its promise, and a
store for a memory link that is down (R210, R219, R272). -/
def coreHeld (s : State) (w : Nat) (x : Window) (f : Fmt) (e : Nat × AccAct) : Bool :=
  let a := coreAccess s w x e.2 f e.1
  promiseHeld s (coreReads s w x f e)
    || (translated s x && !loadClass e.2 && (vaHome s a.ctx a.va).any (homeDown s)) || (x.space == .exchange && storeClass e.2 && stxHeld s { a with home := exchTarget (panelOf s (actNode s) (actLetter s)) x })

/-- A handler's memory instruction: its checks, its accesses, its result (R138); it waits while its home holds one. -/
def coreMem (s : State) (c : Nat) (d : Dst) (w : Nat) (x : Window) (f : Fmt) (chk : Option Cause)
    (acts : List (Nat × AccAct)) (tok : Word → Token) : State :=
  match chk with
  | some e => raise s e []
  | none =>
    if acts.any (coreHeld s w x f) then s.updCore c fun k => { k with wait := true }
    else
      match coreMany s w x f 0 acts with
      | (s, .error e) => raise s e []
      | (s, .ok v) => finish s 1 d [] { out := .ok (tok v) }

/-! ### One skeleton for loads, stores and atomics -/

/-- The checks of an access: operands, window, route (R36, R133, R200, R203, R405). -/
def memChk (s : State) (f : Fmt) (xs : List (Opd × OpCls)) (x : Window) (sps : List Space) (r : Right) (al size off : Nat) :
    Option Cause :=
  ((checkOpds f xs).or (winExtent x sps r al size off)).or (peerCheck s x)

/-- The class of `b` of a store: its `FMT` equals the instruction's unless that is 0 (R203). -/
def dataCls (f : Fmt) : OpCls := if f == .w32 then .raw else .same

/-- A load of `n` words (R209). -/
def memLoad (sps : List Space) (n : Nat) (f : Fmt) (d : Dst) (w : BitVec 4) (a : Src) (acq rel : Bool) (s : State) : State :=
  let y := readSrc s .w32 a
  let off := y.tok.payload.toNat
  let x := winOf s (actInst s) w.toNat
  let chk := memChk s f [(y, .w32)] x sps .read (4 * n) (4 * n) off
  match s.cur with
  | .core c => coreMem s c d w.toNat x f chk ((List.range n).map fun k => (off + 4 * k, AccAct.load)) fun v => { fmt := f, s := x.lset, payload := v }
  | _ => issueAccess s d [a] w.toNat x f off n true (isOut d) acq rel chk .load

/-- A store, the first of `n` words (R209); one that is not buffered leaves a trap imprecise (R369). -/
def memStore (sps : List Space) (n : Nat) (f : Fmt) (d : Dst) (w : BitVec 4) (a b : Src) (acq rel : Bool) (s : State) : State :=
  let y := readSrc s .w32 a
  let z := readSrc s f b
  let off := y.tok.payload.toNat
  let x := winOf s (actInst s) w.toNat
  let p := panelOf s (actNode s) (actLetter s)
  let out := if x.space == .exchange && !exchInside (s.inst (actInst s)) p x then some Cause.windowAccess else none
  let chk := (memChk s f [(y, .w32), (z, dataCls f)] x sps .write (4 * n) (4 * n) off).or out
  let act := AccAct.store z.tok.payload
  match s.cur with
  | .core c => coreMem s c d w.toNat x f chk [(off, act)] fun _ => { payload := y.tok.payload }
  | _ =>
    let r := issueAccess s d [a, b] w.toNat x f off n false (x.cwe && isOut d) acq rel chk act
    if chk.isNone && !x.cwe then impreciseAt r (actNode s) (actLetter s) else r

/-- An atomic or bank operation on one element (R214, R216). -/
def memAtomic (sps : List Space) (size : Nat) (f : Fmt) (cls : OpCls) (d : Dst) (w : BitVec 4) (a b : Src)
    (act : Word → AccAct) (own : Word → Token) (acq rel : Bool) (s : State) : State :=
  let y := readSrc s .w32 a
  let z := readSrc s f b
  let off := y.tok.payload.toNat
  let x := winOf s (actInst s) w.toNat
  let chk := memChk s f [(y, .w32), (z, cls)] x sps .atomic size size off
  match s.cur with
  | .core c => coreMem s c d w.toNat x f chk [(off, act z.tok.payload)] own
  | _ =>
    let r := issueAccess s d [a, b] w.toNat x f off 1 false false acq rel chk (act z.tok.payload)
    if chk.isNone then impreciseAt r (actNode s) (actLetter s) else r

/-- The four spaces of LDV, STV, GTH, SCT and the atomics (R202). -/
def fourSpaces : List Space := [.scratch, .slice, .device, .peer]

/-! ### Loads and stores of the five spaces (R209) -/

/-- LDS (R209). -/
def execLds (f : Fmt) (d : Dst) (w : BitVec 4) (a : Src) (acq rel : Bool) (s : State) : Res := .next (memLoad [.scratch] 1 f d w a acq rel s)
/-- LDL (R209). -/
def execLdl (f : Fmt) (d : Dst) (w : BitVec 4) (a : Src) (acq rel : Bool) (s : State) : Res := .next (memLoad [.slice] 1 f d w a acq rel s)
/-- LDD (R209). -/
def execLdd (f : Fmt) (d : Dst) (w : BitVec 4) (a : Src) (acq rel : Bool) (s : State) : Res := .next (memLoad [.device] 1 f d w a acq rel s)
/-- LDP (R209, R405). -/
def execLdp (f : Fmt) (d : Dst) (w : BitVec 4) (a : Src) (acq rel : Bool) (s : State) : Res := .next (memLoad [.peer] 1 f d w a acq rel s)
/-- LDX, of the front exchange bank (R209, R210). -/
def execLdx (f : Fmt) (d : Dst) (w : BitVec 4) (a : Src) (acq rel : Bool) (s : State) : Res := .next (memLoad [.exchange] 1 f d w a acq rel s)
/-- STS (R209). -/
def execSts (f : Fmt) (d : Dst) (w : BitVec 4) (a b : Src) (acq rel : Bool) (s : State) : Res := .next (memStore [.scratch] 1 f d w a b acq rel s)
/-- STL (R209). -/
def execStl (f : Fmt) (d : Dst) (w : BitVec 4) (a b : Src) (acq rel : Bool) (s : State) : Res := .next (memStore [.slice] 1 f d w a b acq rel s)
/-- STD (R209). -/
def execStd (f : Fmt) (d : Dst) (w : BitVec 4) (a b : Src) (acq rel : Bool) (s : State) : Res := .next (memStore [.device] 1 f d w a b acq rel s)
/-- STP (R209, R405). -/
def execStp (f : Fmt) (d : Dst) (w : BitVec 4) (a b : Src) (acq rel : Bool) (s : State) : Res := .next (memStore [.peer] 1 f d w a b acq rel s)
/-- STX, to a back exchange bank of the gusset (R209, R210). -/
def execStx (f : Fmt) (d : Dst) (w : BitVec 4) (a b : Src) (acq rel : Bool) (s : State) : Res := .next (memStore [.exchange] 1 f d w a b acq rel s)
/-- LDV, sixteen words (R209). -/
def execLdv (f : Fmt) (d : Dst) (w : BitVec 4) (a : Src) (acq rel : Bool) (s : State) : Res := .next (memLoad fourSpaces 16 f d w a acq rel s)
/-- STV, sixteen words whose later tokens the port takes as they arrive (R209). -/
def execStv (f : Fmt) (d : Dst) (w : BitVec 4) (a b : Src) (acq rel : Bool) (s : State) : Res := .next (memStore fourSpaces 16 f d w a b acq rel s)

/-! ### FEN, XBAR, PFD (R211, R213) -/

/-- FEN (R213): held until the node's earlier accesses have performed; in a handler they already have. -/
def execFen (d : Dst) (scope : BitVec 4) (s : State) : Res :=
  .next (match s.cur with
    | .core _ => finish s 1 d [] (w32Res 0)
    | _ => launch s 1 d [] none (fun o => { o with kind := .fence scope.toNat, toks := [{}] }) fun _ t => t)

/-- XBAR (R211): the panel's next XBAR of its instance has issued (R210). -/
def execXbar (d : Dst) (s : State) : Res :=
  let n := actNode s
  let l := actLetter s
  .next (launch s 1 d [] none (fun o => { o with kind := .xbar, ready := false }) fun _ t =>
    impreciseAt (t.updInst (instOf t n l) fun v => { v with xn := mupd v.xn (panelKey v (panelOf t n l)) (· + 1) }) n l)

/-- PFD (R213): no visible effect, and no fault beyond that of its operand. -/
def execPfd (_w : BitVec 4) (a : Src) (s : State) : Res :=
  let y := readSrc s .w32 a
  .next (finish s 1 .disc [a] (match checkOpds .w32 [(y, .w32)] with
    | some e => { out := .error e }
    | none => w32Res 0))

/-! ### Atomics (R214 to R216) -/

/-- A W32 atomic, by its opcode's low digit (R214). -/
def wAtomic (op : Nat) (c : Word) (d : Dst) (w : BitVec 4) (a b : Src) (acq rel : Bool) (s : State) : Res :=
  .next (memAtomic fourSpaces 4 .w32 .raw d w a b (fun v => .atomic op .w32 v c) (fun v => { payload := v }) acq rel s)

/-- AADD (R214). -/
def execAadd (d : Dst) (w : BitVec 4) (a b : Src) (acq rel : Bool) (s : State) : Res := wAtomic 0 0 d w a b acq rel s
/-- AFADD (R214). -/
def execAfadd (f : Fmt) (d : Dst) (w : BitVec 4) (a b : Src) (acq rel : Bool) (s : State) : Res :=
  .next (memAtomic fourSpaces 4 f .same d w a b (fun v => .atomic 1 f v 0) (fun v => { fmt := f, payload := v }) acq rel s)
/-- AMIN (R214). -/
def execAmin (d : Dst) (w : BitVec 4) (a b : Src) (acq rel : Bool) (s : State) : Res := wAtomic 2 0 d w a b acq rel s
/-- AMAX (R214). -/
def execAmax (d : Dst) (w : BitVec 4) (a b : Src) (acq rel : Bool) (s : State) : Res := wAtomic 3 0 d w a b acq rel s
/-- AAND (R214). -/
def execAand (d : Dst) (w : BitVec 4) (a b : Src) (acq rel : Bool) (s : State) : Res := wAtomic 4 0 d w a b acq rel s
/-- AOR (R214). -/
def execAor (d : Dst) (w : BitVec 4) (a b : Src) (acq rel : Bool) (s : State) : Res := wAtomic 5 0 d w a b acq rel s
/-- AXOR (R214). -/
def execAxor (d : Dst) (w : BitVec 4) (a b : Src) (acq rel : Bool) (s : State) : Res := wAtomic 6 0 d w a b acq rel s
/-- AXCH (R214). -/
def execAxch (d : Dst) (w : BitVec 4) (a b : Src) (acq rel : Bool) (s : State) : Res := wAtomic 7 0 d w a b acq rel s
/-- ACAS: d is the new value and receives the old one (R214). -/
def execAcas (d : Dst) (w : BitVec 4) (a b : Src) (acq rel : Bool) (s : State) : Res :=
  wAtomic 8 (readSrc s .w32 (dstSrc d)).tok.payload d w a b acq rel s
/-- SIGW (R214). -/
def execSigw (d : Dst) (w : BitVec 4) (a b : Src) (acq rel : Bool) (s : State) : Res :=
  .next (memAtomic [.device, .peer] 8 .w32 .raw d w a b .sigw (fun v => { payload := v }) acq rel s)
/-- BUPD (R216). -/
def execBupd (f : Fmt) (d : Dst) (w : BitVec 4) (a b : Src) (acq rel : Bool) (s : State) : Res :=
  .next (memAtomic [.slice] 4 f .same d w a b (.bupd f) (fun _ => { payload := (readSrc s .w32 a).tok.payload }) acq rel s)

/-- BRED (R216): a count of 0 or above 4,096 is out of bounds, and the extent is checked as a whole. -/
def execBred (f : Fmt) (d : Dst) (w : BitVec 4) (a b : Src) (acq rel : Bool) (s : State) : Res :=
  let y := readSrc s .w32 a
  let z := readSrc s .w32 b
  let off := y.tok.payload.toNat
  let n := z.tok.payload.toNat
  let x := winOf s (actInst s) w.toNat
  let cnt := if n = 0 ∨ 4096 < n then some Cause.windowBounds else none
  let chk := ((checkOpds f [(y, .w32), (z, .raw)]).or (winExtent x [.slice] .atomic 4 0 off)).or
    (cnt.or (winExtent x [.slice] .atomic 4 (n * elemSize f) off))
  .next (match s.cur with
    | .core c => coreMem s c d w.toNat x f chk [(off, AccAct.bred f n)] fun v => { fmt := .f32, payload := v }
    | _ =>
      let r := issueAccess s d [a, b] w.toNat x f off 1 false false acq rel chk (.bred f n)
      if chk.isNone then impreciseAt r (actNode s) (actLetter s) else r)

/-! ### Gather, scatter, discard (R220, R226) -/

/-- The checks of GTH and SCT beyond their operands (R36, R200, R220). -/
def rowChk (s : State) (x : Window) (r : Right) (i : Nat) : Option Cause :=
  if !winAdmits x fourSpaces r || x.rstr == 0 then some .windowAccess
  else if x.len < i * x.rstr * 4 + (x.roww + 1) * 4 then some .gatherIndex
  else peerCheck s x

/-- GTH (R220): a row's words as tokens. -/
def execGth (f : Fmt) (d : Dst) (w : BitVec 4) (a : Src) (acq rel : Bool) (s : State) : Res :=
  let y := readSrc s .w32 a
  let i := y.tok.payload.toNat
  let x := winOf s (actInst s) w.toNat
  let off := i * x.rstr * 4
  let n := x.roww + 1
  let chk := (checkOpds f [(y, .w32)]).or (rowChk s x .read i)
  .next (issueAccess s d [a] w.toNat x f off n true (isOut d) acq rel chk .load)

/-- SCT (R220): a row's words from b's in-port; the token carries the row's byte offset. -/
def execSct (f : Fmt) (d : Dst) (w : BitVec 4) (a b : Src) (acq rel : Bool) (s : State) : Res :=
  let y := readSrc s .w32 a
  let z := readSrc s f b
  let i := y.tok.payload.toNat
  let x := winOf s (actInst s) w.toNat
  let off := i * x.rstr * 4
  let n := x.roww + 1
  let chk := (checkOpds f [(y, .w32), (z, dataCls f)]).or (rowChk s x .write i)
  let r := issueAccess s d [a, b] w.toNat x f off n false (x.cwe && isOut d) acq rel chk (.store z.tok.payload)
  .next (if chk.isNone && !x.cwe then impreciseAt r (actNode s) (actLetter s) else r)

/-- DSC (R226): the granule's address is a multiple of 64 KiB. -/
def execDsc (d : Dst) (w : BitVec 4) (a : Src) (acq rel : Bool) (s : State) : Res :=
  let y := readSrc s .w32 a
  let off := y.tok.payload.toNat
  let x := winOf s (actInst s) w.toNat
  let al := if (x.base + off) % 65536 = 0 then 1 else 2 ^ 64
  let chk := (checkOpds .w32 [(y, .w32)]).or
    (if !winAdmits x [.device] .write then some .windowAccess
     else if al ≠ 1 then some .alignment else winExtent x [.device] .write 1 65536 off)
  let n := actNode s
  let l := actLetter s
  let r := launch s (spaceLat x) d [a] chk
    (fun o => { o with kind := .access, ready := false, total := 1, win := w.toNat, fold := y.tok.payload })
    (fun o t =>
      let c := mkAccess t n l o.id w.toNat x .dsc .w32 off 0 acq rel
      pushAccess t x { c with st := .ready, home := c.va })
  .next (if chk.isNone then impreciseAt r n l else r)

/-! ### Layered tensors (R224) -/

/-- An LT instruction on the record `va` (R224): it is serialised at the record's home. -/
def issueLt (s : State) (d : Dst) (srcs : List Src) (w : Nat) (x : Window) (va op : Nat) (a b : Word) (acq rel : Bool)
    (chk : Option Cause) : State :=
  let n := actNode s
  let l := actLetter s
  let r := launch s (spaceLat x) d srcs chk
    (fun o => { o with kind := .access, ready := false, total := 1, win := w, fold := a })
    (fun o t =>
      let c := mkAccess t n l o.id w x (.lt op a b) .w32 0 0 acq rel
      pushAccess t x { c with st := .ready, va := va, home := va })
  if chk.isNone then impreciseAt r n l else r

/-- The window checks of an LT instruction: device memory without `WR` (R224). -/
def ltWindow (x : Window) : Option Cause :=
  if x.described && x.space == .device && !x.wr then none else some .windowAccess

/-- LTA, LTD, LTP and LTQ act on the handle that the port's latch of w holds (R224). -/
def ltOp (op : Nat) (d : Dst) (w : BitVec 4) (a : Src) (b : Option Src) (more : Word → Option Cause) (acq rel : Bool) (s : State) : State :=
  let y := readSrc s .w32 a
  let z := match b with
    | some q => readSrc s .w32 q
    | none => { tok := { payload := 0xFFFFFFFF }, const := true }
  let x := winOf s (actInst s) w.toNat
  let h := (latchFile s (actNode s) (actLetter s) w.toNat).handle
  let chk := (checkOpds .w32 [(y, .w32), (z, .raw)]).or
    ((ltWindow x).or ((if h.isNone then some .layerShape else none).or (more y.tok.payload)))
  issueLt s d (a :: b.toList) w.toNat x (h.getD 0) op y.tok.payload z.tok.payload acq rel chk

/-- LTB (R224): the record is that of the handle slot in a. -/
def execLtb (d : Dst) (w : BitVec 4) (a b : Src) (acq rel : Bool) (s : State) : Res :=
  let y := readSrc s .w32 a
  let z := readSrc s .w32 b
  let x := winOf s (actInst s) w.toNat
  let h := (s.inst (actInst s)).pat.handles[y.tok.payload.toNat]?
  let chk := (checkOpds .w32 [(y, .w32), (z, .raw)]).or
    ((ltWindow x).or (if h.isNone then some .layerShape else none))
  .next (issueLt s d [a, b] w.toNat x (h.getD 0) 4 y.tok.payload z.tok.payload acq rel chk)

/-- LTA (R224). -/
def execLta (d : Dst) (w : BitVec 4) (a b : Src) (acq rel : Bool) (s : State) : Res := .next (ltOp 5 d w a (some b) (fun _ => none) acq rel s)
/-- LTD (R224). -/
def execLtd (d : Dst) (w : BitVec 4) (a b : Src) (acq rel : Bool) (s : State) : Res := .next (ltOp 6 d w a (some b) (fun _ => none) acq rel s)
/-- LTP (R224, R290). -/
def execLtp (d : Dst) (w : BitVec 4) (a b : Src) (acq rel : Bool) (s : State) : Res := .next (ltOp 7 d w a (some b) (fun _ => none) acq rel s)
/-- LTQ (R224): a selector above 3 is out of bounds. -/
def execLtq (d : Dst) (w : BitVec 4) (a : Src) (acq rel : Bool) (s : State) : Res :=
  .next (ltOp 8 d w a none (fun v => if 3 < v.toNat then some .windowBounds else none) acq rel s)

end Sys2Proof.Machine
end

