-- ==== Sys2Proof/Machine/Copy.lean ====
section
/-! DEFINITION. Copies and promises (R217 to R219): CPY and CPYS, the engine that moves a copy's chunks for a node or
for the queue unit (R317), and the words of a window that the engines of a panel read and write. -/

namespace Sys2Proof.Machine
open Sys2Proof

/-! ### Words of a window -/

/-- Where an engine reaches memory from: its panel, and the plane and latch file through which it translates, none for the
queue unit and for a copy whose instance has ended. -/
abbrev PortRef := Nat × Option (NodeId × Letter × Nat)

/-- The translation of an engine's access: through the port's latch file, or by the home tile (R277, R283). -/
def engineXlate (s : State) (p : PortRef) (c va : Nat) (x : Window) (r : Right) : State × Except Cause Page :=
  match p.2 with
  | some (n, l, w) =>
    match portXlate (notePage s n l w x va) n l w c va r with
    | (s, .error e) => (s, .error e)
    | (s, .ok q) => (runAhead s n l w c x (va / 65536), .ok q)
  | none =>
    let (s, g) := translate s c va
    (s, match g, pageFault g r with
      | some q, none => .ok q
      | _, some e => .error e
      | none, none => .error .pageNotPresent)

/-- What an engine reads as the words of a window for a copy: a handle window's through the copy's snapshot (R305). -/
def winRead4 (s : State) (p : PortRef) (c : Nat) (x : Window) (sn : Option Snapshot) (off : Nat) : State × Except Fail Word :=
  let va := x.base + off
  if x.hv then
    let sn := sn.getD {}
    layeredWord s (unitOf p.1) c sn sn.efmt off
  else if translated s x then
    match engineXlate s p c va x .read with
    | (s, .error e) => (s, .error (e, va))
    | (s, .ok q) =>
      match readPage s c va 4 q with
      | (s, .error e) => (s, .error (e, va))
      | (s, .ok bs) => (s, .ok (wordOfBytes bs))
  else
    match (peerCheck s x).map fun e => (s, e) with
    | some (s, e) => (s, .error (e, va))
    | none =>
      match peerAnswer s x.space x.peer with
      | (s, some e) => (s, .error (e, va))
      | (s, none) =>
        let h := physHome s p.1 x off
        match eccBytes s c h 4 with
        | (s, some e) => (s, .error (e, va))
        | (s, none) => (s, .ok (memWord s.mem h))

/-- Writes a word of a window for an engine; none as the cause says that a down memory link did not perform it (R272). -/
def winWrite4 (s : State) (p : PortRef) (c : Nat) (x : Window) (off : Nat) (v : Word) : State × Except (Option Fail) Unit :=
  let va := x.base + off
  if translated s x then
    match engineXlate s p c va x .write with
    | (s, .error e) => (s, .error (some (e, va)))
    | (s, .ok q) =>
      if homeDown s (pageHome q va) then (s, .error none) else (writePage s c va q (bytesOfWord v), .ok ())
  else
    match (peerCheck s x).map fun e => (s, e) with
    | some (s, e) => (s, .error (some (e, va)))
    | none =>
      match peerAnswer s x.space x.peer with
      | (s, some e) => (s, .error (some (e, va)))
      | (s, none) => ({ s with mem := memPutWord s.mem (physHome s p.1 x off) v }, .ok ())

/-- Reads `n` words of a window. -/
def winReads (s : State) (p : PortRef) (c : Nat) (x : Window) (sn : Option Snapshot) (off : Nat) : Nat → State × Except Fail (List Word)
  | 0 => (s, .ok [])
  | n + 1 =>
    match winRead4 s p c x sn off with
    | (s, .error e) => (s, .error e)
    | (s, .ok v) =>
      match winReads s p c x sn (off + 4) n with
      | (s, .error e) => (s, .error e)
      | (s, .ok vs) => (s, .ok (v :: vs))

/-- Writes words of a window. -/
def winWrites (s : State) (p : PortRef) (c : Nat) (x : Window) (off : Nat) : List Word → State × Except (Option Fail) Unit
  | [] => (s, .ok ())
  | v :: t =>
    match winWrite4 s p c x off v with
    | (s, .error e) => (s, .error e)
    | (s, .ok ()) => winWrites s p c x (off + 4) t

/-- The access of one word of a window that a node's copy makes, for what its home says of it. -/
def wordAccess (s : State) (n : NodeId) (l : Letter) (c op at_ : Nat) (x : Window) (act : AccAct) (off : Nat) : Access :=
  { node := n, letter := l, op := op, inst := instOf s n l, ctx := c, space := x.space, act := act, va := x.base + off,
    home := physHome s (panelOf s n l) x off, peer := x.peer, opAt := at_ }

/-- The latest store of a node to a word, of those that it has buffered or that have still to perform; none if it has no
such store (R205). -/
def ownWord (s : State) (a : Access) : Option Word :=
  let late := s.accs.filter fun e => e.2.node == a.node && decide (e.2.op < a.op) && sameBytes a e.2
  let stores := late.filterMap fun e => match e.2.act with
    | .store v => some (e.1, v)
    | _ => none
  match stores.foldl (fun r e => if (r.map (·.1)).getD 0 < e.1 then some e else r) none with
  | some e => some e.2
  | none => ownStore s a

/-- Words as a node's copy reads them: its own earlier stores in place of what memory holds (R205). -/
def ownWords (s : State) (n : NodeId) (l : Letter) (c op : Nat) (x : Window) (off : Nat) (ws : List Word) : List Word :=
  ws.zipIdx.map fun e => (ownWord s (wordAccess s n l c op s.cycle x .load (off + 4 * e.2))).getD e.1

/-! ### The descriptor and its checks (R217, R218) -/

/-- The 256-bit number of eight words. -/
def wordsNat (ws : List Word) : Nat := packNat 32 (ws.map (·.toNat))

/-- A copy as a descriptor gives it (R217). -/
def copyOf (d : Nat) (signal : Bool) (wins : List Window) : CopyJob :=
  let sw := field d 3 0
  let dw := field d 7 4
  { swn := sw, dwn := dw, swin := wins.getD sw {}, dwin := wins.getD dw {}, gwin := wins.getD (field d 11 8) {}, signal := signal
    soff := field d 63 32, doff := field d 95 64, goff := field d 255 224, clen := field d 127 96, rows := field d 143 128 + 1
    sstr := field d 191 160, dstr := field d 223 192 }

/-- The format of a descriptor (R218). -/
def copyShape (d : Nat) (signal : Bool) (j : CopyJob) : Bool :=
  decide (field d 31 12 = 0) && decide (field d 159 144 = 0) && (signal || (decide (field d 11 8 = 0) && decide (j.goff = 0)))
    && decide (j.clen ≠ 0) && decide (j.clen % 4 = 0) && decide (j.sstr % 4 = 0) && decide (j.dstr % 4 = 0)

/-- The extent of a window's rows (R218). -/
def rowsExtent (j : CopyJob) (str : Nat) : Nat := (j.rows - 1) * str + j.clen

/-- The checks of a CPYS signal (R200, R218). -/
def gwinCheck (j : CopyJob) : Option Cause :=
  if !(j.gwin.described && (j.gwin.space == .device || j.gwin.space == .peer)) then some .windowAccess
  else if !winRight j.gwin .atomic then some .windowAccess
  else if j.goff % 8 ≠ 0 then some .alignment
  else if j.gwin.len < j.goff + 8 then some .windowBounds
  else none

/-- The checks of a copy past its descriptor window: shape, source, destination, signal (R36, R200, R218; log 17 for
their order). -/
def copyCheck (s : State) (d : Nat) (j : CopyJob) : Option Cause :=
  if !copyShape d j.signal j then some .windowAccess
  else
    (winExtent j.swin fourSpaces .read 4 (rowsExtent j j.sstr) j.soff).or
      ((winExtent j.dwin fourSpaces .write 4 (rowsExtent j j.dstr) j.doff).or
        ((if j.signal then gwinCheck j else none).or ((peerCheck s j.swin).or (peerCheck s j.dwin))))

/-! ### The promise (R219) -/

/-- B and Q of a space (R219). -/
def promiseRate (sp : Space) : Nat × Nat :=
  match sp with
  | .scratch => (32, 64)
  | .slice => (64, 64)
  | .device => (1024, 16)
  | .peer => (8192, 8)
  | .exchange => (32, 64)

/-- The promised cycle T of a copy issued in cycle c (R219). -/
def promiseOf (c : Nat) (j : CopyJob) : Nat :=
  let a := promiseRate j.swin.space
  let b := promiseRate j.dwin.space
  let r := if a.1 < b.1 then b else a
  c + r.1 + (j.clen * j.rows + r.2 - 1) / r.2

/-! ### CPY and CPYS -/

/-- A stall fault at issue: the firing's operands go into the record, and a continue lets the slot fire again (R281). -/
def stallIssue (s : State) (c : Cause) (va acc : Nat) (ps : List (Fin 4)) : State :=
  match s.cur with
  | .slot n l k => consumeAll (takeTrap s { slotTrap s n l k c (consumedOps s ps) with va := va, acc := acc }) n l ps
  | _ => s

/-- A request's bytes are subtracted from a limiter (R330). -/
def spendAt (s : State) (c : Nat) (k : Option (Fin 3)) (bytes : Nat) : State :=
  match k with
  | some k => spend s c k bytes
  | none => s

/-- The copy's job, as its firing queues it. -/
def queueCopy (n : NodeId) (l : Letter) (j : CopyJob) (o : Op) (s : State) : State :=
  impreciseAt (s.updPlane n l fun p =>
    { p with copies := p.copies ++ [{ j with op := o.id, slot := o.slot, tw := o.tw, aw := o.aw, fire := o.fire }] }) n l

/-- CPY and CPYS (R217 to R219): the descriptor is read, a load at its limiter (R330), and checked at issue, the copy queued, d receives
the promise. -/
def copyInstr (signal : Bool) (d : Dst) (w : BitVec 4) (a : Src) (acq rel : Bool) (s : State) : State :=
  let y := readSrc s .w32 a
  let off := y.tok.payload.toNat
  let n := actNode s
  let l := actLetter s
  let i := actInst s
  let c := (s.inst i).ctx
  let x := winOf s i w.toNat
  let ps := srcPorts [a]
  match memChk s .w32 [(y, .w32)] x fourSpaces .read 32 32 off with
  | some e => raise s e ps
  | none =>
    let f := latchFile s n l w.toNat
    let s := spendAt s c (limiterVa s c x.space x.peer (x.base + off)) 16
    match winReads s (panelOf s n l, some (n, l, w.toNat)) c x f.snap off 8 with
    | (s, .error e) => if causeCls e.1 = .s then stallIssue s e.1 e.2 (w.toNat * 8) ps else raise s e.1 ps
    | (s, .ok ws) =>
      let dn := wordsNat (ownWords s n l c s.ids x off ws)
      let j := copyOf dn signal (s.inst i).wins
      let j := { j with inst := i, ctx := c, run := (s.inst i).run, issued := s.cycle, acq := acq, rel := rel,
                        snap := if j.swin.hv then (latchFile s n l j.swn).snap else none }
      let t := promiseOf s.cycle j
      launch s 1 d [a] (copyCheck s dn j) (fun o => { o with toks := [{ payload := BitVec.ofNat 32 t }] })
        fun o r => queueCopy n l { j with promise := t } o r

/-- CPY (R217 to R219). -/
def execCpy (d : Dst) (w : BitVec 4) (a : Src) (acq rel : Bool) (s : State) : Res := .next (copyInstr false d w a acq rel s)
/-- CPYS (R217 to R219). -/
def execCpys (d : Dst) (w : BitVec 4) (a : Src) (acq rel : Bool) (s : State) : Res := .next (copyInstr true d w a acq rel s)

/-! ### The engine (R218) -/

/-- Bytes of a whole copy. -/
def copyBytes (j : CopyJob) : Nat := j.clen * j.rows

/-- The row, offset and length of the chunk at a byte position (R218). -/
def chunkAt (j : CopyJob) : Nat × Nat × Nat :=
  let r := j.pos / j.clen
  let b := j.pos % j.clen
  (r, b, min 64 (j.clen - b))

/-- The limiter of a side of a copy at an offset of its window (R330). -/
def sideLimiter (s : State) (c : Nat) (x : Window) (off : Nat) : Option (Fin 3) :=
  if x.hv then some 0 else limiterVa s c x.space x.peer (x.base + off)

/-- The limiters of a copy's next chunk: that of its read and that of its write (R330). -/
def chunkLimiters (s : State) (j : CopyJob) : Option (Fin 3) × Option (Fin 3) :=
  let (r, b, _) := chunkAt j
  (sideLimiter s j.ctx j.swin (j.soff + r * j.sstr + b), sideLimiter s j.ctx j.dwin (j.doff + r * j.dstr + b))

/-- Moves one chunk: read whole, a node's own earlier stores seen, then written; the copy as it then stands, or its fault and
whether the destination raised it (R205, R218). -/
def moveChunk (s : State) (ps pd : PortRef) (j : CopyJob) : State × Except (Option (Fail × Bool)) CopyJob :=
  let (r, b, k) := chunkAt j
  let off := j.soff + r * j.sstr + b
  match winReads s ps j.ctx j.swin j.snap off (k / 4) with
  | (s, .error e) => (s, .error (some (e, false)))
  | (s, .ok ws) =>
    let ws := match ps.2 with
      | some (n, l, _) => if j.swin.hv then ws else ownWords s n l j.ctx j.op j.swin off ws
      | none => ws
    match winWrites s pd j.ctx j.dwin (j.doff + r * j.dstr + b) ws with
    | (s, .error (some e)) => (s, .error (some (e, true)))
    | (s, .error none) => (s, .error none)
    | (s, .ok ()) =>
      let q := chunkLimiters s j
      (spendAt (spendAt s j.ctx q.1 16) j.ctx q.2 k, .ok { j with pos := j.pos + k, since := none })

/-- The plane whose copy a node runs: the older of its two queues' heads (R218). -/
def copyLetter (s : State) (n : NodeId) : Option Letter :=
  match (s.plane n .a).copies, (s.plane n .b).copies with
  | [], [] => none
  | _ :: _, [] => some .a
  | [], _ :: _ => some .b
  | j :: _, k :: _ => some (if j.op ≤ k.op then .a else .b)

/-- Replaces the head of a plane's copies. -/
def setCopy (s : State) (n : NodeId) (l : Letter) (j : CopyJob) : State :=
  s.updPlane n l fun p => { p with copies := j :: p.copies.tail }

/-- The trap of a copy (R370). -/
def copyTrap (s : State) (n : NodeId) (l : Letter) (j : CopyJob) (c : Cause) (va acc : Nat) : Trap :=
  { cause := c, node := n, letter := l, inst := instOf s n l, slot := j.slot, slotKind := 3, fire := j.fire, tw := j.tw, aw := j.aw,
    op := j.op, va := va, acc := acc, done := j.pos }

/-- The `TACC` of a copy's fault (R370). -/
def chunkAcc (j : CopyJob) (dst : Bool) : Nat := if dst then 4 + j.dwn * 8 else 3 + j.swn * 8

/-- Whether a copy has outlived its instance (R183, R335). -/
def orphan (s : State) (n : NodeId) (l : Letter) (j : CopyJob) : Bool := decide (instOf s n l ≠ j.inst)

/-- Where a copy's side translates: by the node's latch file of its window, or once its instance has ended by the home tile. -/
def copyPort (s : State) (n : NodeId) (l : Letter) (j : CopyJob) (w : Nat) : PortRef :=
  (panelOf s n l, if orphan s n l j then none else some (n, l, w))

/-- The words that a copy's next chunk reads, as loads of its node (R291). -/
def chunkLoads (s : State) (n : NodeId) (l : Letter) (j : CopyJob) : List Access :=
  let (r, b, k) := chunkAt j
  (List.range (k / 4)).map fun q =>
    { wordAccess s n l j.ctx j.op j.issued j.swin .load (j.soff + r * j.sstr + b + 4 * q) with
      win := j.swn, layered := if j.swin.hv then some (j.snap.getD {}) else none }

/-- Whether a copy's next chunk must wait: its plane stalled, its first read held by a phase, or by a copy past its promise
(R219, R281, R293). -/
def copyHeld (s : State) (n : NodeId) (l : Letter) (j : CopyJob) : Bool :=
  (!orphan s n l j && ((match (s.plane n l).stop with
      | .stall _ => true
      | .fault _ => true
      | _ => false) || phaseHeld s n l j.issued true))
  || (chunkLoads s n l j).any (promiseHeld s)

/-- A side of a copy lies at a peer whose links have all gone down since its issue (R413). -/
def sideLost (s : State) (x : Window) : Bool :=
  x.space == .peer && !ownPeer s x && (mget s.peers x.peer).2 && (peerLinks s x.peer).isEmpty

/-- A fault stops a copy: against its slot, or once its instance has ended by ending its launch with the fault's cause. DESIGN
CHOICE (log 35): the spec gives such a copy no slot to fault against. -/
def copyFault (s : State) (n : NodeId) (l : Letter) (j : CopyJob) (c : Cause) (va acc : Nat) : State :=
  if orphan s n l j then
    let s := s.updPlane n l fun p => { p with copies := p.copies.tail }
    if (mget? s.runs j.run).isSome then faultRun s j.run c else s
  else takeTrap s (copyTrap s n l j c va acc)

/-- Whether a copy waits to start: none of its node runs, and no fence, no earlier `.ACQ` access, no earlier access to its
bytes, and for `.REL` no earlier access at all holds it (R204, R205, R213, R218). -/
def copyStarts (s : State) (n : NodeId) (l : Letter) (j : CopyJob) : Bool :=
  let p := panelOf s n l
  let mine := s.accs.filter fun e => e.2.node == n && decide (e.2.op < j.op)
  let bufs := (nodeBuf s n).filter fun b => decide (b.op < j.op)
  !j.started && !((s.plane n l.other).copies.any (·.started)) && !fencesBefore s n j.op
    && (mine.all fun e => !(j.rel || e.2.acq || copyOrdered s p j e.2))
    && bufs.all fun b => !(j.rel || b.acq || copyWrites s p j (commitAccess s n l b)
        || (b.ord && decide (b.inst = j.inst) && (decide (b.win = j.swn) || decide (b.win = j.dwn))))

/-- COPY_START (R204, R205, R213, R218): the node's oldest copy begins once nothing holds it. -/
def execCopyStart (n : NodeId) (s : State) : Res :=
  .next (match copyLetter s n with
    | none => s
    | some l =>
      match (s.plane n l).copies with
      | [] => s
      | j :: _ => if copyStarts s n l j then setCopy s n l { j with started := true } else s)

/-- Adds to a signal in another peer's memory (R405). -/
def peerSignal (s : State) (peer va : Nat) (v : Int) : State :=
  let h := homePeer peer va
  { s with mem := memPutDouble s.mem h (codeOf 64 (signedOf 64 (memDouble s.mem h) + v)) }

/-- The signal add of a CPYS, in device memory, at this device as a peer, or at another peer (R218, R405); withheld while its VF is
descheduled (R398). -/
def copySignal (s : State) (j : CopyJob) : State × Option Cause :=
  let va := j.gwin.base + j.goff
  if translated s j.gwin then
    if descheduled s j.ctx then (withhold s j.ctx (.add j.ctx va (-1) false), none)
    else signalOp s j.ctx va .atomic (· - 1)
  else
    match peerCheck s j.gwin with
    | some e => (s, some e)
    | none =>
      if descheduled s j.ctx then (withhold s j.ctx (.peerAdd j.ctx j.gwin.peer va (-1)), none)
      else match peerAnswer s .peer j.gwin.peer with
        | (s, some e) => (s, some e)
        | (s, none) => (peerSignal s j.gwin.peer va (-1), none)

/-- A copy that has passed its promise, and whose fault has still to be raised (R219). -/
def promiseDue (s : State) (n : NodeId) (l : Letter) (j : CopyJob) : Bool :=
  !j.missed && decide (j.promise < s.cycle) && !orphan s n l j

/-- A plane's oldest copy is done, which counts as progress of its instance (R363). -/
def copyDone (s : State) (n : NodeId) (l : Letter) (j : CopyJob) : State :=
  let s := s.updPlane n l fun p => { p with copies := p.copies.tail }
  if orphan s n l j then s else s.updInst j.inst fun v => { v with progress := s.cycle, idle := 0, quiet := 0 }

/-- COPY_COMPLETE (R218, R219): every byte has been moved; CPYS adds to its signal. One that is past its promise faults first. -/
def execCopyComplete (n : NodeId) (s : State) : Res :=
  .next (match copyLetter s n with
    | none => s
    | some l =>
      match (s.plane n l).copies with
      | [] => s
      | j :: _ =>
        let stalled := match (s.plane n l).stop with
          | .stall _ => !orphan s n l j
          | _ => false
        if !j.started || decide (j.pos < copyBytes j) || stalled || (j.signal && !eventFree s j.ctx) then s
        else if promiseDue s n l j then takeTrap (setCopy s n l { j with missed := true }) (copyTrap s n l j .promiseMissed 0 0)
        else if j.signal then
          match copySignal s j with
          | (s, some e) => copyFault s n l j e (j.gwin.base + j.goff) 2
          | (s, none) => copyDone s n l j
        else copyDone s n l j)

/-- The copies of a plane with the first one that has passed its promise marked. -/
def markMissed (cyc : Nat) : List CopyJob → Option (CopyJob × List CopyJob)
  | [] => none
  | j :: t =>
    if !j.missed && decide (j.promise ≤ cyc) then some (j, { j with missed := true } :: t)
    else (markMissed cyc t).map fun r => (r.1, j :: r.2)

/-- PROMISE_MISSED (R219): from cycle T on, a copy that has not completed faults once and goes on. -/
def execPromiseMissed (n : NodeId) (s : State) : Res :=
  let try_ (l : Letter) : Option State :=
    (markMissed s.cycle (s.plane n l).copies).map fun r =>
      let t := s.updPlane n l fun p => { p with copies := r.2 }
      if orphan s n l r.1 then t else takeTrap t (copyTrap s n l r.1 .promiseMissed 0 0)
  .next (((try_ .a).or (try_ .b)).getD s)

end Sys2Proof.Machine
end

