-- ==== Sys2Proof/Machine/Lanes.lean ====
section
/-! DEFINITION. The state of a matrix array (R228): its banks, lanes and block structure (R51, R229, R230), and what its
edge loaders read next (R241). -/

namespace Sys2Proof.Machine
open Sys2Proof

/-! ### State of an array -/

/-- An mxa node. -/
def mxaNode (p : Nat) : NodeId := .panel p 70

/-- Changes a plane's array. -/
def updMxa (s : State) (n : NodeId) (l : Letter) (f : Mxa → Mxa) : State :=
  s.updPlane n l fun p => { p with mxa := f p.mxa }

/-- A bank of an array (R228). -/
def Mxa.bank (m : Mxa) : Bool → Bank
  | false => m.bank0
  | true => m.bank1

/-- Replaces a bank. -/
def Mxa.setBank (m : Mxa) (b : Bool) (v : Bank) : Mxa :=
  match b with
  | false => { m with bank0 := v }
  | true => { m with bank1 := v }

/-- A loader of an array. -/
def Mxa.loader (m : Mxa) : Edge → Option LoadOp
  | .west => m.loadW
  | .north => m.loadN

/-- Replaces a loader. -/
def Mxa.setLoader (m : Mxa) (e : Edge) (v : Option LoadOp) : Mxa :=
  match e with
  | .west => { m with loadW := v }
  | .north => { m with loadN := v }

/-- `DDEF`, `CHE` and `CHS` of an array's `MXC` word (R115). -/
def mxcOf (p : Plane) : Nat := (p.ext.getD 16 0).toNat

/-- `CHE` (R115). -/
def cheOf (p : Plane) : Bool := bitOf (mxcOf p) 4
/-- `CHS` (R115). -/
def chsOf (p : Plane) : Bool := bitOf (mxcOf p) 5

/-- The engine of a plane works: the plane is not stopped by a fault and not paused (R236, R362, R381). -/
def engineOn (p : Plane) : Bool :=
  p.parity.isNone && (match p.stop with
    | .fault _ => false
    | .stall _ => false
    | _ => true)

/-- An operation of an engine is complete: it is ready to write back (R233). -/
def opDone (s : State) (n : NodeId) (l : Letter) (id : Nat) : State :=
  s.updOp n l id fun o => { o with ready := true, due := s.cycle }

/-- Removes an operation from the units of an array. -/
def dropUnits (id : Nat) (m : Mxa) : Mxa :=
  { m with
    tiles := m.tiles.filter fun t => !decide (t.op = id)
    drain := m.drain.filter fun d => !decide (d.op = id)
    loadW := m.loadW.filter fun d => !decide (d.op = id)
    loadN := m.loadN.filter fun d => !decide (d.op = id)
    mdl := m.mdl.filter fun d => !decide (d.op = id)
    cmpr := m.cmpr.filter fun d => !decide (d.op = id) }

/-- An operation of an array faults after `done` steps; what it has performed stands (R236, R252). -/
def unitFault (s : State) (n : NodeId) (l : Letter) (id done : Nat) (c : Cause) : State :=
  opFault (updMxa (s.updOp n l id fun o => { o with done := done }) n l (dropUnits id)) n l id c

/-! ### Lanes (R51, R229, R230) -/

/-- Entries of a lane (R228). -/
def laneCap : Nat := 4

/-- A block format. -/
def isBlk (f : Fmt) : Bool := f == .x8 || f == .x4

/-- Whether a DATA token at a lane's head breaks the block structure (R51). -/
def badElem (t : Token) (b : BlkSt) : Bool := isBlk t.fmt && (!decide (b.used < 32) || t.fmt != b.fmt)

/-- A lane whose head has changed: a BLKH at the head opens its block and leaves the lane (log 18); the flag is a fault
of block structure (R51). -/
def laneHead (ts : List Token) (b : BlkSt) : List Token × BlkSt × Bool :=
  match ts with
  | [] => ([], b, false)
  | t :: r =>
    if t.kind == .blkh then
      if decide (b.used < 32) || !isBlk t.fmt || decide (65536 ≤ t.payload.toNat) then (ts, b, true)
      else
        let b := { hdr := t.payload, fmt := t.fmt, used := 0 }
        (r, b, match r with
          | [] => false
          | u :: _ => u.kind == .blkh || badElem u b)
    else (ts, b, badElem t b)

/-- The number of a lane of an edge. -/
def laneIx (e : Edge) (k : Nat) : Fin 32 := Fin.ofNat 32 ((match e with
  | .west => 0
  | .north => 16) + k)

/-- Whether a lane has a free entry. -/
def laneFree (m : Mxa) (i : Fin 32) : Bool := decide (m.lanes[i].length < laneCap)

/-- A token enters a lane (R229). -/
def pushLane (s : State) (n : NodeId) (l : Letter) (i : Fin 32) (t : Token) : State :=
  let m := (s.plane n l).mxa
  if m.lanes[i].isEmpty then
    let (ts, b, bad) := laneHead [t] m.blks[i]
    let s := updMxa s n l fun m => { m with lanes := m.lanes.set i ts, blks := m.blks.set i b }
    if bad then headFault s n l .blockExponent else s
  else updMxa s n l fun m => { m with lanes := m.lanes.set i (m.lanes[i] ++ [t]) }

/-- A block after one of its tokens has been taken. -/
def useBlk (f : Fmt) (b : BlkSt) : BlkSt :=
  if isBlk f then { b with used := min 32 (b.used + f.lanes) } else b

/-! ### Bit errors in an array's own memory (R252, R266) -/

/-- The place of an array's accumulator among the words that can hold a bit error. -/
def accHome (p : Nat) (l : Letter) (bank : Bool) (e : Nat) : Nat :=
  2 ^ 80 + (2 * p + l.bit.toNat) * 8192 + ((if bank then 256 else 0) + e) * 8

/-- The place of a lane's words. -/
def laneHome (p : Nat) (l : Letter) (i : Nat) : Nat := 2 ^ 80 + (2 * p + l.bit.toNat) * 8192 + 4096 + i * 8

/-- Whether a read of a word meets an error that the code cannot correct. -/
def wordFails (s : State) (h : Nat) : Bool := (upsetsIn s h 4).any (·.2)

/-- Reads of a list of words: single-bit errors are corrected, each failure counts; the first failure is the fault (R266). -/
def readWords (s : State) (c : Nat) (hs : List Nat) : State × Option Cause :=
  hs.foldl (fun x h =>
    let (s, e) := eccBytes x.1 c h 4
    (s, x.2.or e)) (s, none)

/-! ### What an edge loader reads (R201, R241) -/

/-- The first line and word of a load at byte address A (R241). -/
def loadLine (a : Nat) : Nat × Nat := (a / 128, a / 4 % 32)

/-- The block headers a load takes of i2 in all, and those it needs before its next k-group (R241). -/
def headersOf (d : LoadOp) : Nat × Nat :=
  if isBlk d.fmt then (16 * (d.k * d.fmt.lanes / 32), 16 * (d.pos * d.fmt.lanes / 32 + 1)) else (0, 0)

/-- Whether the other loader is older and still takes headers of i2. -/
def headersAhead (m : Mxa) (e : Edge) (d : LoadOp) : Bool :=
  match m.loader (match e with
    | .west => .north
    | .north => .west) with
  | some o => decide (o.op < d.op) && decide (o.blk < (headersOf o).1)
  | none => false

/-- The cycles of a slab of an LDT: as many as its words hold columns of sixteen, one word index each (R241). -/
def slabLen (d : LoadOp) : Nat := 16 / d.fmt.lanes

/-- The first line and the word index that a load reads in its next cycle (R241): an LDE a word further on in the same lines, an LDT
the next word of its slab of sixteen lines. -/
def readAt (d : LoadOp) : Nat × Nat :=
  let (l0, w0) := loadLine d.addr
  if d.trans then (l0 + 16 * (d.pos / slabLen d), w0 + d.pos % slabLen d) else (l0, w0 + d.pos)

/-- The scratchpad bytes of the sixteen words that a load reads in its next cycle, one word index over sixteen lines (R201, R241). -/
def groupHomes (p : Nat) (x : Window) (d : LoadOp) : List Nat :=
  let (line, word) := readAt d
  (List.range 16).map fun k => homeScratch p (swizzle x.swz (128 * (line + k) + 4 * word))

/-- The lanes that the next cycle of an LDT assembles tokens for: those whose columns its word holds (R241). -/
def slabLanes (d : LoadOp) : List Nat := (List.range d.fmt.lanes).map fun r => d.fmt.lanes * (d.pos % slabLen d) + r

/-- A loader is to read in this cycle: its time has come, its headers are placed, and every lane has room, or of an LDT has taken
what the slab before has given it. -/
def groupNext (s : State) (m : Mxa) (e : Edge) (d : LoadOp) : Bool :=
  decide (d.pos < d.k) && decide (d.next ≤ s.cycle) && decide ((headersOf d).2 ≤ d.blk)
    && (if d.trans then (slabLanes d).all fun k => !d.slab.any fun e => e.1 == k
        else (List.range 16).all fun k => laneFree m (laneIx e k))

end Sys2Proof.Machine
end

