-- ==== Sys2Proof/Machine/Banks.lean ====
section
/-! DEFINITION. Which request goes first: the banks of scratchpads, exchange banks and slices, one access a cycle each (R201,
R267, R268), the rate limiters (R330), the memory links and Ethernet ports (R399), and with them when an access performs and a copy's next chunk moves. -/

namespace Sys2Proof.Machine
open Sys2Proof

/-! ### Banks (R201, R267, R268) -/

/-- A unit that serves one access a cycle: kind and number. -/
abbrev BankId := Nat × Nat

/-- The bank of a word's home: one of a panel's 32 scratchpad banks, an exchange bank, or one of a slice's 16 sub-banks (R201,
R265, R267, R268). -/
def bankOf (h : Nat) : Option BankId :=
  if h < 2 ^ 53 then none
  else if h < 2 ^ 54 then some (0, (h - 2 ^ 53) / 2 ^ 17 * 32 + h / 4 % 32)
  else if h < 2 ^ 55 then some (1, (h - 2 ^ 54) / 2 ^ 13)
  else if h < 2 ^ 56 then some (2, (h - 2 ^ 55) / 2 ^ 28 * 16 + h / 4 % 16)
  else none

/-- The access as it performs: an STX goes to the bank that is now at the back of its target (R210). -/
def atHome (s : State) (a : Access) : Access :=
  if a.space == .exchange && storeClass a.act then { a with home := homeExch a.home (!(s.panel a.home).front) a.va } else a

/-- The banks that an access needs in the cycle in which it performs: a BRED's sixteen words of it lie in every sub-bank. -/
def accBanks (s : State) (a : Access) : List BankId :=
  match a.space with
  | .device => []
  | .peer => []
  | _ =>
    let b := sweepOf (atHome s a)
    (((List.range (max 1 (min 16 (actBytes b.act / 4)))).filterMap fun k => bankOf (b.home + 4 * k))).dedup

/-- The rank of a unit of a panel at a bank: the edge loaders, then cp, then mp0 to mp3 (R201). -/
def unitRank : NodeId → Nat
  | .panel _ k => if k = 70 then 0 else if k = 68 then 1 else k
  | _ => 128

/-- The place of a request in its bank's order: the cycle of its arrival, its panel, its unit, its age. -/
abbrev Rank := Nat × Nat × Nat × Nat

/-- Whether one place comes before another. -/
def Rank.before (a b : Rank) : Bool :=
  decide (a.1 < b.1) || (a.1 == b.1 && (decide (a.2.1 < b.2.1) || (a.2.1 == b.2.1 && (decide (a.2.2.1 < b.2.2.1)
    || (a.2.2.1 == b.2.2.1 && decide (a.2.2.2 < b.2.2.2))))))

/-- The place of a request at a bank. A scratchpad bank and the front of an exchange bank take the unit of highest rank, however
long others have waited; a slice and the back of an exchange bank take what has arrived first, and of one cycle the lowest panel
(R201, R267, R268). -/
def rankAt (b : BankId) (stx : Bool) (at_ panel : Nat) (n : NodeId) (id : Nat) : Rank :=
  if b.1 = 2 ∨ stx = true then (at_, panel, unitRank n, id) else (0, 0, unitRank n, id)

/-- A store of a commit window is buffered in place of performing, until it is committed (R212). -/
def buffers (s : State) (a : Access) : Bool :=
  !a.commit && (winOf s a.inst a.win).cwe && (match a.act with
    | .store _ => a.space != .exchange
    | _ => false)

/-- The places of an access at its banks. -/
def accRanks (s : State) (id : Nat) (a : Access) : List (Rank × BankId) :=
  (accBanks s a).map fun b =>
    (rankAt b (a.space == .exchange && storeClass a.act) a.due (panelOf s a.node a.letter) a.node id, b)

/-- Whether an access asks for its banks now. -/
def accAsks (s : State) (id : Nat) (a : Access) : Bool := !buffers s a && a.layered.isNone && accReady s id a

/-! ### Copies at the banks and limiters -/

/-- The words that a copy's next chunk writes. -/
def chunkStores (s : State) (n : NodeId) (l : Letter) (j : CopyJob) : List Access :=
  let (r, b, k) := chunkAt j
  (List.range (k / 4)).map fun q => wordAccess s n l j.ctx j.op j.issued j.dwin (.store 0) (j.doff + r * j.dstr + b + 4 * q)

/-- The places of a copy's next chunk at its banks. -/
def copyRanks (s : State) (n : NodeId) (l : Letter) (j : CopyJob) : List (Rank × BankId) :=
  let ws := (if j.swin.hv then [] else chunkLoads s n l j) ++ chunkStores s n l j
  ((ws.flatMap (accBanks s)).dedup).map fun b => (rankAt b false (j.since.getD s.cycle) (panelOf s n l) n j.op, b)

/-- A node's running copy that would move a chunk in this cycle, its limiter and banks apart. -/
def copyAsks (s : State) (n : NodeId) : Option (Letter × CopyJob) :=
  match copyLetter s n with
  | none => none
  | some l =>
    match (s.plane n l).copies with
    | [] => none
    | j :: _ => if j.started && decide (j.pos < copyBytes j) && !copyHeld s n l j then some (l, j) else none

/-- A plane's engine has worked, and does so again only in the next cycle of its clock (R423; log 1). -/
def engineRests (s : State) (n : NodeId) (l : Letter) : Bool :=
  match (s.plane n l).worked with
  | some c => decide (c ≤ s.cycle) && decide (s.cycle < c + slow s n 1)
  | none => false

/-! ### The rate limiters (R330) -/

/-- The class of an instance's requests (R326, R330). -/
def instCls (s : State) (i : Nat) : Nat := max (s.inst i).setCls (s.inst i).inhCls

/-- The class of a copy's requests: its instance's, or its packet's. -/
def copyCls (s : State) (j : CopyJob) : Nat := if (mget? s.insts j.inst).isSome then instCls s j.inst else runCls s (mget s.runs j.run)

/-- The requests that wait at a limiter of a VF: class and age of each (R330). -/
def limiterQueue (s : State) (k : Fin 3) (vf : Nat) : List (Nat × Nat) :=
  let here (c : Nat) : Bool := decide ((s.ctx c).vf = vf)
  let asks (j : CopyJob) : Bool := here j.ctx && ((chunkLimiters s j).1 == some k || (chunkLimiters s j).2 == some k)
  ((s.accs.filter fun e => here e.2.ctx && limiterOf s e.2 == some k && !e.2.commit && !buffers s e.2 && accReady s e.1 e.2).map
      fun e => (instCls s e.2.inst, e.1))
    ++ (s.nodes.filterMap fun e => match copyAsks s e.1 with
      | some (_, j) => if asks j then some (copyCls s j, j.op) else none
      | none => none)
    ++ (s.qcopies.filterMap fun e => match e.2 with
      | (_, j) :: _ => if decide (j.pos < copyBytes j) && asks j then some (copyCls s j, j.op) else none
      | [] => none)

/-- A request passes a limiter: its level is above zero, and of those that wait none has a higher class, or the same class and a
greater age; a rate of 0 is unlimited (R330, R387). -/
def limiterPasses (s : State) (k : Option (Fin 3)) (c cls age : Nat) : Bool :=
  match k with
  | none => true
  | some k =>
    (s.vf (s.ctx c).vf).lims[k].rate == 0
      || (limiterOpen s c k && (limiterQueue s k (s.ctx c).vf).all fun e => !(decide (cls < e.1) || (e.1 == cls && decide (e.2 < age))))

/-- An access passes its limiter; a committed store does not wait there (R330). -/
def accPasses (s : State) (id : Nat) (a : Access) : Bool := a.commit || limiterPasses s (limiterOf s a) a.ctx (instCls s a.inst) id

/-- A copy's next chunk passes the limiters of its read and its write (R330). -/
def copyPasses (s : State) (j : CopyJob) : Bool :=
  limiterPasses s (chunkLimiters s j).1 j.ctx (copyCls s j) j.op && limiterPasses s (chunkLimiters s j).2 j.ctx (copyCls s j) j.op

/-! ### Memory links and Ethernet ports (R399) -/

/-- The memory link controller or Ethernet port that serves a request (R271, R399, R406, R408). -/
def linkServer (s : State) (sp : Space) (peer va home : Nat) : Option BankId :=
  if inDevice s sp peer then
    if home < 2 ^ 52 then (linkOfPa s home).map fun k => (3, k.1)
    else if isFar home then some (4, field (mget s.ends ((home - 2 ^ 60) / 2 ^ 40)).1 4 1) else none
  else if sp == .peer then (peerLink s peer va).map fun k => (4, k / 4)
  else none

/-- The server of a VA of a context: that of its page. -/
def vaServer (s : State) (c va : Nat) : Option BankId := linkServer s .device 0 va ((vaHome s c va).getD (2 ^ 52))

/-- The server of an access: of a DSC its page's, of an LT instruction its record's, of a load through a handle window its base
word's. -/
def accServer (s : State) (a : Access) : Option BankId :=
  match a.act, a.layered with
  | .dsc, _ => vaServer s a.ctx a.va
  | .lt _ _ _, _ => vaServer s a.ctx a.va
  | _, some sn => vaServer s a.ctx (sn.base + (a.va - (winOf s a.inst a.win).base))
  | _, none => match a.link with
    | some k => some (4, k / 4)
    | none => linkServer s a.space a.peer a.va a.home

/-- The server of one side of a copy. -/
def sideServer (s : State) (c : Nat) (x : Window) (off : Nat) : Option BankId :=
  let va := x.base + off
  linkServer s x.space x.peer va (((homePage s c va).map fun q => pageHome q va).getD (2 ^ 52))

/-- The server of a copy's next chunk: its destination's, else its source's. -/
def copyServer (s : State) (j : CopyJob) : Option BankId :=
  let (r, b, _) := chunkAt j
  (sideServer s j.ctx j.dwin (j.doff + r * j.dstr + b)).or (sideServer s j.ctx j.swin (j.soff + r * j.sstr + b))

/-- A request at a server: its VF, class, age and bytes (R330, R399). -/
abbrev LinkReq := Nat × Nat × Nat × Nat

/-- The next chunk of a copy as a request. -/
def copyReq (s : State) (j : CopyJob) : LinkReq := ((s.ctx j.ctx).vf, copyCls s j, j.op, (chunkAt j).2.2)

/-- The head of the copies of a queue unit's engine, when its next chunk may move (R317). -/
def qcopyAsks (s : State) (js : List (Nat × CopyJob)) : Option CopyJob :=
  match js with
  | (_, j) :: _ => if j.pos < copyBytes j ∧ j.issued ≤ s.cycle then some j else none
  | [] => none

/-- The requests that have passed their limiters and wait at a server. -/
def linkQueue (s : State) (b : BankId) : List LinkReq :=
  let passed (j : CopyJob) : Bool := copyPasses s j && copyServer s j == some b
  (s.accs.filterMap fun e =>
      if !e.2.commit && !buffers s e.2 && accReady s e.1 e.2 && accServer s e.2 == some b && accPasses s e.1 e.2 then
        some ((s.ctx e.2.ctx).vf, instCls s e.2.inst, e.1, requestBytes e.2.act) else none)
    ++ (s.nodes.filterMap fun e => match copyAsks s e.1 with
      | some (l, j) => if !engineRests s e.1 l && passed j then some (copyReq s j) else none
      | none => none)
    ++ (s.qcopies.filterMap fun e => match qcopyAsks s e.2 with
      | some j => if passed j then some (copyReq s j) else none
      | none => none)

/-- Of two requests of a VF the one served first: the higher class, then the greater age (R330). -/
def LinkReq.first (a b : LinkReq) : LinkReq :=
  if a.2.1 < b.2.1 ∨ (a.2.1 = b.2.1 ∧ b.2.2.1 < a.2.2.1) then b else a

/-- A VF's request that is served first. -/
def headReq (q : List LinkReq) (v : Nat) : Option LinkReq :=
  match q.filter fun r => r.1 == v with
  | [] => none
  | r :: t => some (t.foldl LinkReq.first r)

/-- The VF of a list that comes next after another in cyclic order. -/
def nextVf (c : Nat) (vs : List Nat) : Option Nat := (List.range 256).findSome? fun k => vs.find? fun v => v == (c + 1 + k) % 256

/-- A VF's weight (R387). -/
def vfWeight (s : State) (v : Nat) : Nat :=
  let w := field (s.vf v).cfg 39 32
  if w = 0 then 16 else w

/-- Deficit round robin (R399): the VF being served goes on while its deficit covers its next request; the turn then goes to the
next VF with a request, which gets its quantum. A VF without requests keeps no deficit. -/
def drrPick (s : State) (d : Drr) (q : List LinkReq) : Option (LinkReq × Drr) :=
  let next : Option (LinkReq × Drr) := match nextVf d.cur (q.map (·.1)) with
    | none => none
    | some v =>
      let ks := d.left.filter fun e => q.any fun r => r.1 == e.1
      (headReq q v).map fun r => (r, { cur := v, left := mset ks v (mget ks v + 64 * vfWeight s v) })
  match headReq q d.cur with
  | some r => if r.2.2.2 ≤ mget d.left d.cur then some (r, d) else next
  | none => next

/-- A server serves a request now; one with no such server is served at once. -/
def linkServes (s : State) (b : Option BankId) (age : Nat) : Bool :=
  match b with
  | none => true
  | some b => match drrPick s (mget s.drr b) (linkQueue s b) with
    | some (r, _) => r.2.2.1 == age
    | none => true

/-- The round robin of a server after it has served its pick of a state. -/
def useLink (s : State) (b : Option BankId) (t : State) : State :=
  match b with
  | none => t
  | some b => match drrPick s (mget s.drr b) (linkQueue s b) with
    | some (r, d) => { t with drr := mset t.drr b { d with left := mset d.left d.cur (mget d.left d.cur - r.2.2.2) } }
    | none => t

/-- The server that an access asks in turn with others; a committed store goes past the round robin (R399). -/
def askServer (s : State) (a : Access) : Option BankId := if a.commit then none else accServer s a

/-- A link has carried an access: the flit at its head has got across (R412). -/
def crossLink (k : Option Nat) (t : State) : State :=
  match k with
  | some k => { t with ports := mupd t.ports (k / 4) fun p => { p with tries := p.tries.set (Fin.ofNat 4 k) 0 } }
  | none => t

/-! ### Service -/

/-- The places of an edge loader's next k-group at its banks, when it delivers one in this cycle; with `SWZ` none it holds its one
bank for sixteen cycles (R241). -/
def loaderRanks (s : State) (p : Nat) (l : Letter) (e : Edge) : List (Rank × BankId) :=
  let n := mxaNode p
  let q := s.plane n l
  match q.mxa.loader e with
  | none => []
  | some d =>
    let x := winOf s q.inst d.win
    let asks := groupNext s q.mxa e d || (x.swz == 0 && decide (0 < d.pos) && decide (s.cycle < d.next))
    if !asks || phaseHeld s n l (((s.op? n l d.op).map (·.issued)).getD 0) true then []
    else ((groupHomes p x d).filterMap bankOf).dedup.map fun b => (rankAt b false 0 p n (match e with
      | .west => 0
      | .north => 1), b)

/-- Every request that stands at a bank in this cycle. -/
def bankQueue (s : State) : List (Rank × BankId) :=
  (s.accs.flatMap fun e => if accAsks s e.1 e.2 then accRanks s e.1 e.2 else [])
    ++ (s.nodes.flatMap fun e => match copyAsks s e.1 with
      | some (l, j) =>
        if engineRests s e.1 l = true ∨ copyPasses s j = false ∨ linkServes s (copyServer s j) j.op = false then [] else copyRanks s e.1 l j
      | none => [])
    ++ (s.nodes.flatMap fun e => match e.1 with
      | .panel p 70 => [Letter.a, Letter.b].flatMap fun l =>
          if engineRests s e.1 l then [] else loaderRanks s p l .west ++ loaderRanks s p l .north
      | _ => [])

/-- The banks serve a request now: none has served another in this cycle, and no request before it stands at one. -/
def served (s : State) (mine : List (Rank × BankId)) : Bool :=
  mine.isEmpty || (mine.all fun m => !s.used.contains m.2 && (bankQueue s).all fun q => !(q.2 == m.2 && q.1.before m.1))

/-- Banks have served their access of this cycle. -/
def useBanks (s : State) (bs : List BankId) : State := { s with used := s.used ++ bs }

/-- Whether an access may perform now. -/
def canPerform (s : State) (id : Nat) (a : Access) : Bool :=
  accReady s id a && accPasses s id a && linkServes s (askServer s a) id && (a.layered.isSome || served s (accRanks s id a))

/-- One cycle of a node's copy engine: the running copy moves its next chunk; a fault stops it against its slot (R201, R218, R219,
R330). -/
def copyWork (s : State) (n : NodeId) : State :=
  match copyAsks s n with
  | none => s
  | some (l, j) =>
    let wait := setCopy s n l { j with since := some (j.since.getD s.cycle) }
    let (r, b, _) := chunkAt j
    if sideLost s j.swin then copyFault s n l j .linkDown (j.swin.base + j.soff + r * j.sstr + b) (chunkAcc j false)
    else if sideLost s j.dwin then copyFault s n l j .linkDown (j.dwin.base + j.doff + r * j.dstr + b) (chunkAcc j true)
    else if !copyPasses s j || !linkServes s (copyServer s j) j.op || !served s (copyRanks s n l j) then wait
    else
      match moveChunk s (copyPort s n l j j.swn) (copyPort s n l j j.dwn) j with
      | (t, .ok j') => useLink s (copyServer s j) (useBanks (setCopy t n l j') ((copyRanks s n l j).map (·.2)))
      | (_, .error none) => wait
      | (t, .error (some (e, dst))) => copyFault t n l j e.1 e.2 (chunkAcc j dst)

end Sys2Proof.Machine
end

