-- ==== Sys2Proof/Machine/MemEvents.lean ====
section
/-! DEFINITION. The memory events: accesses performing, translation answers, layer units and presses, shootdowns,
low-water queries, reclaims, exchange swaps and the zeroing of panel and slice memories. An event whose
conditions do not hold leaves the state as it is. -/

namespace Sys2Proof.Machine
open Sys2Proof

/-! ### Accesses (R206, R209, R210, R212) -/

/-- Whether a store enters the commit buffer now: translated, after the port's earlier ones, none held at the buffer. -/
def canBuffer (s : State) (id : Nat) (a : Access) : Bool :=
  a.st == .ready && (s.plane a.node a.letter).mp.held.isNone
    && s.accs.all fun e => !(decide (e.1 < id) && e.2.node == a.node && e.2.letter == a.letter && buffers s e.2)

/-- A fault of an access over a VA: a stall keeps it, any other abandons its operation (R227, R281). -/
def accFault (s : State) (id : Nat) (a : Access) (c : Cause) (va : Nat) : State :=
  if causeCls c = .s then stallAccess s id a c va
  else opFault ({ s with accs := mdel s.accs id }.updOp a.node a.letter a.op fun o => { o with done := a.k }) a.node a.letter a.op c

/-- The performing of an STX is noted for the panel's next XBAR (R211). -/
def noteStx (s : State) (a : Access) : State :=
  if a.space == .exchange && storeClass a.act then s.updPanel (panelOf s a.node a.letter) fun p => { p with xlast := s.cycle } else s

/-- Whether a page lies in a range of VAs. -/
def inRange (lo len vpn : Nat) : Bool := decide (lo / 65536 ≤ vpn) && decide (vpn < lo / 65536 + len)

/-- Whether a latched page covers a page of a range. -/
def latchIn (lo len : Nat) (p : Page) : Bool :=
  let a := p.start / 65536
  decide (a < lo / 65536 + len) && decide (lo / 65536 < a + p.size / 65536)

/-- Whether a plane of a context holds a latched page of a range. -/
def holdsLatch (s : State) (c lo len : Nat) (p : Plane) : Bool :=
  decide (p.inst ≠ 0) && decide ((s.inst p.inst).ctx = c) && p.latch.any fun e => e.2.pages.any fun q => latchIn lo len q

/-- The nodes of a context that hold a latched page of a range: those the hardware mark is placed at (R280). -/
def markNodes (s : State) (c lo len : Nat) : List NodeId :=
  (s.nodes.filter fun e => holdsLatch s c lo len e.2.pa || holdsLatch s c lo len e.2.pb).map (·.1)

/-- Whether what a node issued before a mark has finished (R256, R280): accesses, results, copies. -/
def finishedBefore (s : State) (n : NodeId) (at_ : Nat) : Bool :=
  let ok (p : Plane) : Bool :=
    (p.ops.all fun o => decide (at_ ≤ o.id) || p.mp.buf.any fun b => b.op == o.id)
    && (p.copies.all fun j => decide (at_ ≤ j.op))
    && ((List.finRange 4).all fun k => p.outs[k].slot.isNone && p.outs[k].retq.all fun e => decide (at_ ≤ e.op))
  (s.accs.all fun e => !(decide (e.1 < at_) && e.2.node == n)) && ok (s.plane n .a) && ok (s.plane n .b)

/-- The layer units that hold a line of a context's range (R280). -/
def markUnits (s : State) (c lo len : Nat) : List Nat :=
  (s.lunits.filter fun e => e.2.any fun x => decide (x.1 = c) && inRange lo len (x.2.1 / 65536)).map (·.1)

/-- The press engines that hold a latched page of a context's range (R280). -/
def markPresses (s : State) (c lo len : Nat) : List Nat :=
  (s.presses.filter fun e => e.2.any fun p => decide (p.ctx = c) && p.latch.any fun f => f.2.pages.any fun q => latchIn lo len q).map (·.1)

/-- Whether the mark at a layer unit has emerged: the loads that it served before have finished. -/
def unitPast (s : State) (c at_ u : Nat) : Bool :=
  s.accs.all fun e => !(decide (e.1 < at_) && decide (e.2.ctx = c) && e.2.layered.isSome && decide (unitOf (panelOf s e.2.node e.2.letter) = u))

/-- Whether two ranges of bytes meet. -/
def meets (a n b m : Nat) : Bool := decide (a < b + m) && decide (b < a + n)

/-- Whether the rows that a press has still to form read or write a range (R280). -/
def pressIn (p : Press) (lo len : Nat) : Bool :=
  let a := lo / 65536 * 65536
  let n := 65536 * len
  let left := (p.snap.rows - p.row) * p.snap.rstride
  meets (p.snap.base + p.row * p.snap.rstride) left a n || meets (p.nbase + p.row * p.snap.rstride) left a n
    || p.snap.layers.any fun y =>
      if y.low then meets y.ava (p.snap.rows * y.rank * elemSize y.vfmt) a n || meets y.bva (y.rank * p.snap.cols * elemSize y.vfmt) a n
      else meets y.ava (4 * y.nnz) a n || meets y.bva (y.nnz * elemSize y.vfmt) a n

/-- Whether the mark at a press engine has emerged: the press that read the range has moved past it. -/
def pressPast (s : State) (c lo len at_ die : Nat) : Bool :=
  match pressHead s die with
  | some p => p.ctx != c || decide (at_ ≤ p.id) || p.fault.isSome || !pressIn p lo len
  | none => true

/-- The marks of a DSC have emerged: at its own node once what issued before it has finished, elsewhere once what issued before
the discard has, and at layer units and press engines (R280, R287). -/
def dscMarked (s : State) (a : Access) (at_ : Nat) (ns : List NodeId) (us ds : List Nat) : Bool :=
  (ns.all fun n => if n = a.node then finishedBefore s n a.op else finishedBefore s n at_)
    && us.all (unitPast s a.ctx at_) && ds.all (pressPast s a.ctx a.va 1 at_)

/-- A DSC discards its page, and performs once the marks at the latches of the page have emerged (R226, R287). -/
def performDsc (s : State) (id : Nat) (a : Access) : State :=
  match performAt s a .clean with
  | (t, .error c) => accFault t id a c a.va
  | (t, .ok _) =>
    let st := AccSt.marks t.ids (markNodes s a.ctx a.va 1) (markUnits s a.ctx a.va 1) (markPresses s a.ctx a.va 1)
    useLink s (askServer s a) { t with accs := mset t.accs id { a with st := st } }

/-- An access has performed with result `v`: a committed store counts, an STX is noted, and its operation goes on (R206, R211,
R212). -/
def performed (s : State) (id : Nat) (a : Access) (v : Word) : State :=
  noteStx (countCommit (accDone s id a (ownResult a.act) v) a) a

/-- An access goes through its bank or link in this cycle; a BRED that has more words goes on in the next (R201, R216, R268,
R399). -/
def performNow (s : State) (id : Nat) (a : Access) (e : Ecc) : State :=
  match performAt s (sweepOf (atHome s a)) e with
  | (t, .error c) => accFault t id a c a.va
  | (t, .ok v) =>
    let t := if sweepsOn a then { t with accs := mset t.accs id { a with swept := a.swept + 16, part := some v, due := s.cycle + slow s a.node 1 } }
      else performed t id a v
    crossLink a.link (useLink s (askServer s a) (useBanks t (accBanks s a)))

/-- ACCESS_PERFORM (R201, R206, R209, R212, R214, R266, R287). -/
def execAccessPerform (id : Nat) (e : Ecc) (s : State) : Res :=
  .next (match mget? s.accs id with
    | none => s
    | some a =>
      match a.act, a.layered, a.st with
      | .lt _ _ _, _, _ => s
      | _, some _, _ => s
      | .dsc, none, .marks at_ ns us ds => if dscMarked s a at_ ns us ds then accDone s id a false 0 else s
      | act, none, _ =>
        if buffers s a then
          match act with
          | .store v => if canBuffer s id a then bufferAccess s id a v else s
          | _ => s
        else match relink s id a with
          | some t => t
          | none =>
            if !canPerform s id a then s
            else if act == .dsc then performDsc s id a
            else performNow s id a e)

/-- Whether an access waits for its translation and may be answered: it is the first of its window at its port, and no
earlier access of the node is stalled (R277, R281). A tile's answer takes 30 cycles at least. -/
def canAnswer (s : State) (id : Nat) (a : Access) : Bool :=
  a.st == .trans
    && (s.accs.all fun e => !(decide (e.1 < id) && e.2.node == a.node
        && ((e.2.letter == a.letter && decide (e.2.win = a.win) && e.2.st == .trans)
            || (match e.2.st with
              | .stalled _ => true
              | _ => false))))
    && ((latchedIn s a.ctx (latchFile s a.node a.letter a.win) a.va).isSome || decide (a.issued + slow s a.node 30 ≤ s.cycle))

/-- TRANSLATION_ANSWER (R273 to R277, R281). -/
def execTranslationAnswer (id : Nat) (s : State) : Res :=
  .next (match mget? s.accs id with
    | none => s
    | some a =>
      if !canAnswer s id a then s
      else
        match portXlate s a.node a.letter a.win a.ctx a.va (actRight a.act) with
        | (s, .error c) => stallAccess s id a c a.va
        | (s, .ok p) =>
          runAhead { s with accs := mset s.accs id (toHome s p a) }
            a.node a.letter a.win a.ctx (winOf s a.inst a.win) (a.va / 65536))

/-! ### Layered tensors (R223 to R225, R289, R290) -/

/-- LT_SERIALISATION (R223, R224): a press keeps its d until the engine accepts it. -/
def execLtSerialisation (id : Nat) (s : State) : Res :=
  .next (match mget? s.accs id with
    | none => s
    | some a =>
      match a.act with
      | .lt op _ _ =>
        if !canPerform s id a then s
        else
          match ltSerialise (spend s a.ctx 0 (requestBytes a.act)) a with
          | (t, .error c) => accFault t id a c.1 c.2
          | (t, .ok v) =>
            useLink s (askServer s a) (if op = 7 then { t with accs := mdel t.accs id } else accDone t id a true (BitVec.ofNat 32 v))
      | _ => s)

/-- Whether a layer unit holds a line in one state that it does not hold in another. -/
def unitFetched (s t : State) (u : Nat) : Bool :=
  (mget t.lunits u).any fun e => !(mget s.lunits u).any fun d => d.1 == e.1 && d.2.1 == e.2.1

/-- LAYER_UNIT_LOAD (R68, R223, R289): layer data that the unit does not hold adds a read of device memory. -/
def execLayerUnitLoad (id : Nat) (s : State) : Res :=
  .next (match mget? s.accs id with
    | none => s
    | some a =>
      match a.layered with
      | none => s
      | some sn =>
        if !canPerform s id a then s
        else
          let u := unitOf (panelOf s a.node a.letter)
          match layeredWord s u a.ctx sn a.fmt (a.va - (winOf s a.inst a.win).base) with
          | (t, .error c) => accFault t id a c.1 c.2
          | (t, .ok v) =>
            if a.swept = 0 ∧ unitFetched s t u = true then
              { s with accs := mset s.accs id { a with swept := 1, due := s.cycle + slow s a.node 320 } }
            else useLink s (askServer s a) (accDone (spend t a.ctx 0 16) id a true v))

/-- Accepts the first of a list of presses that still waits for its engine. -/
def acceptFirst : List Press → Option (Press × List Press)
  | [] => none
  | p :: t =>
    match p.op with
    | some _ => some (p, { p with op := none } :: t)
    | none => (acceptFirst t).map fun r => (r.1, p :: r.2)

/-- PRESS_ACCEPT (R290): an engine holds up to 16 presses; the LTP's d is released. -/
def execPressAccept (die : Nat) (s : State) : Res :=
  .next (
    let ps := mget s.presses die
    match acceptFirst (ps.take 16) with
    | none => s
    | some (p, qs) =>
      let s := { s with presses := mset s.presses die (qs ++ ps.drop 16) }
      match p.op with
      | some (n, l, o) => s.updOp n l o (opStep s.cycle { payload := BitVec.ofNat 32 p.seq })
      | none => s)

/-- PRESS_COMPLETE (R225, R290, R295): every row is written, then the record changes as one operation. -/
def execPressComplete (die : Nat) (s : State) : Res :=
  .next (match pressHead s die with
    | none => s
    | some p => if p.fault.isNone && decide (p.snap.rows < p.row) then endPress s die p (pressedRecord p) else s)

/-- PRESS_FAIL (R225): rows before the fault are written, `PST` becomes 3 with the cause. -/
def execPressFail (die : Nat) (s : State) : Res :=
  .next (match pressHead s die with
    | none => s
    | some p => match p.fault with
      | some c => endPress s die p (failedRecord c)
      | none => s)

/-! ### Shootdown (R279, R280) -/

/-- Whether a cached non-leaf entry translates any VA of a range (R276, R280). -/
def walkIn (c lo len : Nat) (e : WalkEntry) : Bool :=
  let sz := match e.2.1 with
    | 5 => 2 ^ 48
    | 4 => 2 ^ 39
    | 3 => 2 ^ 30
    | _ => 2 ^ 21
  e.1 == c && meets (e.2.2.1 * sz) sz (lo / 65536 * 65536) (65536 * len)

/-- A latch file without the pages of a range. -/
def dropLatch (lo len : Nat) (f : LatchFile) : LatchFile := { f with pages := f.pages.filter fun q => !latchIn lo len q }

/-- Removes a range of a context from every tile, walk cache, latch and layer unit (R280). -/
def dropRange (s : State) (c lo len : Nat) : State :=
  let fix (p : Plane) : Plane :=
    if (s.inst p.inst).ctx = c then { p with latch := mmap p.latch fun _ f => dropLatch lo len f } else p
  let s := dropLines s c (lo / 65536 * 65536) (lo / 65536 * 65536 + 65536 * len) fun _ => true
  { s with tiles := mmap s.tiles fun _ es => es.filter fun e => !(e.1 == c && inRange lo len e.2.vpn)
           walks := mmap s.walks fun _ es => es.filter fun e => !walkIn c lo len e
           nodes := mmap s.nodes fun _ d => { d with pa := fix d.pa, pb := fix d.pb }
           presses := mmap s.presses fun _ ps => ps.map fun p => if p.ctx = c then { p with latch := mmap p.latch fun _ f => dropLatch lo len f } else p }

/-- The shootdown of a context is over: `SDGO` reads 0 and `SDSIG` receives −1 (R280). -/
def endShootdown (s : State) (c : Nat) : State :=
  let sig := (s.ctx c).sdsig
  let s := s.updCtx c fun x => { x with sdgo := false, sdat := 0, sdmarks := [], sdunits := [], sdpress := [] }
  if sig = 0 then s else addSignal s c sig (-1)

/-- A shootdown whose marks have all emerged ends (R280). -/
def trySdEnd (s : State) (c : Nat) : State :=
  let x := s.ctx c
  if x.sdmarks.isEmpty && x.sdunits.isEmpty && x.sdpress.isEmpty then endShootdown s c else s

/-- SHOOTDOWN (R280): a shootdown that `SDGO` has started empties tiles, walk caches and latches and places its marks; later the
marks of layer units and press engines emerge. -/
def execShootdown (c : Nat) (s : State) : Res :=
  .next (
    let x := s.ctx c
    if !x.sdgo || !eventFree s c then s
    else if x.sdat = 0 then
      let ms := markNodes s c x.sdva x.sdlen
      let us := markUnits s c x.sdva x.sdlen
      let ps := markPresses s c x.sdva x.sdlen
      trySdEnd ((dropRange s c x.sdva x.sdlen).updCtx c fun y => { y with sdmarks := ms, sdunits := us, sdpress := ps, sdat := s.ids }) c
    else
      trySdEnd (s.updCtx c fun y => { y with sdunits := x.sdunits.filter fun u => !unitPast s c x.sdat u
                                             sdpress := x.sdpress.filter fun d => !pressPast s c x.sdva x.sdlen x.sdat d }) c)

/-- RLT_MARK_EMERGE (R280): the hardware mark emerges at a node; the last one ends the shootdown. -/
def execRltMarkEmerge (c : Nat) (n : NodeId) (s : State) : Res :=
  .next (
    let x := s.ctx c
    if !x.sdmarks.contains n || !finishedBefore s n x.sdat || !eventFree s c then s
    else trySdEnd (s.updCtx c fun y => { y with sdmarks := x.sdmarks.filter fun m => m != n }) c)

/-! ### Low-water queries (R283, R284) -/

/-- Whether a window overlaps a range of device memory. -/
def overlaps (x : Window) (lo len : Nat) : Bool :=
  x.described && x.space == .device && decide (x.base < lo + 65536 * len) && decide (lo < x.base + x.len)

/-- The latch files of a context whose windows overlap a range: the base of each window and the mark of its file (R284). -/
def lowMarks (s : State) (c lo len : Nat) : List (Nat × Option Nat) :=
  s.nodes.flatMap fun e =>
    [Letter.a, Letter.b].flatMap fun l =>
      let p := e.2.plane l
      if decide (p.inst ≠ 0) && decide ((s.inst p.inst).ctx = c) && (kindOf e.1 == .mp || kindOf e.1 == .cp) then
        (List.range 16).filterMap fun w =>
          let x := winOf s p.inst w
          if overlaps x lo len then some (x.base / 65536 * 65536, lowWater s e.1 l w) else none
      else []

/-- The least of a list. -/
def leastOf : List Nat → Option Nat
  | [] => none
  | k :: t => match leastOf t with
    | none => some k
    | some j => some (min k j)

/-- The answer of a low-water query (R284): the lowest mark; all ones when no window overlaps. DESIGN CHOICE (log 37): while
windows overlap and none of their files holds or awaits a page, the lowest base of those windows. -/
def lowAnswer (xs : List (Nat × Option Nat)) : Nat :=
  match leastOf (xs.filterMap (·.2)), leastOf (xs.map (·.1)) with
  | some v, _ => v / 65536 * 65536
  | none, some v => v
  | none, none => 2 ^ 64 - 1

/-- LOW_WATER_QUERY (R284): the minimum is taken. -/
def execLowWaterQuery (c : Nat) (s : State) : Res :=
  .next (
    let x := s.ctx c
    if !x.lwqgo || x.lwqst.isSome then s
    else s.updCtx c fun x => { x with lwqst := some (lowAnswer (lowMarks s c x.lwqva x.lwqlen)) })

/-- LOW_WATER_RESULT (R284): `LWQRES` is valid. -/
def execLowWaterResult (c : Nat) (s : State) : Res :=
  .next (match (s.ctx c).lwqst with
    | none => s
    | some v => s.updCtx c fun x => { x with lwqres := v, lwqgo := false, lwqst := none })

/-! ### Reclaim (R285, R287, R288) -/

/-- RECLAIM (R288): the home tile reclaims the page if it is still discarded. -/
def execReclaim (c : Nat) (s : State) : Res :=
  .next (
    let x := s.ctx c
    if !x.rcgo || x.rcst.isSome then s
    else
      match homePage s c x.rcva with
      | none => s.updCtx c fun x => { x with rcst := some 3 }
      | some p =>
        if !p.d then s.updCtx c fun x => { x with rcst := some 2 }
        else
          let e := memDouble s.mem p.leafPa
          let ms := markNodes s c x.rcva 1
          let s := dropRange { s with mem := memPutDouble s.mem p.leafPa (if bitOf e 0 then e - 1 else e) } c x.rcva 1
          s.updCtx c fun x => { x with rcst := some 1, rcmarks := ms, rcat := s.ids })

/-- RECLAIM_ANSWER (R288): the single-page shootdown has completed and `RCGO` reads the result. -/
def execReclaimAnswer (c : Nat) (s : State) : Res :=
  .next (
    let x := s.ctx c
    match x.rcst with
    | none => s
    | some v =>
      if (x.rcmarks.all fun n => finishedBefore s n x.rcat)
          && (decide (v ≠ 1) || ((List.range 256).all (unitPast s c x.rcat)) && (List.range 4).all (pressPast s c x.rcva 1 x.rcat)) then
        s.updCtx c fun x => { x with rcst := none, rcgo := false, rcres := v, rcmarks := [], rcat := 0 }
      else s)

/-! ### Exchange swap (R210, R211) -/

/-- The panels of an instance, in index order. -/
def panelsOf (v : Inst) : List Nat :=
  (List.range v.pat.fh).flatMap fun y => (List.range v.pat.fw).map fun x => v.origin + x + 128 * y

/-- Whether a slot holds a valid instruction of an opcode. -/
def slotHas (p : Plane) (op : Nat) : Bool := p.slots.toList.any fun w => tV w.1 && field w.2.toNat 31 24 == op

/-- The participants of an instance's XBAR: panels whose active nt plane holds a valid XBAR slot (R211). -/
def xbarPanels (s : State) (i : Nat) : List (Nat × Letter) :=
  (panelsOf (s.inst i)).flatMap fun p =>
    [Letter.a, Letter.b].filterMap fun l =>
      let q := s.plane (.panel p 71) l
      if q.active && decide (q.inst = i) && slotHas q 0x8D then some (p, l) else none

/-- The XBAR in flight at a panel's nt. -/
def xbarOp (s : State) (p : Nat) (l : Letter) : Option Op :=
  (s.plane (.panel p 71) l).ops.find? fun o => o.kind == .xbar && !o.ready

/-- Whether a panel has arrived: its XBAR has issued, and every STX that its memory ports issued in or before that cycle has
performed (R211). -/
def xbarArrived (s : State) (p : Nat) (l : Letter) : Bool :=
  match xbarOp s p l with
  | none => false
  | some o => s.accs.all fun e => !(decide (e.2.opAt ≤ o.issued) && decide (panelOf s e.2.node e.2.letter = p)
      && e.2.space == .exchange && storeClass e.2.act)

/-- The cycle in which a panel arrived. -/
def xbarAt (s : State) (p : Nat) (l : Letter) : Nat :=
  match xbarOp s p l with
  | none => 0
  | some o => max o.issued (s.panel p).xlast

/-- The delay of an instance's barriers and releases, 8 + 4·L cycles and some more, at the point of its origin's island (R211, R423). -/
def barrierDelay (s : State) (v : Inst) (more : Nat) : Nat :=
  slow s (.panel v.origin 71) (8 + 4 * spanLevel v.origin v.pat.fw v.pat.fh 7 + more)

/-- Swaps the exchange banks of a panel and releases its XBAR with the count; an LDX that issued in this cycle reads the new front
(R210, R211). -/
def swapPanel (s : State) (p : Nat) (l : Letter) : State :=
  match xbarOp s p l with
  | none => s
  | some o =>
    let i := instOf s (.panel p 71) l
    let b := !(s.panel p).front
    let s := (s.updPanel p fun q => { q with front := b }).updInst i fun v => { v with xs := mupd v.xs (panelKey v p) (· + 1) }
    let s := { s with accs := mmap s.accs fun _ (a : Access) =>
      if a.space = Space.exchange ∧ storeClass a.act = false ∧ panelOf s a.node a.letter = p ∧ a.opAt = s.cycle then { a with home := homeExch p b a.va } else a }
    s.updOp (.panel p 71) l o.id fun o =>
      { o with ready := true, toks := [{ payload := BitVec.ofNat 32 (xsOf s i p) }], due := s.cycle }

/-- Swaps a list of panels. -/
def swapAll (s : State) : List (Nat × Letter) → State
  | [] => s
  | e :: t => swapAll (swapPanel s e.1 e.2) t

/-- EXCHANGE_SWAP (R211): every participant has arrived, and all swap in one cycle. -/
def execExchangeSwap (i : Nat) (s : State) : Res :=
  .next (
    let ps := xbarPanels s i
    let last := (ps.map fun e => xbarAt s e.1 e.2).foldl max 0
    if !ps.isEmpty && (ps.all fun e => xbarArrived s e.1 e.2) && decide (last + barrierDelay s (s.inst i) 0 ≤ s.cycle)
    then swapAll s ps else s)

/-! ### Zeroing (R42, R269, R392) -/

/-- SCRATCHPAD_ZEROING (R42): the scratchpad and exchange banks read zero once the zeroing has run. -/
def execScratchpadZeroing (p : Nat) (s : State) : Res :=
  .next (match (s.panel p).zero with
    | none => s
    | some due =>
      if s.cycle < due then s
      else
        let s := zeroMem s (homeScratch p 0) (homeScratch p 0 + 2 ^ 17)
        let s := zeroMem s (homeExch p false 0) (homeExch p false 0 + 2 ^ 14)
        s.updPanel p fun q => { q with zero := none })

/-- The size of a slice bank, and of the part that is split into ways (R265, R391). -/
def bankSize (lvl : Nat) : Nat := 65536 * 4 ^ (lvl - 1)
/-- D of R391: the bank size, 3 MiB at level 4. -/
def splitSize (lvl : Nat) : Nat := if lvl = 4 then 3 * 2 ^ 20 else bankSize lvl

/-- SLICE_BANK_ZEROING (R269, R392): a whole bank, or one way of a split one. -/
def execSliceBankZeroing (lvl sw way : Nat) (s : State) : Res :=
  .next (
    let b := mget s.banks (lvl, sw)
    let k : Fin 4 := Fin.ofNat 4 way
    match b.ways[k].zero with
    | none => s
    | some due =>
      if s.cycle < due then s
      else
        let lo := homeSlice lvl sw 0 + (if b.split then k.val * (splitSize lvl / 4) else 0)
        let n := if b.split then splitSize lvl / 4 else bankSize lvl
        { zeroMem s lo (lo + n) with
                 banks := mset s.banks (lvl, sw) { b with ways := b.ways.set k { b.ways[k] with zero := none } } })

/-! ### A memory port's later tokens (R207, R209, R212, R220) -/

/-- What a port issues the later accesses of its instruction by: format, the in-port that an STV or SCT takes its tokens from, none
for an LDV or GTH, `ACQ`, `REL`. -/
def feedOf (aw : Word) : Option (Fmt × Option (Fin 4) × Bool × Bool) :=
  match decodeA .mp 0 aw with
  | .ok (.stv f _ _ _ (.inC k) q r) => some (f, some k, q, r)
  | .ok (.sct f _ _ _ (.inC k) q r) => some (f, some k, q, r)
  | .ok (.ldv f _ _ _ q r) => some (f, none, q, r)
  | .ok (.gth f _ _ _ q r) => some (f, none, q, r)
  | _ => none

/-- The check of a later token, as of the first (R203, R209). -/
def feedCheck (f : Fmt) (t : Token) : Option Cause := checkOpds f [({ tok := t }, dataCls f)]

/-- A port issues the next access of an instruction; after the last one it is free (R207, R209, R220). -/
def feedNext (s : State) (n : NodeId) (l : Letter) (o : Op) (f : Fmt) (acq rel : Bool) (act : AccAct) : State :=
  let j := o.arg + 1
  let x := winOf s (instOf s n l) o.win
  let s := s.updOp n l o.id fun o => { o with arg := j }
  let s := if o.queued && o.load then retPush s n l o.dst o.id j (winCount o.win x) else s
  let s := pushAccess s x (accessOf s n l o.id o.win x f acq rel j (o.fold.toNat + 4 * j) act)
  if o.total ≤ j + 1 then s.updPlane n l fun p => { p with mp := { p.mp with feed := none } } else s

/-- Whether a load's next result finds an entry of its return queue, and the port room for one more access (R207). -/
def feedRoom (s : State) (n : NodeId) (l : Letter) (o : Op) : Bool :=
  decide (outstanding s n < 256) && (match o.queued, o.dst with
    | true, .out k => !o.load || decide ((s.outp n l k).retq.length < 64)
    | _, _ => true)

/-- A memory port goes on with an LDV, STV, GTH or SCT, one access in a cycle: a store takes its next token as it arrives (R207,
R209, R220). -/
def feedPort (s : State) (n : NodeId) (l : Letter) : State :=
  let p := s.plane n l
  match p.mp.feed with
  | none => s
  | some id =>
    match s.op? n l id with
    | none => s.updPlane n l fun p => { p with mp := { p.mp with feed := none } }
    | some o =>
      if s.cycle < o.issued + slow s n (o.arg + 1) ∨ feedRoom s n l o = false then s
      else match feedOf o.aw with
        | none => s
        | some (f, none, acq, rel) => feedNext s n l o f acq rel .load
        | some (f, some k, acq, rel) =>
          match headTok n p k with
          | none => s
          | some t =>
            let s := consume s n l k
            match feedCheck f t with
            | some c => opFault (s.updOp n l id fun o => { o with done := o.arg + 1 }) n l id c
            | none => feedNext s n l o f acq rel (.store t.payload)

/-- A memory port's work in a cycle: a store held at the buffer, then the next access of an instruction of many. -/
def portWork (s : State) (n : NodeId) (l : Letter) : State :=
  let p := s.plane n l
  match p.mp.held with
  | some b => if (s.inst p.inst).fault then s else bufferStore s n l b
  | none => if runs p then feedPort s n l else s

end Sys2Proof.Machine
end

