-- ==== Sys2Proof/Machine/Place.lean ====
section
/-! DEFINITION. Placement (R30 to R34, R42, R199, R269, R324, R340, R342 to R349, R356, R359, R387 to R392): partitions, the
cutters' free maps and searches, claims, loading a member's planes, binding its windows and wiring its seams. -/

namespace Sys2Proof.Machine
open Sys2Proof

/-! ### Partitions (R387, R388, R393) -/

/-- The first panel of a rectangle. -/
def rectPanel (r : Nat × Nat × Nat × Nat) : Nat := r.1 + 128 * r.2.1

/-- The level of the lowest switch whose subtree contains a whole rectangle (R344). -/
def topLevel (r : Nat × Nat × Nat × Nat) : Nat := spanLevel (rectPanel r) r.2.2.1 r.2.2.2 7

/-- The panels of a rectangle, in index order. -/
def rectPanels (o w h : Nat) : List Nat := (List.range h).flatMap fun y => (List.range w).map fun x => o + x + 128 * y

/-- The letter that the running VF of a shared partition owns: each swap of the partition changes it (R393). -/
def runLetter (v : Part) : Letter := if v.swaps % 2 = 0 then .a else .b

/-- The letter a new instance of a context runs in. -/
def newLetter (s : State) (c : Nat) : Letter := if ringShared s c then runLetter (s.part (partOf s c)) else .a

/-! ### What a gusset needs (R269, R343, R390 to R392) -/

/-- Whether an image holds node records of the other letter (R124, R349). -/
def twoLetters (p : Pattern) : Bool := (p.panels.any fun r => r.nodes.any (·.npl)) || p.tnodes.any (·.npl)

/-- Whether a pattern has a node record of the other letter for a panel of its footprint (R124). -/
def otherRecs (p : Pattern) (x y : Nat) : Bool := (panelRec p x y).nodes.any (·.npl)

/-- A panel is free for placement: both letters free, or in a shared partition the letter of the running VF, and no exchange of its
memories under way (R343, R393, R396). -/
def panelFree (s : State) (ring : Bool) (l : Letter) (p : Nat) : Bool :=
  (s.side p l).hold == .free && (ring || (s.side p l.other).hold == .free) && !(s.panel p).swapping

/-- The VF byte of a way (R387). -/
def wayVf (b : SliceBank) (k : Nat) : Nat := field b.sw (8 * k + 7) (8 * k)

/-- The way that a slice window binds at an origin for a context: the whole bank, or the lowest way of the VF that is not
claimed by another context (R269, R391, R392). -/
def wayFor (s : State) (c origin : Nat) (w : Window) : Option Nat :=
  let sw := switchOf w.level origin
  let b := mget s.banks (w.level, sw)
  let vf := (s.ctx c).vf
  let free (k : Nat) : Bool := match b.ways[Fin.ofNat 4 k].claim with
    | none => true
    | some d => d == c
  if !b.split then (if wayVf b 0 == vf && wayVf b 0 != 255 && free 0 then some 0 else none)
  else match (List.range 4).find? fun k => wayVf b k == vf && wayVf b k != 255 with
    | some k => if free k && decide (w.base + w.len ≤ splitSize w.level / 4) then some k else none
    | none => none

/-- Whether every slice window of a pattern can be bound at an origin. -/
def slicesOk (s : State) (c origin : Nat) (p : Pattern) : Bool :=
  p.wins.all fun w => !(w.described && w.space == .slice) || (wayFor s c origin w).isSome

/-- The merge or port unit that a record names from an origin (R125). -/
def treeNode (origin : Nat) : NodeId → NodeId
  | .mg lvl _ u => .mg lvl (switchOf lvl origin) u
  | n => n

/-- The letter that a record of `NPL` takes in an instance of letter `l` (R124). -/
def recLetter (l : Letter) (npl : Bool) : Letter := if npl then l.other else l

/-- Whether a granted request that still loads has claimed a letter of a merge or port unit (R345, R390). -/
def unitClaimed (s : State) (n : NodeId) (l : Letter) : Bool :=
  s.reqs.any fun e => match e.2.st with
    | .loading o _ => e.2.pat.tnodes.any fun r => treeNode o r.node == n && recLetter e.2.letter r.npl == l
    | _ => false

/-- Whether every merge and port unit of a pattern is free in the letter it would take (R390). -/
def unitsOk (s : State) (origin : Nat) (l : Letter) (p : Pattern) : Bool :=
  p.tnodes.all fun r =>
    let n := treeNode origin r.node
    let m := recLetter l r.npl
    decide ((s.plane n m).inst = 0) && !unitClaimed s n m

/-- Whether the panels and units of a pattern are free at an origin. -/
def areaOk (s : State) (c : Nat) (l : Letter) (p : Pattern) (origin : Nat) : Bool :=
  let ring := ringShared s c
  !(ring && twoLetters p) && (rectPanels origin p.fw p.fh).all (panelFree s ring l) && unitsOk s origin l p

/-- Whether a gusset can be granted at an origin. -/
def gussetOk (s : State) (c : Nat) (l : Letter) (p : Pattern) (origin : Nat) : Bool :=
  areaOk s c l p origin && slicesOk s c origin p

/-! ### The search (R344) -/

/-- The origins of footprints of a size inside both a level's subtree above the anchor and a partition, in index order. -/
def originsIn (anchor lvl : Nat) (r : Nat × Nat × Nat × Nat) (w h : Nat) : List Nat :=
  let side := 2 ^ lvl
  let x0 := max (colOf anchor / side * side) r.1
  let x1 := min (colOf anchor / side * side + side) (r.1 + r.2.2.1)
  let y0 := max (rowOf anchor / side * side) r.2.1
  let y1 := min (rowOf anchor / side * side + side) (r.2.1 + r.2.2.2)
  (List.range (y1 + 1 - h - y0)).flatMap fun j => (List.range (x1 + 1 - w - x0)).map fun i => x0 + i + 128 * (y0 + j)

/-- The distance of a rectangle to an anchor (R344). -/
def rectDist (anchor o w h : Nat) : Nat :=
  let gap (a lo n : Nat) : Nat := max (lo - a) (a - (lo + (n - 1)))
  gap (colOf anchor) (colOf o) w + gap (rowOf anchor) (rowOf o) h

/-- The first of least distance. -/
def nearest (d : Nat → Nat) : List Nat → Option Nat
  | [] => none
  | o :: t => match nearest d t with
    | none => some o
    | some q => if d q < d o then some q else some o

/-- Whether two rectangles have a panel in common. -/
def rectsMeet (o w h o' w' h' : Nat) : Bool :=
  decide (colOf o < colOf o' + w') && decide (colOf o' < colOf o + w) && decide (rowOf o < rowOf o' + h') && decide (rowOf o' < rowOf o + h)

/-- Whether a rectangle of a pattern meets one that a request is still claiming, which this cutter or one below it granted:
such a rectangle is excluded from the searches of the members served after it (R357). -/
def grantedHere (s : State) (ring : Bool) (l : Letter) (p : Pattern) (anchor lvl o : Nat) : Bool :=
  s.reqs.any fun e => (!ring || e.2.letter == l) && (match e.2.st with
    | .claiming g k _ _ => decide (k ≤ lvl) && switchOf lvl g == switchOf lvl anchor && rectsMeet o p.fw p.fh g e.2.pat.fw e.2.pat.fh
    | _ => false)

/-- The nearest origin under a level's cutter that satisfies a condition and that no request has been granted (R344, R357). -/
def pickRect (s : State) (c : Nat) (p : Pattern) (l : Letter) (anchor lvl : Nat) (ok : Nat → Bool) : Option Nat :=
  match partRect (s.part (partOf s c)) with
  | none => none
  | some r => nearest (fun o => rectDist anchor o p.fw p.fh)
      ((originsIn anchor lvl r p.fw p.fh).filter fun o => ok o && !grantedHere s (ringShared s c) l p anchor lvl o)

/-- The rectangle a cutter grants a pattern of a context at a level (R344, R357). -/
def findRect (s : State) (c : Nat) (p : Pattern) (l : Letter) (anchor lvl : Nat) : Option Nat :=
  pickRect s c p l anchor lvl (gussetOk s c l p)

/-- The level of a context's highest cutter, 7 without a partition. -/
def topOf (s : State) (c : Nat) : Nat :=
  match partRect (s.part (partOf s c)) with
  | some r => topLevel r
  | none => 7

/-! ### Precedence (R186, R326, R345) -/

/-- The class of a request: its launch's, or its calling instance's (R323, R326). -/
def reqCls (s : State) (r : Req) : Nat :=
  match r.for_ with
  | .launch k => runCls s (mget s.runs k)
  | .member b _ => pclass (s.inst (mget s.bundles b).caller)

/-- Precedence of (class, age, panel, node) over another, then by number (R345, R357). -/
def outranks (a b : Nat × Nat × Nat × Nat × Nat) : Bool :=
  if a.1 ≠ b.1 then decide (b.1 < a.1)
  else if a.2.1 ≠ b.2.1 then decide (a.2.1 < b.2.1)
  else if a.2.2.1 ≠ b.2.2.1 then decide (a.2.2.1 < b.2.2.1)
  else if a.2.2.2.1 ≠ b.2.2.2.1 then decide (a.2.2.2.1 < b.2.2.2.1)
  else decide (a.2.2.2.2 < b.2.2.2.2)

/-- The rank of a request. -/
def rankOf (s : State) (k : Nat) (r : Req) : Nat × Nat × Nat × Nat × Nat := (reqCls s r, r.age, r.tiePanel, r.tieNode, k)

/-- The rank of a bundle: its call's (R345 to R347). -/
def bundleRank (s : State) (k : Nat) (b : Bundle) : Nat × Nat × Nat × Nat × Nat :=
  (pclass (s.inst b.caller), b.issued, panelOf s b.node b.letter, nodeAddr b.node, k)

/-- The rank of a cast instance: that of the call that created it (R352). -/
def castRank (s : State) (i : Nat) (v : Inst) : Nat × Nat × Nat × Nat × Nat :=
  (pclass (s.inst v.caller), v.age, v.tie / 128, v.tie % 128, i)

/-- The cutter at which a request stands: its level and switch; none once it has a grant. -/
def cutterOf (s : State) (r : Req) : Option (Nat × Nat) :=
  match r.st with
  | .search k => some (k, switchOf k r.anchor)
  | .waiting => some (topOf s r.ctx, switchOf (topOf s r.ctx) r.anchor)
  | .claiming _ _ _ _ => none
  | .loading _ _ => none

/-- Whether a context's placements go on: it is not being switched out, and its VF is not descheduled (R376, R398). -/
def placing (s : State) (c : Nat) : Bool := !(s.ctx c).preempt && !descheduled s c

/-- Whether a request of a context goes on: one for a call's member also during a cut of the context, which that member
then joins (R376). -/
def reqGoes (s : State) (r : Req) : Bool :=
  placing s r.ctx || (!descheduled s r.ctx && (match r.for_ with
    | .launch _ => false
    | .member _ _ => s.insts.any fun e => decide (e.2.ctx = r.ctx) && e.2.cut == .preempt))

/-- Whether a request could be served now: a waiting one only when a rectangle is free. -/
def servable (s : State) (r : Req) : Bool :=
  reqGoes s r && decide (r.at_ ≤ s.cycle) && (match r.st with
    | .search _ => true
    | .waiting => (findRect s r.ctx r.pat r.letter r.anchor (topOf s r.ctx)).isSome
    | .claiming _ _ _ _ => false
    | .loading _ _ => false)

/-- The panel a cast instance resumes beside: that of the stitch that called it (R344, R352). -/
def castAnchor (s : State) (v : Inst) : Nat :=
  match v.callAt with
  | some e => panelOf s e.1 e.2
  | none => (s.inst v.caller).origin

/-- Where a cast instance can be placed now. One that has run keeps the slice banks that it bound (R349, R350, R352, R361). -/
def castRect (s : State) (v : Inst) : Option Nat :=
  let l := newLetter s v.ctx
  pickRect s v.ctx v.pat l (castAnchor s v) (topOf s v.ctx) fun o =>
    areaOk s v.ctx l v.pat o && (v.fresh.isNone || slicesOk s v.ctx o v.pat)

/-- Whether a cast instance could be placed now (R352, R361). -/
def castPlaceable (s : State) (v : Inst) : Bool := v.st == .cast && placing s v.ctx && (castRect s v).isSome

/-- Whether a request must let another go first: a servable one of higher precedence at its cutter, or a cast instance of its
partition of no lower precedence that has room (R345, R352, R357). -/
def mustWait (s : State) (k : Nat) (r : Req) : Bool :=
  (s.reqs.any fun e => decide (e.1 ≠ k) && cutterOf s e.2 == cutterOf s r && servable s e.2 && outranks (rankOf s e.1 e.2) (rankOf s k r))
    || (s.insts.any fun e => decide (partOf s e.2.ctx = partOf s r.ctx) && castPlaceable s e.2
      && !outranks (rankOf s k r) (castRank s e.1 e.2))

/-! ### Claims (R42, R269, R345) -/

/-- A panel claimed for a context: zeroed first when another context used it last (R42); a panel that no context has used
since it had power holds zero and is granted as it is. -/
def takePanel (s : State) (c p : Nat) : State :=
  s.updPanel p fun q =>
    { q with lastCtx := some c
             zero := if q.lastCtx = some c ∨ q.lastCtx = none then q.zero else some (s.cycle + slow s (.panel p 0) 1024) }

/-- Takes every panel of a list. -/
def takePanels (s : State) (c : Nat) : List Nat → State
  | [] => s
  | p :: t => takePanels (takePanel s c p) c t

/-- Whether a way, or of a whole bank any of the ways it was split into, was another context's last (R269, R392). -/
def othersLast (c : Nat) (b : SliceBank) (k : Nat) : Bool :=
  let other (w : Way) : Bool := w.lastCtx.any fun d => d != c
  other b.ways[Fin.ofNat 4 k] || (!b.split && b.ways.toList.any other)

/-- A way claimed for a context by one more instance: zeroed first when another context claimed it last (R269, R392). -/
def takeWay (s : State) (c lvl sw k : Nat) : State :=
  let t := fun (b : SliceBank) => (if b.split then splitSize lvl / 512 else bankSize lvl / 128)
  { s with banks := mupd s.banks (lvl, sw) fun b =>
      let w := b.ways[Fin.ofNat 4 k]
      let z := if w.users = 0 && othersLast c b k then some (s.cycle + slow s (.mg lvl sw 0) (t b)) else w.zero
      { b with ways := b.ways.set (Fin.ofNat 4 k) { w with claim := some c, users := w.users + 1, zero := z } } }

/-- The ways that a pattern's slice windows bind at an origin, each once. -/
def waysFor (s : State) (c origin : Nat) (p : Pattern) : List (Nat × Nat × Nat) :=
  (p.wins.filterMap fun w =>
    if w.described && w.space == .slice then (wayFor s c origin w).map fun k => (w.level, switchOf w.level origin, k) else none).dedup

/-- Takes every way of a list. -/
def takeWays (s : State) (c : Nat) : List (Nat × Nat × Nat) → State
  | [] => s
  | w :: t => takeWays (takeWay s c w.1 w.2.1 w.2.2) c t

/-- Sets the holder of a letter of every panel of a list. -/
def holdPanels (s : State) (l : Letter) (h : Hold) : List Nat → State
  | [] => s
  | p :: t => holdPanels (s.updSide p l fun v => { v with hold := h }) l h t

/-- The time of a pattern's load at an origin: its largest panel record (R175, R356, R423). -/
def loadTimeOf (s : State) (origin : Nat) (p : Pattern) : Nat := slow s (.panel origin 0) ((p.panels.map loadTime).foldl max 40)

/-- The device cycles that the cutter of a level above a panel takes for `t` cycles (R345, R356, R423). -/
def cutTime (s : State) (lvl p t : Nat) : Nat := slow s (.mg (max 1 lvl) (switchOf (max 1 lvl) p) 0) t

/-- The time from an image in its cache to an instance that runs at an origin: windows, the plane load, wiring, activation
(R356). -/
def placeTime (s : State) (origin : Nat) (p : Pattern) : Nat :=
  cutTime s 1 origin 64 + loadTimeOf s origin p + cutTime s 1 origin 16 + cutTime s 1 origin 1

/-- The mesh distance from an anchor to the farthest panel of a rectangle (R356). -/
def farDist (anchor o w h : Nat) : Nat := ((rectPanels o w h).map (meshDist anchor)).foldl max 0

/-- A GRANT (R345, R356): the request goes on to claim the panels of its rectangle one by one, the first 9 cycles on. -/
def grant (s : State) (k : Nat) (r : Req) (origin lvl : Nat) : State :=
  { s with reqs := mset s.reqs k { r with st := .claiming origin lvl 0 (s.cycle + cutTime s 1 origin 9) } }

/-- Frees the panels that a request has claimed. -/
def freeClaims (s : State) (k : Nat) : State :=
  let free (v : PanelSide) : PanelSide := if v.hold = .claimed k then { v with hold := .free } else v
  { s with panels := mmap s.panels fun _ q => { q with sa := free q.sa, sb := free q.sb } }

/-- A request releases every panel it has claimed and stands elsewhere from a cycle on (R345, R347). -/
def unclaim (s : State) (k : Nat) (st : ReqSt) (at_ : Nat) : State :=
  let r := mget s.reqs k
  let s := freeClaims (dropWays s r.ways) k
  { s with reqs := mset s.reqs k { r with st := st, ways := [], pleat := false, letter := newLetter s r.ctx, at_ := at_ } }

/-- A request that gives up its claims searches again from the cutter that granted it (R345). -/
def searchAgain (s : State) (k lvl : Nat) : State := unclaim s k (.search lvl) (s.cycle + cutTime s lvl (mget s.reqs k).anchor 16)

/-- The request that is claiming a panel's letter, with the level of its grant. -/
def claimant (s : State) (v : PanelSide) : Option (Nat × Nat) :=
  match v.hold with
  | .claimed j => match (mget s.reqs j).st with
    | .claiming _ lvl _ _ => some (j, lvl)
    | _ => none
  | _ => none

/-- The requests whose claims stand in the way of a claim of a panel. -/
def rivals (s : State) (ring : Bool) (l : Letter) (p : Nat) : List (Nat × Nat) :=
  ((claimant s (s.side p l)).toList ++ if ring then [] else (claimant s (s.side p l.other)).toList).dedup

/-- Every claim of a grant is made: the panels and ways are the request's, and its planes load until a cycle (R42, R269, R356).
Slice banks or merge nodes that others have taken since the grant send it back to its cutter. -/
def allClaimed (s : State) (k : Nat) (r : Req) (origin lvl : Nat) : State :=
  if !slicesOk s r.ctx origin r.pat || !unitsOk s origin r.letter r.pat then searchAgain s k lvl
  else
    let s := takePanels s r.ctx (rectPanels origin r.pat.fw r.pat.fh)
    let ws := waysFor s r.ctx origin r.pat
    let s := takeWays s r.ctx ws
    let (s, at_) := fetchImage s (dieOf origin) r.ctx r.pat.pid r.pat.len
    let far := if lvl = 1 then 0 else farDist r.anchor origin r.pat.fw r.pat.fh
    { s with reqs := mset s.reqs k { r with st := .loading origin (at_ + placeTime s origin r.pat + far), ways := ws } }

/-- A claim of one panel (R345): the panel is taken when it is free. One that another request has claimed goes to the request of
higher precedence, and the other gives up its claims; a panel that is held, basted or loading by now is given up as well
(log 45). `done` panels are claimed already. -/
def claimPanel (s : State) (k : Nat) (r : Req) (origin lvl done : Nat) : State :=
  let ps := rectPanels origin r.pat.fw r.pat.fh
  let p := ps.getD done origin
  let ring := ringShared s r.ctx
  let rs := rivals s ring r.letter p
  if (rs.any fun e => outranks (rankOf s e.1 (mget s.reqs e.1)) (rankOf s k r)) then searchAgain s k lvl
  else
    let s := rs.foldl (fun s e => searchAgain s e.1 e.2) s
    if !panelFree s ring r.letter p then searchAgain s k lvl
    else
      let s := holdPanels s r.letter (.claimed k) [p]
      let s := if otherRecs r.pat (colOf p - colOf origin) (rowOf p - rowOf origin) then holdPanels s r.letter.other (.claimed k) [p] else s
      if done + 1 < ps.length then { s with reqs := mset s.reqs k { r with st := .claiming origin lvl (done + 1) (s.cycle + cutTime s 1 p 1) } }
      else allClaimed s k r origin lvl

/-! ### Windows and regions (R36, R199, R349, R367, R392) -/

/-- A window bound at placement (R199, R221, R223, R349, R392): `e` raises scratchpad windows. -/
def bindWindow (s : State) (c origin e : Nat) (p : Pattern) (w : Window) : Window :=
  let w := if w.hv then { w with handle := p.handles[w.hslot]? } else w
  match w.space with
  | .scratch => { w with base := w.base + e }
  | .slice =>
    let sw := switchOf w.level origin
    let off := match wayFor s c origin w with
      | some k => if (mget s.banks (w.level, sw)).split then k * (splitSize w.level / 4) else 0
      | none => 0
    { w with bank := sw, base := w.base + off }
  | _ => w

/-- The end of an instance's highest scratchpad window. -/
def scratchEnd (ws : List Window) : Nat :=
  ((ws.filter fun w => w.described && w.space == .scratch).map fun w => w.base + w.len).foldl max 0

/-- A valid slot of a plane that a predicate of its instruction holds of. -/
def hasSlot (n : NodeId) (p : Plane) (f : Instr → Bool) : Bool :=
  p.slots.toList.any fun w => tV w.1 && (match slotInstr n w.2 with
    | .ok i => f i
    | .error _ => false)

/-- The window a load names. -/
def loadWin : Instr → Option Nat
  | .lds _ _ w _ _ _ | .ldl _ _ w _ _ _ | .ldd _ _ w _ _ _ | .ldp _ _ w _ _ _ | .ldx _ _ w _ _ _
  | .ldv _ _ w _ _ _ | .gth _ _ w _ _ _ => some w.toNat
  | _ => none

/-- Whether a memory port loads through a commit window (R367). -/
def loadsCwe (ws : List Window) (n : NodeId) (p : Plane) : Bool :=
  kindOf n == .mp && hasSlot n p fun i => match loadWin i with
    | some w => (ws.getD w {}).cwe
    | none => false

/-- The mark-carrying in-ports' planes that a plane's routes and drain routes name (R367). -/
def markNext (s : State) (e : NodeId × Letter) : List (NodeId × Letter) :=
  let ts := ((List.finRange 4).flatMap fun k => if rwWired (s.plane e.1 e.2).rw[k] then targets s e.1 e.2 k else []) ++ drainTargets s e.1 e.2
  ts.filterMap fun t => match t with
    | .port m l k false => if markCarrying m (s.plane m l) k then some (m, l) else none
    | _ => none

/-- The planes reached from a list by mark-carrying routes, transitively (R367). -/
def markClosure (s : State) : Nat → List (NodeId × Letter) → List (NodeId × Letter)
  | 0, xs => xs
  | k + 1, xs =>
    let ys := ((xs.flatMap (markNext s)).filter fun e => !xs.contains e).dedup
    if ys.isEmpty then xs else markClosure s k (xs ++ ys)

/-- The planes of an instance that run. -/
def activePlanes (s : State) (i : Nat) : List (NodeId × Letter) :=
  s.nodes.flatMap fun e => [Letter.a, Letter.b].filterMap fun l =>
    if (e.2.plane l).inst = i ∧ (e.2.plane l).active = true then some (e.1, l) else none

/-- The window region of an instance (R367). -/
def regionOf (s : State) (i : Nat) : List (NodeId × Letter) :=
  let ps := activePlanes s i
  markClosure s (ps.length + 1) (ps.filter fun e => loadsCwe (s.inst i).wins e.1 (s.plane e.1 e.2))

/-- Whether a plane of the region sends to an in-port (R368). -/
def fedInside (s : State) (r : List (NodeId × Letter)) (n : NodeId) (l : Letter) (k : Fin 4) : Bool :=
  r.any fun e =>
    (((List.finRange 4).flatMap fun j => if rwWired (s.plane e.1 e.2).rw[j] then targets s e.1 e.2 j else []) ++ drainTargets s e.1 e.2).any
      fun t => match t with
        | .port m ml j _ => m == n && ml == l && j == k
        | _ => false

/-- The in-ports of the region's memory ports that are fed from outside it, which log what they consume (R368). -/
def logPortsOf (s : State) (r : List (NodeId × Letter)) : List (NodeId × Letter × Nat) :=
  r.flatMap fun e =>
    if kindOf e.1 == .mp then
      (List.finRange 4).filterMap fun k =>
        if (s.plane e.1 e.2).ins[k].isFed && !fedInside s r e.1 e.2 k then some (e.1, e.2, k.val) else none
    else []

/-! ### Loading an instance (R39, R125, R173, R223, R356) -/

/-- The ids whose copies still run: those of live instances, and of ended ones whose copies go on (R183, R335). -/
def copyIds (s : State) : List Nat := (s.nodes.flatMap fun e => (e.2.pa.copies ++ e.2.pb.copies).map (·.inst)).dedup

/-- The id of a new instance. DESIGN CHOICE (log 39): R32 asks for one that is nonzero, unique and free, and names none; the
model takes the lowest from 1 up that no instance has and no copy of an ended one. -/
def freeId (s : State) : Nat :=
  let cs := copyIds s
  ((List.range (s.insts.length + cs.length + 1)).map (· + 1)).find? (fun i => (mget? s.insts i).isNone && !cs.contains i) |>.getD 1

/-- Whether a window of a copy at a node names a bank of a panel, or one of some slice banks (R307). -/
def namesBank (s : State) (n : NodeId) (l : Letter) (ps : List Nat) (bs : List (Nat × Nat)) (w : Window) : Bool :=
  match w.space with
  | .scratch => ps.contains (panelOf s n l)
  | .exchange => ps.contains (panelAt (panelOf s n l) w.dx w.dy)
  | .slice => bs.contains (w.level, w.bank)
  | _ => false

/-- No copy of an instance that has ended has still to move at the banks of some panels and slice banks (R307). -/
def banksIdle (s : State) (ps : List Nat) (bs : List (Nat × Nat)) : Bool :=
  s.nodes.all fun e => [Letter.a, Letter.b].all fun l => (e.2.plane l).copies.all fun j =>
    (mget? s.insts j.inst).isSome || !(namesBank s e.1 l ps bs j.swin || namesBank s e.1 l ps bs j.dwin || (j.signal && namesBank s e.1 l ps bs j.gwin))

/-- Loads panels of an instance in a letter from the records of one `NPL`. -/
def loadPanels (s : State) (i : Nat) (l : Letter) (npl act : Bool) : List (Nat × Nat) → State
  | [] => s
  | (x, y) :: t =>
    let v := s.inst i
    loadPanels (loadPanel s (v.origin + x + 128 * y) l v.pat npl x y i act (!act)) i l npl act t

/-- Loads one merge or port unit (R125). -/
def loadTree (s : State) (i : Nat) (r : NodeRec) : State :=
  let v := s.inst i
  let n := treeNode v.origin r.node
  let l := recLetter v.letter r.npl
  let fed := ((fedTree v.pat r.npl v.origin).filter fun e => e.1 == n).map (·.2)
  let d := s.node n
  let q := setFed fed (keepLanes (d.plane l) (loadedPlane r.words v.pat.pid v.pat.ver i))
  let on := !r.npl && bitOf q.pcw.toNat 16
  let q := if on then wakeLanes s.cycle q else q
  s.setNode n { d.setPlane l { q with active := on, basted := r.npl, pcw := if r.npl then pcwAct q.pcw false else q.pcw } with ca := 0, cb := 0, last := .b }

/-- Loads the merge and port units of a list. -/
def loadTrees (s : State) (i : Nat) : List NodeRec → State
  | [] => s
  | r :: t => loadTrees (loadTree s i r) i t

/-- The offsets of a footprint. -/
def offsetsOf (p : Pattern) : List (Nat × Nat) := (List.range p.fh).flatMap fun y => (List.range p.fw).map fun x => (x, y)

/-- The offsets of the panels whose other letter a pattern's load writes (R124). -/
def otherOffsets (p : Pattern) : List (Nat × Nat) := (offsetsOf p).filter fun o => otherRecs p o.1 o.2

/-- Latches the handle windows of a node's slots at placement (R223). -/
def latchNode (s : State) (e : NodeId × Letter) : State :=
  let i := instOf s e.1 e.2
  if kindOf e.1 == .mp || kindOf e.1 == .cp then
    (List.range 16).foldl (fun s w => if (winOf s i w).hv then latchWindow s e.1 e.2 w else s) s
  else s

/-- LOADS AN INSTANCE at its origin in its letter: every plane of its image, the other letter basted where a panel has records
for it (R124), its windows bound and its handle windows latched, its window region fixed. -/
def loadInst (s : State) (i e : Nat) : State :=
  let v := s.inst i
  let s := s.updInst i fun v => { v with wins := v.pat.wins.map (bindWindow s v.ctx v.origin e v.pat) }
  let s := loadPanels s i v.letter false true (offsetsOf v.pat)
  let s := loadPanels s i v.letter.other true false (otherOffsets v.pat)
  let s := loadTrees s i v.pat.tnodes
  let s := (activePlanes s i).foldl latchNode s
  s

/-- The region and logs of an instance, once its seams are wired (R367). -/
def fixRegion (s : State) (i : Nat) : State :=
  let r := regionOf s i
  s.updInst i fun v => { v with region := r, logPorts := logPortsOf s r }

/-- Sets the holder of an instance's panels, also in the other letter where its image has records for it. -/
def holdInst (s : State) (i : Nat) : State :=
  let v := s.inst i
  let s := holdPanels s v.letter (.inst i) (rectPanels v.origin v.pat.fw v.pat.fh)
  holdPanels s v.letter.other (.basted i v.pat.pid) ((otherOffsets v.pat).map fun o => v.origin + o.1 + 128 * o.2)

/-! ### Wiring (R339, R340, R359) -/

/-- The argument pairs of a site's members that name a caller out-port, in member order and then pair order (R359). -/
def argPairs (ms : List (List Pair)) (k : Nat) : List (Nat × Pair) :=
  ms.zipIdx.flatMap fun m => (m.1.filter fun q => !q.result && q.kport == k).map fun q => (m.2, q)

/-- The lowest run of `n` free entries of 1,008 to 1,023 of a route table, beside those taken (R359). -/
def freeRun (used : Nat → Bool) (n : Nat) : Option Nat :=
  ((List.range 16).map (· + 1008)).find? fun b => decide (b + n ≤ 1024) && (List.range n).all fun j => !used (b + j)

/-- The runs of a call's caller out-ports, in increasing out-port number; none when they do not fit (R359). -/
def argRuns (taken : List Nat) (ms : List (List Pair)) : List Nat → Option (List (Nat × Nat × Nat))
  | [] => some []
  | k :: t =>
    let n := (argPairs ms k).length
    if n = 0 then argRuns taken ms t
    else match freeRun (fun e => taken.contains e) n with
      | none => none
      | some b => (argRuns (taken ++ (List.range n).map (· + b)) ms t).map fun r => (k, b, n) :: r

/-- The entries of a panel's letter that placement holds: written ones, and runs reserved by calls being placed. -/
def takenEntries (s : State) (p : Nat) (l : Letter) : List Nat :=
  (((s.side p l).routes.map (·.1)).filter fun e => decide (1008 ≤ e))
    ++ s.bundles.flatMap fun b =>
      if panelOf s b.2.node b.2.letter = p ∧ b.2.letter = l then b.2.runs.flatMap fun r => (List.range r.2.2).map (· + r.2.1) else []

/-- A placement-written entry (R340). -/
def callEntry (panel node port : Nat) (xpl : Bool) : Word :=
  BitVec.ofNat 32 (3 * 2 ^ 30 + panel * 2 ^ 16 + node * 2 ^ 9 + port * 2 ^ 7 + xpl.toNat * 2 ^ 6)

/-- A placement-written route word: `WIRED`, no `OLAZY`, no `SCEN` (R359). -/
def callRoute (base n : Nat) : Word := BitVec.ofNat 32 (base + (n - 1) * 2 ^ 10 + 2 ^ 14)

/-- Writes an entry of a panel's letter. -/
def putEntry (s : State) (p : Nat) (l : Letter) (e : Nat) (w : Word) : State := s.updSide p l fun v => { v with routes := mset v.routes e w }

/-- Marks an in-port of an instance that waits in memory as fed by a call (R167). -/
def feedSaved (s : State) (i : Nat) (n : NodeId) (l : Letter) (k : Nat) : State :=
  let f (x : SavedPlane) : SavedPlane :=
    if x.node = n ∧ x.letter = l then
      { x with plane := { x.plane with ins := x.plane.ins.set (Fin.ofNat 4 k) { x.plane.ins[Fin.ofNat 4 k] with callFed := true } } }
    else x
  s.updInst i fun v => { v with saved := v.saved.map f }

/-- Marks an in-port as fed by a call (R167). -/
def feedCall (s : State) (n : NodeId) (l : Letter) (k : Nat) : State :=
  s.updIn n l (Fin.ofNat 4 k) fun q => { q with callFed := true }

/-- Sets a route word of a plane. -/
def putRoute (s : State) (n : NodeId) (l : Letter) (k : Nat) (w : Word) : State :=
  s.updPlane n l fun p => { p with rw := p.rw.set (Fin.ofNat 4 k) w }

/-- Writes one argument entry of a member: `j` is its place in the run of its out-port (R340, R359). -/
def wireArg (s : State) (b : Bundle) (i m : Nat) (run : Nat × Nat × Nat) (j : Nat) (q : Nat × Pair) : State :=
  if q.1 ≠ m then s
  else
    let v := s.inst i
    let p := panelOf s b.node b.letter
    let tn := NodeId.panel v.origin (q.2.cport / 4)
    let s := putEntry s p b.letter (run.2.1 + j) (callEntry v.origin (q.2.cport / 4) (q.2.cport % 4) (b.letter != v.letter))
    let s := putRoute s b.node b.letter run.1 (callRoute run.2.1 run.2.2)
    let s := if v.saved.isEmpty then feedCall s tn v.letter (q.2.cport % 4) else feedSaved s i tn v.letter (q.2.cport % 4)
    s.updInst i fun v => { v with wires := v.wires ++
      [{ caller := b.caller, callee := i, panel := p, node := nodeAddr b.node, letter := b.letter, out := run.1, entries := [run.2.1 + j] }] }

/-- Writes the argument entries of a member in one run. -/
def wireRun (s : State) (b : Bundle) (i m : Nat) (ms : List (List Pair)) (run : Nat × Nat × Nat) : State :=
  (argPairs ms run.1).zipIdx.foldl (fun s e => wireArg s b i m run e.2 e.1) s

/-- The result pairs of a member by result port: the port and the caller in-ports it feeds. -/
def resultPairs (m : List Pair) : List (Nat × List Nat) :=
  (List.range 16).filterMap fun c =>
    let ks := (m.filter fun q => q.result && q.cport == c).map (·.kport)
    if ks.isEmpty then none else some (c, ks)

/-- Writes the run of a result port; none when it does not fit (R359). -/
def wireResult (s : State) (b : Bundle) (i : Nat) (r : Nat × List Nat) : Option State :=
  let v := s.inst i
  let tn := NodeId.panel v.origin (60 + r.1 / 4)
  match freeRun (fun e => (takenEntries s v.origin v.letter).contains e) r.2.length with
  | none => none
  | some base =>
    let p := panelOf s b.node b.letter
    let feed (s : State) (k : Nat) : State :=
      if (s.inst b.caller).saved.isEmpty then feedCall s b.node b.letter k else feedSaved s b.caller b.node b.letter k
    let s := r.2.zipIdx.foldl (fun s e =>
      feed (putEntry s v.origin v.letter (base + e.2) (callEntry p (nodeAddr b.node) e.1 (b.letter != v.letter))) e.1) s
    let s := putRoute s tn v.letter (r.1 % 4) (callRoute base r.2.length)
    some (s.updInst i fun v => { v with wires := v.wires ++
      [{ caller := b.caller, callee := i, panel := v.origin, node := 60 + r.1 / 4, letter := v.letter, out := r.1 % 4,
         entries := (List.range r.2.length).map (· + base), result := true }] })

/-- Writes the runs of every result port of a member. -/
def wireResults (s : State) (b : Bundle) (i : Nat) : List (Nat × List Nat) → Option State
  | [] => some s
  | r :: t => match wireResult s b i r with
    | none => none
    | some s => wireResults s b i t

/-- The pairs of the members that a call's site describes. -/
def callMembers (s : State) (b : Bundle) : List (List Pair) := ((s.inst b.caller).pat.sites.getD b.site {}).members

/-- WIRES A MEMBER to its caller: the result runs first, which may not fit, then its argument entries (R340, R359). -/
def wireMember (s : State) (b : Bundle) (i m : Nat) : Option State :=
  let ms := callMembers s b
  (wireResults s b i (resultPairs (ms.getD m []))).map fun s => b.runs.foldl (fun s r => wireRun s b i m ms r) s

/-! ### Pleating (R343, R346, R349) -/

/-- Whether a letter of a panel is free for pleating for an instance's host (R174, R343): free, the other letter held by the
host, which has nothing basted or loading there. -/
def pleatFree (s : State) (l : Letter) (host p : Nat) : Bool :=
  (s.side p l).hold == .free && (s.side p l.other).hold == .inst host && (s.side p l.other).ploads.isEmpty

/-- E of R349: the host's highest scratchpad window end, rounded up to 128. -/
def pleatBase (s : State) (host : Nat) : Nat := (scratchEnd (s.inst host).wins + 127) / 128 * 128

/-- Whether a pattern may ever be pleated in a context's partition (R349, R397). -/
def pleatable (s : State) (c : Nat) (p : Pattern) : Bool :=
  !ringShared s c && !twoLetters p && !(p.wins.any fun w => w.described && w.space == .exchange)

/-- Whether an instance of a pattern can be pleated onto a host (R343, R349, R390). One that has started, unlike one at its
placement, keeps the slice banks it bound. -/
def canPleat (s : State) (c : Nat) (p : Pattern) (ws : List Window) (started : Bool) (host : Nat) : Bool :=
  let h := s.inst host
  pleatable s c p && h.st == .live && decide (h.ctx = c) && decide (h.pat.fw = p.fw) && decide (h.pat.fh = p.fh)
    && ((rectPanels h.origin p.fw p.fh).all (pleatFree s h.letter.other host))
    && decide (pleatBase s host + scratchEnd ws ≤ 2 ^ 17) && (started || slicesOk s c h.origin p) && unitsOk s h.origin h.letter.other p

end Sys2Proof.Machine
end

