-- ==== Sys2Proof/Machine/Streams.lean ====
section
/-! DEFINITION. Sparse streams and collectives, group 0xC on mg and pc units (R69, R243 to R249, R410, R411): decoding
of inputs, MRG, DNS, SPS, the dense and sparse output forms, CRED and CBCS. -/

namespace Sys2Proof.Machine
open Sys2Proof

/-! ### The unit's words -/

/-- `THRESH` (R116). -/
def threshOf (p : Plane) : Nat := field (p.ext.getD 0 0).toNat 7 0
/-- `IDXLO` (R116). -/
def idxLo (p : Plane) : Nat := (p.ext.getD 1 0).toNat
/-- `IDXHI` (R116). -/
def idxHi (p : Plane) : Nat := (p.ext.getD 2 0).toNat

/-- The EOS tokens a node has placed, modulo 2^26 (R246). -/
def eosPlaced (s : State) (n : NodeId) : Nat := ((s.node n).pa.sout.next + (s.node n).pb.sout.next) % 2 ^ 26

/-- The form mark that opens a dense stream (R243, R246). -/
def denseMark (n : Nat) : Token := { kind := .mark, payload := BitVec.ofNat 32 (4 + n % 2 ^ 26 * 16 + 2 ^ 30) }

/-- An index token (R243, R246): W32 with `S` 0. -/
def idxTok (x : Nat) : Token := { payload := BitVec.ofNat 32 x }

/-! ### Decoding an input (R243, R244, R248) -/

/-- The head that a stream engine sees at a port, marks included. -/
def streamHead (p : Plane) (k : Fin 4) : Option Token :=
  if headSettled p k then rawHead p k else none

/-- A mark that the plane aligns and the engine does not consume (R169, R244). -/
def blocksAt (n : NodeId) (p : Plane) (k : Fin 4) (t : Token) : Bool :=
  t.kind == .mark && !isFormMark t && markCarrying n p k

/-- An index of a stream: above the last of its segment and within the unit's range (R248). -/
def idxCheck (lo hi : Nat) (last : Option Nat) (x : Nat) : Option Cause :=
  if (match last with
    | some y => decide (x ≤ y)
    | none => false) then some .mergeOrder
  else if x < lo ∨ hi < x then some .mergeIndexRange else none

/-- The entries of a dense token at index `x`: lanes above the range that hold +0 are padding (R243, R248). -/
def denseEntries (f : Fmt) (hi x : Nat) (w : Word) : List (Nat × Word) :=
  ((lanesOf f w).zipIdx.map fun e => (x + e.2, BitVec.ofNat 32 e.1)).filter fun e => !(decide (hi < e.1) && e.2 == 0)

/-- One token of a stream's input: the input afterwards and the stream's `S`, or the fault it raises (R243, R248). -/
def decodeTok (f : Fmt) (lo hi : Nat) (sb : Option Bool) (i : StreamIn) (t : Token) : Except Cause (StreamIn × Option Bool) :=
  if isFormMark t then
    if i.idx.isSome then .error .tagMismatch
    else .ok ({ i with dense := bitOf t.payload.toNat 30, run := none }, sb)
  else if t.kind != .data then .error .tagMismatch
  else
    let clash := match sb with
      | some v => t.s != v
      | none => false
    match i.dense, i.idx with
    | false, none =>
      if t.fmt != .w32 then .error .tagMismatch
      else match idxCheck lo hi i.last t.payload.toNat with
        | some c => .error c
        | none => .ok ({ i with idx := some t.payload.toNat }, sb)
    | false, some x =>
      if t.fmt != f then .error .tagMismatch
      else if clash then .error .scaleMismatch
      else .ok ({ i with idx := none, last := some x, pend := [(x, BitVec.ofNat 32 (lane f t.payload 0))], count := i.count + 1 }, some t.s)
    | true, _ =>
      if t.fmt == .w32 then
        match idxCheck lo hi i.last t.payload.toNat with
        | some c => .error c
        | none => .ok ({ i with run := some t.payload.toNat }, sb)
      else if t.fmt != f then .error .tagMismatch
      else
        match i.run with
        | none => .error .mergeOrder
        | some x =>
          let es := denseEntries f hi x t.payload
          if es.any fun e => decide (e.1 < lo) || decide (hi < e.1) then .error .mergeIndexRange
          else if clash then .error .scaleMismatch
          else .ok ({ i with run := some (x + f.lanes), last := some (x + f.lanes - 1), pend := es, count := i.count + es.length }, some t.s)

/-! ### Values (R69) -/

/-- A value widened to F32. -/
def widen (f : Fmt) (x : Word) : Word := BitVec.ofNat 32 (fCvt f .f32 .rne false x.toNat).1

/-- Whether an F32 value is finite. -/
def finite32 (x : Word) : Bool :=
  match fval .f32 x.toNat with
  | .nan => false
  | .inf _ => false
  | _ => true

/-- Whether an F32 value is infinite. -/
def inf32 (x : Word) : Bool :=
  match fval .f32 x.toNat with
  | .inf _ => true
  | _ => false

/-- Two F32 values combined, and whether the sum overflowed (R69, R143). -/
def combine (r : Red) (a b : Word) : Word × Bool :=
  match r with
  | .sum =>
    let v := BitVec.ofNat 32 (fAdd .f32 .rne a.toNat b.toNat).1
    (v, finite32 a && finite32 b && inf32 v)
  | .max => (BitVec.ofNat 32 (fMax .f32 a.toNat b.toNat), false)
  | .min => (BitVec.ofNat 32 (fMin .f32 a.toNat b.toNat), false)

/-- A held value as it is placed in a format, and whether the conversion overflowed (R69). -/
def narrow (f : Fmt) (x : Word) : Word × Bool :=
  let v := (fCvt .f32 f .rne false x.toNat).1
  (BitVec.ofNat 32 v, finite32 x && (match fval f v with
    | .inf _ => true
    | _ => false))

/-- `OVF` after an emission (R69, R116). -/
def countOvf (o : StreamOut) (a b : Bool) : StreamOut := { o with ovf := min (o.ovf + a.toNat + b.toNat) 0xFFFFFFFF }

/-! ### Output forms (R246) -/

/-- The token of an open dense token. -/
def openTok (f : Fmt) (sb : Bool) (ws : List Word) : Token := { fmt := f, s := sb, payload := packLanes f (ws.map (·.toNat)) }

/-- A fresh open token at a base with one lane filled. -/
def openAt (f : Fmt) (base x : Nat) (v : Word) : Nat × List Word :=
  (base, (List.range f.lanes).map fun j => if base + j = x then v else 0)

/-- An entry in dense output form (R246). -/
def emitDense (f : Fmt) (sb : Bool) (o : StreamOut) (x : Nat) (v : Word) : StreamOut × List Token :=
  let g := f.lanes
  let fresh := x / g * g
  match o.open_ with
  | none => ({ o with open_ := some (openAt f fresh x v) }, [idxTok fresh])
  | some (b, ws) =>
    if x < b + g then ({ o with open_ := some (b, ws.zipIdx.map fun e => if b + e.2 = x then v else e.1) }, [])
    else if x ≤ b + g - 1 + 16 then
      let k := (x - b) / g
      ({ o with open_ := some (openAt f (b + k * g) x v) }, openTok f sb ws :: List.replicate (k - 1) { fmt := f, s := sb })
    else ({ o with open_ := some (openAt f fresh x v) }, [openTok f sb ws, idxTok fresh])

/-- An entry in sparse output form, and the switch to dense form at the fill threshold (R246). -/
def emitSparse (thresh eos : Nat) (f : Fmt) (sb : Bool) (o : StreamOut) (x : Nat) (v : Word) : StreamOut × List Token :=
  let hist := (o.hist ++ [x]).drop ((o.hist.length + 1) - 256)
  let n := o.emitted + 1
  let span : Int := (x : Int) - (hist.headD x : Nat) + 1
  let sw := decide (256 ≤ n) && thresh != 0 && decide ((thresh : Int) * span ≤ 65536)
  ({ o with hist := hist, emitted := n, dense := sw },
   [idxTok x, { fmt := f, s := sb, payload := v }] ++ (if sw then [denseMark eos] else []))

/-- An entry in the output's form (R246). -/
def emitEntry (thresh eos : Nat) (f : Fmt) (sb : Bool) (o : StreamOut) (x : Nat) (v : Word) : StreamOut × List Token :=
  if o.dense then emitDense f sb o x v else emitSparse thresh eos f sb o x v

/-- The partly filled token written out (R245). -/
def flushOpen (f : Fmt) (sb : Bool) (o : StreamOut) : StreamOut × List Token :=
  match o.open_ with
  | none => (o, [])
  | some (_, ws) => ({ o with open_ := none }, [openTok f sb ws])

/-! ### The engine (R245) -/

/-- Changes a node's running stream operation. -/
def updEngine (s : State) (n : NodeId) (f : StreamOp → StreamOp) : State :=
  s.setNode n { s.node n with engine := (s.node n).engine.map f }

/-- Changes a plane's stream output. -/
def updSout (s : State) (n : NodeId) (l : Letter) (f : StreamOut → StreamOut) : State :=
  s.updPlane n l fun p => { p with sout := f p.sout }

/-- A stream operation faults: the engine stops after the entries already placed (R248, R252). -/
def streamFault (s : State) (n : NodeId) (e : StreamOp) (c : Cause) : State :=
  opFault (s.setNode n { s.node n with engine := none }) n e.letter e.op c

/-- Places the first token that waits for d into its slot, or drops it when d is no out-port. -/
def streamPlace (s : State) (n : NodeId) (e : StreamOp) : State :=
  match e.queue with
  | [] => s
  | t :: ts =>
    match e.dst with
    | .out k =>
      if (s.outp n e.letter k).slot.isNone && (s.outp n e.letter k).left != some s.cycle then
        updEngine (s.updOut n e.letter k fun o => { o with slot := some t }) n fun e => { e with queue := ts }
      else s
    | _ => updEngine s n fun e => { e with queue := ts }

/-- How an input stands: waiting for a token, blocked by a mark or its end, or with an entry. -/
inductive InSt where
  | wait
  | blocked
  | entry (x : Nat) (v : Word)
  deriving DecidableEq, Repr

/-- How an input stands (R244, R245). -/
def inSt (n : NodeId) (p : Plane) (i : StreamIn) : InSt :=
  match i.pend with
  | e :: _ => .entry e.1 e.2
  | [] =>
    match streamHead p (Fin.ofNat 4 i.port) with
    | none => .wait
    | some t => if i.idx.isNone && (t.kind == .eos || blocksAt n p (Fin.ofNat 4 i.port) t) then .blocked else .wait

/-- Decodes one token of an input that has no entry left, consuming it (R243, R248). -/
def pullIn (s : State) (n : NodeId) (e : StreamOp) (i : StreamIn) (put : StreamIn → StreamOp → StreamOp) : State × Option Cause :=
  let p := s.plane n e.letter
  let k := Fin.ofNat 4 i.port
  match i.pend, streamHead p k with
  | [], some t =>
    if (i.idx.isNone && t.kind == .eos) || blocksAt n p k t && i.idx.isNone then (s, none)
    else
      let s := dequeueStream s n e.letter k
      match decodeTok e.fmt (idxLo p) (idxHi p) e.sbit i t with
      | .error c => (s, some c)
      | .ok (j, sb) => (updEngine s n fun e => { put j e with sbit := sb }, none)
  | _, _ => (s, none)
where
  /-- A stream token is consumed as by a consuming read; a form mark leaves the port. -/
  dequeueStream (s : State) (n : NodeId) (l : Letter) (k : Fin 4) : State := consume s n l k

/-- Removes an entry that has been taken. -/
def popIn (i : StreamIn) : StreamIn := { i with pend := i.pend.tail }

/-- The entry a merge emits next, with the inputs it consumes and whether it overflowed (R69, R246). -/
def mergeNext (f : Fmt) (r : Red) (a b : InSt) : Option (Nat × Word × Bool × Bool × Bool) :=
  match a, b with
  | .wait, _ => none
  | _, .wait => none
  | .blocked, .blocked => none
  | .entry x v, .blocked => some (x, widen f v, false, true, false)
  | .blocked, .entry y w => some (y, widen f w, false, false, true)
  | .entry x v, .entry y w =>
    if x < y then some (x, widen f v, false, true, false)
    else if y < x then some (y, widen f w, false, false, true)
    else
      let (u, o) := combine r (widen f v) (widen f w)
      some (x, u, o, true, true)

/-- Sends tokens to d's queue and replaces the output. -/
def sendOut (s : State) (n : NodeId) (l : Letter) (o : StreamOut) (ts : List Token) : State :=
  updEngine (updSout s n l fun _ => o) n fun e => { e with queue := e.queue ++ ts }

/-- One entry of a merge (R246). -/
def mrgStep (s : State) (n : NodeId) (e : StreamOp) : State :=
  let p := s.plane n e.letter
  match e.inb with
  | none => s
  | some ib =>
    match mergeNext e.fmt e.red (inSt n p e.ina) (inSt n p ib) with
    | none =>
      if inSt n p e.ina == .blocked && inSt n p ib == .blocked && (alignedMark n p).isSome then
        let (o, ts) := flushOpen e.fmt (e.sbit.getD false) p.sout
        sendOut s n e.letter o ts
      else s
    | some (x, v, ov, ta, tb) =>
      let (w, cv) := narrow e.fmt v
      let (o, ts) := emitEntry (threshOf p) (eosPlaced s n) e.fmt (e.sbit.getD false) p.sout x w
      let s := sendOut s n e.letter (countOvf o ov cv) ts
      updEngine s n fun e => { e with ina := if ta then popIn e.ina else e.ina, inb := if tb then some (popIn ib) else e.inb }

/-- One entry of SPS (R247). -/
def spsStep (s : State) (n : NodeId) (e : StreamOp) : State :=
  let p := s.plane n e.letter
  match inSt n p e.ina with
  | .entry x v =>
    let (w, cv) := narrow e.fmt (widen e.fmt v)
    let zero := v.toNat % signBit e.fmt == 0
    let ts : List Token := if zero then [] else [idxTok x, { fmt := e.fmt, s := e.sbit.getD false, payload := w }]
    updEngine (sendOut s n e.letter (countOvf p.sout false cv) ts) n fun e => { e with ina := popIn e.ina }
  | _ => s

/-- One cycle of DNS (R247): the run begins at `IDXLO` rounded down, takes each entry at its index and zero elsewhere;
`placed` says that the segment's run has begun, and a later segment without entries has none (log 19). -/
def dnsStep (s : State) (n : NodeId) (e : StreamOp) : State :=
  let p := s.plane n e.letter
  let g := e.fmt.lanes
  let st := inSt n p e.ina
  if e.placed = 0 then
    let start := idxLo p / g * g
    let begins := !e.up || (match st with
      | .entry _ _ => true
      | _ => false)
    if begins then updEngine s n fun e => { e with placed := 1, up := true, idx := start, acc := [], queue := e.queue ++ [idxTok start] } else s
  else if idxHi p < e.idx then s
  else
    let out := openTok e.fmt (e.sbit.getD false) ((List.range g).map fun j => mget e.acc (e.idx + j))
    let send := updEngine s n fun e => { e with queue := e.queue ++ [out], idx := e.idx + g, acc := [] }
    match st with
    | .wait => s
    | .blocked => send
    | .entry x v =>
      if x < e.idx + g then
        let (w, cv) := narrow e.fmt (widen e.fmt v)
        updEngine (updSout s n e.letter fun o => countOvf o false cv) n fun e => { e with acc := mset e.acc x w, ina := popIn e.ina }
      else send

/-! ### Collectives (R249, R410, R411) -/

/-- The words of a port's group entry (R410). -/
def groupOf (s : State) (n : NodeId) (g : Nat) : Nat × Nat × Nat × Nat :=
  match n with
  | .pc q _ => (mget? (s.port q).groups g).getD (0, 0, 0, 0)
  | _ => (0, 0, 0, 0)

/-- `GV` (R410). -/
def groupValid (s : State) (n : NodeId) (g : Nat) : Bool := bitOf (groupOf s n g).1 0
/-- `GISROOT` (R410). -/
def groupRoot (s : State) (n : NodeId) (g : Nat) : Bool := bitOf (groupOf s n g).1 15
/-- `GNCH` (R410). -/
def groupKids (s : State) (n : NodeId) (g : Nat) : Nat := field (groupOf s n g).1 54 52

/-- The elements that an edge buffers (R411). -/
def edgeCap : Nat := 4096

/-- An edge of a unit's group under the key that counts its elements: to the parent 0, then the children. -/
def edgeKey (n : NodeId) (g : Nat) (c : Option Nat) : Nat × Nat × Nat :=
  (match n with
    | .pc _ u => u
    | _ => 0, g, (c.map (· + 1)).getD 0)

/-- The port of a port unit. -/
def portOf (n : NodeId) : Nat := match n with
  | .pc q _ => q
  | _ => 0

/-- Whether each of a list of edges has room for some more elements at its far end (R411). -/
def edgesRoom (s : State) (n : NodeId) (g : Nat) (edges : List (Option Nat)) (k : Nat) : Bool :=
  edges.all fun c => decide (mget (s.port (portOf n)).edges (edgeKey n g c) + k ≤ edgeCap)

/-- The far end of an edge that is full has taken elements: how many is a free value (R411; log 125). -/
def edgeReturn (g : Nat) (n : NodeId) (s : State) (c : Option Nat) : State :=
  let u := mget (s.port (portOf n)).edges (edgeKey n g c)
  if u + 8 ≤ edgeCap then s
  else { s with free := s.free + 1,
                ports := mupd s.ports (portOf n) fun p =>
                  { p with edges := mset p.edges (edgeKey n g c) (u - Config.freeNat s.free % (u + 1)) } }

/-- An edge has one more element on its way; an end and a PSN are none. -/
def edgeUse (g : Nat) (n : NodeId) (x : Partial) (s : State) (c : Option Nat) : State :=
  if x.eos || x.psn then s
  else { s with ports := mupd s.ports (portOf n) fun p => { p with edges := mupd p.edges (edgeKey n g c) (· + 1) } }

/-- Sends a piece on edges of a group: to the parent, or to children by position. -/
def sendEdges (s : State) (n : NodeId) (g : Nat) (edges : List (Option Nat)) (x : Partial) : State :=
  edges.foldl (edgeUse g n x) { s with netOut := s.netOut ++ edges.map fun c => (n, .part { x with child := c }) }

/-- The edges to a member's children. -/
def kidEdges (s : State) (n : NodeId) (g : Nat) : List (Option Nat) := (List.range (groupKids s n g)).map some

/-- COLLECTIVE_MISMATCH at a member: a PSN goes out on a list of the group's edges (R411). -/
def collectiveEnd (s : State) (n : NodeId) (e : StreamOp) (edges : List (Option Nat)) : State :=
  streamFault (sendEdges s n e.grp edges { fmt := e.fmt, red := e.red, s := e.sbit.getD false, psn := true }) n e .collectiveMismatch

/-- Every edge of a member: to its parent, unless it is the root, and to its children. -/
def allEdges (s : State) (n : NodeId) (g : Nat) : List (Option Nat) := (if groupRoot s n g then [] else [none]) ++ kidEdges s n g

/-- A member that detects a mismatch sends its PSN on every edge (R411). -/
def collectiveFault (s : State) (n : NodeId) (e : StreamOp) : State := collectiveEnd s n e (allEdges s n e.grp)

/-- An element's value added to what is held for its index (R69, R411). -/
def contribute (r : Red) (i : Nat) (v : Word) (o : StreamOut) (acc : Map Nat Word) : StreamOut × Map Nat Word :=
  match mget? acc i with
  | none => (o, mset acc i v)
  | some u =>
    let (w, ov) := combine r u v
    (countOvf o ov false, mset acc i w)

/-- Contributes a list of values at rising indices. -/
def contributeAll (r : Red) (i : Nat) (o : StreamOut) (acc : Map Nat Word) : List Word → StreamOut × Map Nat Word
  | [] => (o, acc)
  | v :: vs =>
    let (o, acc) := contribute r i v o acc
    contributeAll r (i + 1) o acc vs

/-- Whether element `idx` has come from the member and every child (R411). -/
def elemReady (s : State) (n : NodeId) (e : StreamOp) : Bool :=
  decide (e.idx < e.ina.count) && (List.range (groupKids s n e.grp)).all fun c => decide (e.idx < mget e.child c)

/-- Completes up to `k` elements: to the parent, or at the root into the final stream and down to the children. -/
def elemsUp (s : State) (n : NodeId) : Nat → State
  | 0 => s
  | k + 1 =>
    match (s.node n).engine with
    | none => s
    | some e =>
      if !elemReady s n e || !edgesRoom s n e.grp (if groupRoot s n e.grp then kidEdges s n e.grp else [none]) 1 then s
      else
        let v := mget e.acc e.idx
        let x : Partial := { fmt := e.fmt, red := e.red, s := e.sbit.getD false, index := e.idx, val := v }
        if groupRoot s n e.grp then
          let (w, cv) := narrow e.fmt v
          let x := { x with val := w }
          let s := updSout (sendEdges s n e.grp (kidEdges s n e.grp) x) n e.letter fun o => countOvf o false cv
          elemsUp (updEngine s n fun e => { e with acc := mdel e.acc e.idx, idx := e.idx + 1, down := e.down ++ [x] }) n k
        else
          elemsUp (updEngine (sendEdges s n e.grp [none] x) n fun e => { e with acc := mdel e.acc e.idx, idx := e.idx + 1 }) n k

/-- Places the next token of the final stream on d (R249). -/
def elemsDown (s : State) (n : NodeId) (e : StreamOp) : State :=
  let g := e.fmt.lanes
  let xs := e.down.take g
  if decide (xs.length = g) && xs.all (fun x => !x.eos) then
    updEngine s n fun e => { e with down := e.down.drop g, placed := e.placed + g,
                                    queue := e.queue ++ [openTok e.fmt ((xs.headD {}).s) (xs.map (·.val))] }
  else s

/-- A child's stream has ended short of the member's own (R249, R411). -/
def childShort (e : StreamOp) : Bool := e.kind == .cred && e.ceos.any fun c => decide (c.2 < e.ina.count)

/-- Takes one token of a collective's own stream (R249, R411); its edge holds up to 4,096 elements. A form mark sets the port's
decode form, which the element order of these operations does not use (R244). -/
def takeOwn (s : State) (n : NodeId) (e : StreamOp) : State :=
  let p := s.plane n e.letter
  let k := Fin.ofNat 4 e.ina.port
  match streamHead p k with
  | none => s
  | some t =>
    if t.kind == .eos || blocksAt n p k t || decide (e.idx + edgeCap ≤ e.ina.count)
        || (e.kind == .cbcs && !edgesRoom s n e.grp (kidEdges s n e.grp) e.fmt.lanes) then s
    else
      let s := consume s n e.letter k
      if isFormMark t then updEngine s n fun e => { e with ina := { e.ina with dense := bitOf t.payload.toNat 30 } }
      else if t.kind != .data || t.fmt != e.fmt then streamFault s n e .tagMismatch
      else if e.ina.s.isSome && e.ina.s != some t.s then streamFault s n e .scaleMismatch
      else if e.sbit.isSome && e.sbit != some t.s then collectiveFault s n e
      else
        let vs := (lanesOf e.fmt t.payload).map (BitVec.ofNat 32 ·)
        let i := e.ina.count
        let s := updEngine s n fun e => { e with sbit := some t.s, ina := { e.ina with s := some t.s, count := i + vs.length } }
        match e.kind with
        | .cbcs =>
          let xs : List Partial := vs.zipIdx.map fun v => { fmt := e.fmt, s := t.s, index := i + v.2, val := v.1 }
          let s := xs.foldl (fun s x => sendEdges s n e.grp (kidEdges s n e.grp) x) s
          updEngine s n fun e => { e with idx := i + vs.length, down := e.down ++ xs }
        | _ =>
          let (o, acc) := contributeAll e.red i p.sout e.acc (vs.map (widen e.fmt))
          updEngine (updSout s n e.letter fun _ => o) n fun e => { e with acc := acc }

/-- The payload of the EOS at an operation's a input (R245). -/
def eosOfA (p : Plane) (e : StreamOp) : Option Word :=
  match streamHead p (Fin.ofNat 4 e.ina.port) with
  | some t => if t.kind == .eos then some t.payload else none
  | none => none

/-- The end of a member's own part: its stream and every child have ended and all elements are combined; a child that
ended at another count is a mismatch (R411). -/
def ownEnd (s : State) (n : NodeId) (e : StreamOp) : State :=
  match eosOfA (s.plane n e.letter) e with
  | none => s
  | some w =>
    let kids := List.range (groupKids s n e.grp)
    let root := groupRoot s n e.grp
    let x : Partial := { fmt := e.fmt, red := e.red, s := e.sbit.getD false, index := e.ina.count, val := w, eos := true }
    if e.up then s
    else match e.kind with
      | .cbcs => updEngine (sendEdges s n e.grp (kidEdges s n e.grp) x) n fun e => { e with up := true, down := e.down ++ [x] }
      | _ =>
        if kids.any (fun c => match mget? e.ceos c with
            | some v => v != e.ina.count
            | none => decide (e.ina.count < mget e.child c)) then collectiveFault s n e
        else if kids.all (fun c => (mget? e.ceos c).isSome) && decide (e.idx = e.ina.count) then
          if root then updEngine (sendEdges s n e.grp (kidEdges s n e.grp) x) n fun e => { e with up := true, down := e.down ++ [x] }
          else updEngine (sendEdges s n e.grp [none] x) n fun e => { e with up := true }
        else s

/-- Whether an operation reads its a input: every one but CBCS at a member that is not the root (R249). -/
def readsA (s : State) (n : NodeId) (e : StreamOp) : Bool := e.kind != .cbcs || groupRoot s n e.grp

/-- One cycle of a collective. -/
def collectiveWork (s : State) (n : NodeId) (e : StreamOp) : State :=
  let s := (allEdges s n e.grp).foldl (edgeReturn e.grp n) s
  let s := if readsA s n e then takeOwn s n e else s
  let s := match (s.node n).engine with
    | some e => if e.kind == .cred then elemsUp s n e.fmt.lanes else s
    | none => s
  let s := match (s.node n).engine with
    | some e => if childShort e then collectiveFault s n e else if readsA s n e then ownEnd s n e else s
    | none => s
  match (s.node n).engine with
  | some e => elemsDown s n e
  | none => s

/-- A piece that arrives from the network disagrees with the member's own stream (R249, R411). -/
def partBad (e : StreamOp) (x : Partial) : Bool :=
  x.fmt != e.fmt || (e.kind == .cred && x.red != e.red) || (e.sbit.isSome && !x.eos && e.sbit != some x.s)

/-- One piece arrives at a member; one that finds its edge's buffer full stays with its sender; a PSN goes on to the group's other edges, so that it reaches every member (R249, R411). -/
def takePart (s : State) (n : NodeId) (x : Partial) : State :=
  match (s.node n).engine with
  | none => s
  | some e =>
    if x.psn then collectiveEnd s n e ((allEdges s n e.grp).filter (· != x.child))
    else if partBad e x then collectiveFault s n e
    else
      match x.child with
      | some c =>
        if e.kind != .cred || decide (groupKids s n e.grp ≤ c) || (mget? e.ceos c).isSome then s
        else if x.eos then
          if x.index ≠ mget e.child c then collectiveFault s n e
          else updEngine s n fun e => { e with ceos := mset e.ceos c x.index }
        else if x.index ≠ mget e.child c ∨ e.idx + edgeCap ≤ mget e.child c then s
        else
          let (o, acc) := contribute e.red x.index x.val (s.plane n e.letter).sout e.acc
          updEngine (updSout s n e.letter fun _ => o) n fun e =>
            { e with acc := acc, child := mset e.child c (x.index + 1), sbit := e.sbit.or (some x.s) }
      | none =>
        let have_ := e.placed + e.down.length
        if groupRoot s n e.grp || e.down.any (·.eos) then s
        else if x.index ≠ have_ then (if x.eos then collectiveFault s n e else s)
        else if !x.eos && (decide (edgeCap ≤ e.down.length) || !edgesRoom s n e.grp (kidEdges s n e.grp) 1) then s
        else updEngine (sendEdges s n e.grp (kidEdges s n e.grp) x) n fun e => { e with down := e.down ++ [x], sbit := e.sbit.or (some x.s) }

/-- Puts a piece behind those of its child and of children before it. -/
def placePart (x : Partial) : List Partial → List Partial
  | [] => [x]
  | y :: t => if y.child.getD 0 ≤ x.child.getD 0 then y :: placePart x t else x :: y :: t

/-- Pieces by increasing child position, those of one child in their order. -/
def byChild (parts : List Partial) : List Partial := parts.foldl (fun r x => placePart x r) []

/-- COLLECTIVE_RESULT (R411): pieces of streams that reach a member in one cycle, all of them together, by increasing child
position. -/
def execCollectiveResult (n : NodeId) (parts : List Partial) (s : State) : Res :=
  .next (match (s.node n).engine with
    | none => s
    | some e =>
      if (e.kind == .cred || e.kind == .cbcs) && e.resAt != some s.cycle then
        (byChild parts).foldl (fun s x => takePart s n x) (updEngine s n fun e => { e with resAt := some s.cycle })
      else s)

/-! ### A cycle of the engine -/

/-- A PSN stands at an input that the operation reads (R245). -/
def psnAt (s : State) (n : NodeId) (e : StreamOp) : Option Word :=
  let p := s.plane n e.letter
  let ks := (if readsA s n e then [e.ina.port] else []) ++ (match e.inb with
    | some b => [b.port]
    | none => [])
  ks.findSome? fun k => match streamHead p (Fin.ofNat 4 k) with
    | some t => if t.kind == .psn then some t.payload else none
    | none => none

/-- Decodes what a running MRG, DNS or SPS can take in a cycle: one token an input, a before b. -/
def pullAll (s : State) (n : NodeId) (e : StreamOp) : State × Option Cause :=
  match pullIn s n e e.ina (fun j e => { e with ina := j }) with
  | (s, some c) => (s, some c)
  | (s, none) =>
    match (s.node n).engine with
    | none => (s, none)
    | some e =>
      match e.inb with
      | none => (s, none)
      | some b => pullIn s n e b fun j e => { e with inb := some j }

/-- The next entry of a running operation. -/
def streamStep (s : State) (n : NodeId) (e : StreamOp) : State :=
  match e.kind with
  | .mrg => mrgStep s n e
  | .sps => spsStep s n e
  | .dns => dnsStep s n e
  | _ => s

/-- One cycle of a node's stream engine (R245): one token placed on d, one taken of each input. -/
def streamWork (s : State) (n : NodeId) : State :=
  match (s.node n).engine with
  | none => s
  | some e =>
    let p := s.plane n e.letter
    if p.stop != .run || p.parity.isSome then s
    else match psnAt s n e with
      | some w => s.updPlane n e.letter (poisonBy w)
      | none =>
        if !e.queue.isEmpty then streamPlace s n e
        else if e.fin then s
        else if e.kind == .cred || e.kind == .cbcs then collectiveWork s n e
        else
          match pullAll s n e with
          | (s, some c) => match (s.node n).engine with
            | some e => streamFault s n e c
            | none => s
          | (s, none) => match (s.node n).engine with
            | some e => streamStep s n e
            | none => s

/-! ### The end (R245) -/

/-- The payload of the EOS that ends an operation, once every input it reads holds EOS and nothing is left to place. -/
def endsWith (s : State) (n : NodeId) (e : StreamOp) : Option Word :=
  let p := s.plane n e.letter
  match e.kind with
  | .cred => match e.down with
    | [x] => if x.eos then eosOfA p e else none
    | _ => none
  | .cbcs => match e.down with
    | [x] => if x.eos then some x.val else none
    | _ => none
  | _ =>
    let b := match e.inb with
      | none => true
      | some i => inSt n p i == .blocked && (streamHead p (Fin.ofNat 4 i.port)).map (·.kind) == some .eos
    let run := e.kind != .dns || (e.up && (decide (e.placed = 0) || decide (idxHi p < e.idx)))
    if inSt n p e.ina == .blocked && b && run then eosOfA p e else none

/-- The output of a plane after an EOS: sparse again, one more EOS placed (R246). -/
def eosOut (o : StreamOut) : StreamOut := { dense := false, hist := [], emitted := 0, open_ := none, ovf := o.ovf, next := o.next + 1 }

/-- The ports whose EOS an operation consumes as it ends. -/
def endPorts (s : State) (n : NodeId) (e : StreamOp) : List (Fin 4) :=
  (if readsA s n e then [Fin.ofNat 4 e.ina.port] else []) ++ (match e.inb with
    | some b => [Fin.ofNat 4 b.port]
    | none => [])

/-- An operation retires: its EOS tokens are consumed, its hold on d ends (R245). -/
def retireStream (s : State) (n : NodeId) (e : StreamOp) : State :=
  let s := consumeAll s n e.letter (endPorts s n e)
  let s := s.setNode n { s.node n with engine := none }
  s.updOp n e.letter e.op fun o => { o with ready := true, due := s.cycle }

/-- STREAM_OPERATION_END (R245): every input read holds EOS: what is open and the EOS go to d; once they are placed the
operation retires. -/
def execStreamOperationEnd (n : NodeId) (s : State) : Res :=
  .next (match (s.node n).engine with
    | none => s
    | some e =>
      if (s.plane n e.letter).stop != .run || !e.queue.isEmpty then s
      else if e.fin then retireStream s n e
      else match endsWith s n e with
        | none => s
        | some w =>
          let (o, ts) := flushOpen e.fmt (e.sbit.getD false) (s.plane n e.letter).sout
          let t : Token := { kind := .eos, payload := w }
          let s := sendOut s n e.letter (eosOut o) (ts ++ [t])
          let s := updEngine s n fun e => { e with fin := true, down := [] }
          match e.dst with
          | .out _ => s
          | _ => s.updOp n e.letter e.op fun o => { o with toks := [t] })

/-- The segment that follows a mark: index order starts afresh, and the next dense entry opens a new run (R244, R246). -/
def nextSegment (i : StreamIn) : StreamIn := { i with last := none, run := none, idx := none }

/-- A running operation after a mark of its plane. -/
def engineSegment (e : StreamOp) : StreamOp :=
  { e with ina := nextSegment e.ina, inb := e.inb.map nextSegment, placed := if e.kind == .dns then 0 else e.placed }

/-! ### MRG, DNS, SPS, CRED, CBCS -/

/-- The in-port of a stream's source. -/
def streamPort (a : Src) : Nat := match srcNames a with
  | some k => k.val
  | none => 0

/-- Issues a stream operation (R245): the streams are read by the engine. -/
def streamIssue (d : Dst) (chk : Option Cause) (e : StreamOp) (s : State) : State :=
  let n := actNode s
  let l := actLetter s
  launch s 1 d [] chk (fun o => { o with kind := .stream, ready := false }) fun o t =>
    t.setNode n { t.node n with engine := some { e with op := o.id, letter := l, dst := d } }

/-- MRG (R246). -/
def execMrg (f : Fmt) (r : Red) (d : Dst) (a b : Src) (s : State) : Res :=
  .next (streamIssue d none
    { kind := .mrg, fmt := f, red := r, ina := { port := streamPort a }, inb := some { port := streamPort b } } s)
/-- DNS (R247). -/
def execDns (f : Fmt) (d : Dst) (a : Src) (s : State) : Res :=
  .next (streamIssue d none
    { kind := .dns, fmt := f, ina := { port := streamPort a }, queue := [denseMark (eosPlaced s (actNode s))] } s)
/-- SPS (R247). -/
def execSps (f : Fmt) (d : Dst) (a : Src) (s : State) : Res :=
  .next (streamIssue d none { kind := .sps, fmt := f, ina := { port := streamPort a } } s)

/-- A group that is not valid (R410). -/
def groupCheck (s : State) (g : Nat) : Option Cause :=
  if groupValid s (actNode s) g then none else some .collectiveMismatch

/-- CRED (R249, R411). -/
def execCred (f : Fmt) (r : Red) (d : Dst) (a : Src) (grp : BitVec 4) (s : State) : Res :=
  .next (impreciseAt (streamIssue d (groupCheck s grp.toNat)
    { kind := .cred, fmt := f, red := r, grp := grp.toNat, ina := { port := streamPort a } } s) (actNode s) (actLetter s))
/-- CBCS (R249, R411). -/
def execCbcs (f : Fmt) (d : Dst) (a : Src) (grp : BitVec 4) (s : State) : Res :=
  .next (impreciseAt (streamIssue d (groupCheck s grp.toNat)
    { kind := .cbcs, fmt := f, grp := grp.toNat, ina := { port := streamPort a } } s) (actNode s) (actLetter s))

end Sys2Proof.Machine
end

