-- ==== Sys2Proof/Machine/Seam.lean ====
section
/-! DEFINITION. Seam instructions, group 0x5 (R160 to R166, R176). -/

namespace Sys2Proof.Machine
open Sys2Proof

/-- EMIT (R160). -/
def execEmit (d : Dst) (a : Src) (s : State) : Res :=
  let x := readSrc s .w32 a
  .next (finish s 1 d [a] (tokRes .w32 [(x, .any)] x.tok))

/-- DROP (R161). -/
def execDrop (a : Src) (s : State) : Res :=
  let x := readSrc s .w32 a
  .next (finish s 1 .disc [a] (tokRes .w32 [(x, .every)] x.tok))

/-- FWD, which passes poison too (R158, R160). -/
def execFwd (d : Dst) (a : Src) (s : State) : Res :=
  let x := readSrc s .w32 a
  .next (finish s 1 d [a] (tokRes .w32 [(x, .every)] x.tok))

/-- STEER (R162). -/
def execSteer (d : Dst) (a : Src) (k : BitVec 8) (s : State) : Res :=
  let x := readSrc s .w32 a
  .next (finish s 1 d [a] (tokRes .w32 [(x, .raw)]
    { kind := .steer, payload := BitVec.ofNat 32 (k.toNat + x.tok.payload.toNat % 2 ^ 24 * 256) }))

/-- The out-port whose departure swaps the acting stitch (R176). -/
def armSwap (s : State) (d : Dst) : State :=
  match d with
  | .out k => s.updOut (actNode s) (actLetter s) k fun o => { o with swap := true }
  | _ => s

/-- The checks of SWPT and ARM beyond their operand: a shared ring (R397), then a basted other plane (R176). -/
def swapCheck (s : State) (f : Option Cause) : Option Cause :=
  let n := actNode s
  let l := actLetter s
  match f with
  | some c => some c
  | none =>
    if ringShared s (ctxOf s n l) then some .privilege
    else if !otherBasted s n l then some .patternAbsent else none

/-- Sends a token whose departure swaps the stitch (R176, R178). -/
def swapSend (s : State) (d : Dst) (a : Src) (f : Option Cause) (t : Token) : State :=
  match swapCheck s f with
  | some c => raise s c (srcPorts [a])
  | none =>
    let r := finish s 1 d [a] { out := .ok t }
    if dstUnwired s (actNode s) (actLetter s) d then r else armSwap r d

/-- SWPT (R176). -/
def execSwpt (d : Dst) (a : Src) (s : State) : Res :=
  let x := readSrc s .w32 a
  .next (swapSend s d a (checkOpds .w32 [(x, .any)]) x.tok)

/-- The sticky residue of a port, in the plane or in the image an EMUL acts on (R163, R190). DESIGN CHOICE (log 120): under EMUL the
image's residue is set whatever stands at the image's head; R190 has no rule for a head that is absent or not DATA. -/
def setSticky (s : State) (k : Fin 4) (v : Nat) : State :=
  match s.cur with
  | .slot n l _ => s.updIn n l k fun q => { q with residue := v }
  | .emul c =>
    let n := (s.core c).tselNode
    let l := (s.core c).tselLetter
    let i := imageOf s c n l
    setImage s c n l { i with sticky := i.sticky.set k v }
  | _ => s

/-- STKY (R163). -/
def execStky (a : Src) (n : BitVec 8) (s : State) : Res :=
  match srcNames a with
  | some k => .next (setSticky (finish s 1 .disc [] (w32Res 0)) k n.toNat)
  | none => .next s

/-- Free FIFO entries of a port; a token that cv holds, or that waits in the seam's buffer slot, is in none (R19, R22, R164, R258). -/
def freeEntries (q : InPort) : Nat := fifoCap - q.fifo.length

/-- The demand credit of a lazy port (R164). -/
def demand (w : Word) (n : Nat) (q : InPort) : InPort :=
  if iwLazy w then { q with credit := min n (freeEntries q) } else q

/-- DMND (R164). -/
def execDmnd (a : Src) (n : BitVec 11) (s : State) : Res :=
  match srcNames a with
  | some k =>
    let m := actNode s
    let l := actLetter s
    .next ((finish s 1 .disc [] (w32Res 0)).updIn m l k (demand (s.plane m l).inw[k] n.toNat))
  | none => .next s

/-- HALT (R165). -/
def execHalt (s : State) : Res :=
  .next ((finish s 1 .disc [] (w32Res 0)).updPlane (actNode s) (actLetter s) fun p => { p with halted := true })

/-- NOP (R165). -/
def execNop (s : State) : Res := .next (finish s 1 .disc [] (w32Res 0))

/-- WAITT, eligible only from the promised cycle on (R166). -/
def execWaitt (d : Dst) (a : Src) (s : State) : Res :=
  let x := readSrc s .w32 a
  .next (finish s 1 d [a] (tokRes .w32 [(x, .raw)] x.tok))

end Sys2Proof.Machine
end

