-- ==== Sys2Proof/Machine/System.lean ====
section
/-! DEFINITION. System instructions: traps, priority, plane loads and marks, the bespoke store, and the
instructions of sequential mode (R173 to R179, R186, R188 to R191, R372). -/

namespace Sys2Proof.Machine
open Sys2Proof

/-! ### TRAP, BRK, PRIO (R186, R188, R380) -/

/-- A firing that faults with an argument for the trap record; in a handler the handler ends (R188). -/
def raiseArg (s : State) (c : Cause) (arg : Nat) : State :=
  match s.cur with
  | .slot n l k => takeTrap s { slotTrap s n l k c [] with arg := arg }
  | _ => raise s c []

/-- TRAP (R188). -/
def execTrap (arg : BitVec 16) (s : State) : Res := .next (raiseArg s .software arg.toNat)

/-- Freezes or thaws every plane of an instance (R380). -/
def freezeInst (s : State) (i : Nat) (v : Bool) : State :=
  let f (p : Plane) : Plane := if p.inst = i then { p with frozen := v } else p
  { s with nodes := mmap s.nodes fun _ d => { d with pa := f d.pa, pb := f d.pb }
           insts := mupd s.insts i fun x => { x with frozen := v } }

/-- BRK: a breakpoint when `DBGEN` bit 0 is set, which also freezes the instance (R380), else a NOP (R188). -/
def execBrk (arg : BitVec 16) (s : State) : Res :=
  if bitOf (s.ctx (coreCtx s)).dbgen 0 then
    let r := raiseArg s .breakpoint arg.toNat
    .next (match s.cur with
      | .slot _ _ _ => freezeInst r (actInst s) true
      | _ => r)
  else .next (finish s 1 .disc [] (w32Res 0))

/-- PRIO (R186): the class takes effect at write-back. -/
def execPrio (c : BitVec 16) (s : State) : Res :=
  let chk := if (s.ctx (actCtx s)).maxcls < c.toNat then some Cause.priorityInvalid else none
  .next (launch s 1 .disc [] chk (fun o => { o with kind := .prio, arg := c.toNat }) fun _ t => t)

/-! ### ARM and RLAT (R178, R179) -/

/-- ARM (R178). -/
def execArm (d : Dst) (a : Src) (s : State) : Res :=
  let x := readSrc s .w32 a
  .next (swapSend s d a (checkOpds .w32 [(x, .raw)])
    { kind := .mark, payload := BitVec.ofNat 32 (0x80000004 + x.tok.payload.toNat % 2 ^ 27 * 16) })

/-- RLAT (R179): the mark carries the window and the instance's re-latch count, which it then increments. -/
def execRlat (d : Dst) (w : BitVec 4) (s : State) : Res :=
  let i := actInst s
  let v := s.inst i
  let ok := match v.wins[w.toNat]? with
    | some x => x.described
    | none => false
  let m : Token := { kind := .mark, payload := BitVec.ofNat 32 (2 + w.toNat * 16 + v.relatch % 2 ^ 24 * 256) }
  .next (launch s 1 d [] (if ok then none else some .windowAccess) (fun o => { o with toks := [m] })
    fun _ t => impreciseAt (t.updInst i fun x => { x with relatch := x.relatch + 1 }) (actNode s) (actLetter s))

/-! ### PLOAD (R173, R174) -/

/-- The checks of PLOAD (R173, R397). -/
def ploadCheck (s : State) (i : Nat) (pat : Nat) : Option Cause :=
  let v := s.inst i
  if ringShared s v.ctx then some .privilege
  else match mget? (s.ctx v.ctx).pats pat with
    | none => some .patternAbsent
    | some q => if q.fw = v.pat.fw ∧ q.fh = v.pat.fh then none else some .callsiteInvalid

/-- Whether the letter `l` is being loaded (R174). -/
def loadingNow (s : State) (p : Nat) (l : Letter) : Bool :=
  match (s.side p l).hold with
  | .loading _ _ _ => true
  | _ => false

/-- Marks an operation's token as computed: it writes back from cycle `due` on. -/
def readyOp (t : Token) (due : Nat) (o : Op) : Op := { o with toks := [t], ready := true, due := due }

/-- A node's address in its panel (R29). -/
def addrOf : NodeId → Nat
  | .panel _ a => a
  | _ => 72

/-- Whether a waiting PLOAD issued in the present cycle. -/
def ploadNow (s : State) (e : NodeId × Letter × Nat × Nat) : Bool :=
  match s.op? e.1 e.2.1 e.2.2.1 with
  | some o => decide (o.issued = s.cycle)
  | none => false

/-- Puts a PLOAD among those that wait: PLOADs of one cycle stand in increasing node address (R174). -/
def ploadInsert (s : State) (e : NodeId × Letter × Nat × Nat) (es : List (NodeId × Letter × Nat × Nat)) : List (NodeId × Letter × Nat × Nat) :=
  let later := es.filter fun x => ploadNow s x && ploadNow s e && decide (addrOf e.1 < addrOf x.1)
  (es.filter fun x => !later.contains x) ++ e :: later

/-- The pattern that a letter is loading. -/
def loadingPat (v : PanelSide) : Option Nat :=
  match v.hold with
  | .loading _ k _ => some k
  | _ => none

/-- A PLOAD that starts no load at once waits for the letter; the first of those that wait for a letter nothing loads, or that
began to load in this very cycle, is the one that loads (R174). -/
def ploadWait (s : State) (p : Nat) (x : Letter) (i : Nat) (e : NodeId × Letter × Nat × Nat) : State :=
  let v := s.side p x
  let es := ploadInsert s e v.ploads
  let first := (es.head?.map (·.2.2.2)).getD 0
  let fresh := !loadingNow s p x || (v.ploads.all (ploadNow s) && loadingPat v != some first)
  let s := if fresh then startLoad s p x i ((mget? (s.ctx (s.inst i).ctx).pats first).getD {}) else s
  s.updSide p x fun v => { v with ploads := es }

/-- Whether a PLOAD finds its pattern basted: now, or before the loads that PLOADs of higher node addresses have started in
this cycle, which are taken after it (R174). -/
def findsBasted (s : State) (p : Nat) (x : Letter) (n : NodeId) (i pat : Nat) : Bool :=
  bastedWith s p x i pat
  || ((s.side p x).was == some (s.cycle, i, pat)
      && (s.side p x).ploads.all fun e => ploadNow s e && decide (addrOf n < addrOf e.1))

/-- PLOAD from a slot, past its checks: no load when the other letter has the pattern, else a load now or after
the one in progress (R174). -/
def ploadGo (s : State) (n : NodeId) (l : Letter) (i pat : Nat) (o : Op) : State :=
  let p := panelOf s n l
  if findsBasted s p l.other n i pat then s.updOp n l o.id (readyOp { payload := BitVec.ofNat 32 pat } (s.cycle + slow s n 1))
  else ploadWait s p l.other i (n, l, o.id, pat)

/-- PLOAD in a handler (R138, R174): it issues once the other planes may be loaded, waits among the panel's PLOADs under
operation 0, and completes when its load has. -/
def ploadCore (s : State) (c : Nat) (d : Dst) (k : Nat) : State :=
  let n := actNode s
  let l := actLetter s
  let i := actInst s
  let p := panelOf s n l
  let wait (x : Option (Nat × Bool)) (t : State) : State := t.updCore c fun q => { q with wait := true, pload := x }
  let done (t : State) : State := (finish t 1 d [] (w32Res (BitVec.ofNat 32 k))).updCore c fun q => { q with pload := none }
  match (s.core c).pload with
  | some (_, true) => done s
  | some (_, false) => wait (s.core c).pload s
  | none =>
    match ploadCheck s i k with
    | some e => raise s e []
    | none =>
      if bastedWith s p l.other i k then done s
      else if otherTaken s p l i then wait none s
      else wait (some (k, false)) (ploadWait s p l.other i (n, l, 0, k))

/-- PLOAD (R173 to R175). -/
def execPload (d : Dst) (pat : BitVec 12) (s : State) : Res :=
  let i := actInst s
  let k := pat.toNat
  match s.cur with
  | .core c => .next (ploadCore s c d k)
  | .slot n l _ =>
    .next (launch s 1 d [] (ploadCheck s i k) (fun o => { o with kind := .pload k, ready := false })
      fun o t => impreciseAt (ploadGo t n l i k o) n l)
  | _ => .next s

/-! ### The bespoke store (R121, R128, R191) -/

/-- The privilege check of BSLD and BSBD (R128). DESIGN CHOICE (log 119): R128 and R133 do not order it and the operand check of
sA, which comes first, nor it and the checks of R121, before which it stands. -/
def privCheck (s : State) : Option Cause :=
  match s.cur with
  | .core _ => none
  | _ => if (s.ctx (actCtx s)).priv then none else some .privilege

/-- Writes a micro-word of a panel's letter and of its context's sequences (R41, R191). -/
def writeMicroWord (s : State) (p : Nat) (l : Letter) (c j : Nat) (w : Word) : State :=
  (s.updSide p l fun v => { v with micro := mset v.micro j w }).updCtx c fun x => { x with micro := mset x.micro j w }

/-- Writes a binding word, which fixes what the sequence reads and writes (R118, R191, R192). -/
def writeBinding (s : State) (p : Nat) (l : Letter) (c k : Nat) (w : Word) : State :=
  let w := w &&& 0x8000FFFF
  (s.updSide p l fun v => { v with bind := mset v.bind k w, uses := mset v.uses k (seqUses v w) }).updCtx c fun x => { x with bound := mset x.bound k w }

/-- A micro-word that BSBD accepts at a position of a sequence of `len` words (R121). -/
def microOk (w : Word) (pos len : Nat) : Bool :=
  let inside (off : Int) : Bool := decide (0 ≤ (pos : Int) + off) && decide ((pos : Int) + off < len)
  match decodeA .bespoke 0 w with
  | .error _ => false
  | .ok (.mbr _ off) => inside off.toInt
  | .ok (.mlp _ off) => inside off.toInt
  | .ok _ => true

/-- Whether a micro-word is MEND. -/
def isMend (w : Word) : Bool :=
  match decodeA .bespoke 0 w with
  | .ok (.mend _) => true
  | _ => false

/-- The checks BSBD makes of the sequence it binds (R121); a word with `BV` 0 binds none. -/
def bindCheck (v : PanelSide) (b : Word) : Option Cause :=
  let len := field b.toNat 15 9
  let start := field b.toNat 8 0
  if !bitOf b.toNat 31 then none
  else if len < 1 ∨ 64 < len ∨ 512 < start + len then some .bespokeLimit
  else
    let ws := boundWords v b
    if (ws.zipIdx.all fun e => microOk e.1 e.2 len) && ws.any isMend then none else some .bespokeIllegal

/-- The bespoke store of a panel's letter as a BSBD that issues now sees it: the BSLDs still in flight there, which take effect
before it, included (R191). -/
def storeSoon (s : State) (p : Nat) (l : Letter) : PanelSide :=
  let ops := s.nodes.flatMap fun e => match e.1 with
    | .panel q _ => if q = p then (e.2.plane l).ops.filter fun o => o.kind == .bsld else []
    | _ => []
  let latest (j : Nat) : Option Op := ops.foldl (fun b o =>
    if o.arg ≠ j then b else match b with
      | none => some o
      | some x => if x.id ≤ o.id then some o else some x) none
  let v := s.side p l
  { v with micro := ops.foldl (fun m o => mset m o.arg (((latest o.arg).map (·.fold)).getD 0)) v.micro }

/-- BSLD (R191): at write-back in a slot, at once in a handler. DESIGN CHOICE (log 119): the operand check comes before PRIVILEGE. -/
def execBsld (a : Src) (j : BitVec 9) (s : State) : Res :=
  let x := readSrc s .w32 a
  let chk := (checkOpds .w32 [(x, .raw)]).or (privCheck s)
  match s.cur with
  | .core c =>
    let n := actNode s
    let l := actLetter s
    .next (match chk with
      | some e => raise s e []
      | none => if bspBusy s (panelOf s n l) l || bsldBusy s (panelOf s n l) l then s.updCore c fun q => { q with wait := true }
          else writeMicroWord s (panelOf s n l) l (coreCtx s) j.toNat x.tok.payload)
  | _ => .next (launch s 2 .disc [a] chk (fun o => { o with kind := .bsld, arg := j.toNat, fold := x.tok.payload }) fun _ t => t)

/-- BSBD (R121, R191). DESIGN CHOICE (log 119): the operand check comes first, then PRIVILEGE, then the checks of R121. -/
def execBsbd (a : Src) (k : BitVec 5) (s : State) : Res :=
  let x := readSrc s .w32 a
  let n := actNode s
  let l := actLetter s
  let chk := ((checkOpds .w32 [(x, .raw)]).or (privCheck s)).or (bindCheck (storeSoon s (panelOf s n l) l) x.tok.payload)
  match s.cur with
  | .core c =>
    .next (match chk with
      | some e => raise s e []
      | none => if bspBusy s (panelOf s n l) l || bsldBusy s (panelOf s n l) l then s.updCore c fun q => { q with wait := true }
          else writeBinding s (panelOf s n l) l (coreCtx s) k.toNat x.tok.payload)
  | _ => .next (launch s 2 .disc [a] chk (fun o => { o with kind := .bsbd, arg := k.toNat, fold := x.tok.payload }) fun _ t => t)

/-! ### Sequential mode (R189, R372) -/

/-- JMPR (R189). -/
def execJmpr (a : Src) (s : State) : Res :=
  let x := readSrc s .w32 a
  .next (match checkOpds .w32 [(x, .raw)] with
    | some e => raise s e []
    | none => match s.cur with
      | .core c => s.updCore c fun k => { k with branch := some x.tok.payload.toNat }
      | _ => s)

/-- LNK (R189). -/
def execLnk (d : Dst) (off : BitVec 16) (s : State) : Res :=
  .next (match s.cur with
    | .core c =>
      let p := (s.core c).pos
      (finish s 1 d [] (w32Res (BitVec.ofNat 32 (p + 1)))).updCore c fun k => { k with branch := some ((p : Int) + off.toInt) }
    | _ => s)

/-- A replay reads the shadows of the window region's planes; an error that cannot be corrected faults the node (R266, R373, R381). -/
def shadowReads (s : State) (i : Nat) : State :=
  (s.inst i).region.foldl (fun s e =>
    match eccBytes s (ctxOf s e.1 e.2) (homeShadow e.1 e.2) 512 with
    | (s, none) => s
    | (s, some c) => headFault s e.1 e.2 c) s

/-- ERET with action `act` (R372): SYSREG_INVALID in the handler when `TACT` is not that action or it is not legal
for the trap's class and phase. -/
def eret (act : Nat) (s : State) : State :=
  match s.cur with
  | .core c =>
    let t := servedTrap s c
    if (s.core c).serving.isNone then s
    else if (s.core c).tact = act ∧ actLegal t act = true then
      let r := leaveTrap s c act t.cause
      if act = 1 then shadowReads r t.inst else r
    else handlerFault s c .sysregInvalid
  | _ => s

/-- ERET with `TACT` 0, continue (R372). -/
def execEretContinue (s : State) : Res := .next (eret 0 s)
/-- ERET with `TACT` 1, replay (R372, R373). -/
def execEretReplay (s : State) : Res := .next (eret 1 s)
/-- ERET with `TACT` 2, retire (R372). -/
def execEretRetire (s : State) : Res := .next (eret 2 s)
/-- ERET with `TACT` 3, terminate (R372, R375). -/
def execEretTerminate (s : State) : Res := .next (eret 3 s)

end Sys2Proof.Machine
end

