-- ==== Sys2Proof/Machine/Tokens.lean ====
section
/-! DEFINITION. The events of tokens, seams and planes: arrival, conversion, requests, departures, write-back, the EOS
and mark actions, poison, plane loads, and the release of commit windows. An event whose conditions do not hold leaves
the state as it is. -/

namespace Sys2Proof.Machine
open Sys2Proof

/-! ### Arrival (R10, R13, R19, R22, R40, R258) -/

/-- A token from another device at the network seam of a port unit: a free value (R409; log 20). Marks do not cross. -/
def netToken (s : State) : Token :=
  let k := (Config.freeWord s.free).toNat
  { kind := [Kind.data, .blkh, .eos, .psn, .steer].getD (k % 5) .data, fmt := Fmt.ofCode (k / 8 % 8), s := bitOf k 6,
    payload := Config.freeWord (s.free + 1) }

/-- The token that reaches an in-port next, and the in-port without it. -/
def nextFlight (s : State) (n : NodeId) (k : Fin 4) (q : InPort) : Option (Flight × InPort) :=
  match q.lane with
  | f :: t => if f.due ≤ s.cycle then some (f, { q with lane := t }) else none
  | [] => if kindOf n == .pc && k == 3 then some ({ tok := netToken s }, q) else none

/-- Demand credit ends when the FIFO is full (R164); a token that cv returns has used its credit as it arrived. -/
def capCredit (q : InPort) : InPort := if fifoCap ≤ q.fifo.length then { q with credit := 0 } else q

/-- TOKEN_ARRIVAL (R19, R22, R40, R258): a token enters a free FIFO entry of an active plane, the one in the buffer slot
first; at an inactive plane it waits in the buffer slot. -/
def execTokenArrival (n : NodeId) (l : Letter) (port : Fin 4) (s : State) : Res :=
  let p := s.plane n l
  let q := p.ins[port]
  .next (
    if p.active then
      if fifoCap ≤ q.fifo.length ∨ q.cv.isSome then s
      else if q.buf.isSome then enterBuf s n l port
      else match nextFlight s n port q with
        | none => s
        | some (f, r) =>
          arrive ({ s with free := s.free + 2 }.updIn n l port fun _ => r) n l port f
    else if q.buf.isSome then s
    else match nextFlight s n port q with
      | none => s
      | some (f, r) => { s with free := s.free + 2 }.updIn n l port fun _ => { r with buf := some f })

/-- CV_CONVERSION (R22, R117): cv returns the token into its in-port. -/
def execCvConversion (n : NodeId) (l : Letter) (port : Fin 4) (s : State) : Res :=
  let p := s.plane n l
  let q := p.ins[port]
  .next (match q.cv with
    | none => s
    | some f =>
      if s.cycle < f.due ∨ fifoCap ≤ q.fifo.length then s
      else
        let (t, c) := match cvEntry s n l f.tok with
          | some w => cvConvert w p.pcw f.tok
          | none => (f.tok, some .steerUnrouted)
        let bad := c.or (if accepts p.inw[port] t then none else some .steerUnrouted)
        (enqueue (s.updIn n l port fun q => { q with cv := none }) n l port
          { tok := t, bad := bad, back := true, from_ := f.from_ }).updIn n l port capCredit)

/-! ### Requests (R24, R164) -/

/-- The consumer of port `q` % 4 of drain route `q` / 4 sends its request up the return wire to the array, or withdraws it (R24, R240). -/
def drainRequest (s : State) (n : NodeId) (l : Letter) (q : Nat) : State :=
  match kindOf n == .mxa && decide (q < 64), drainTarget s n l ((s.plane n l).ext.getD (q / 4) 0) (q % 4) with
  | true, .port m ml j _ =>
    let asks := rwWired ((s.plane n l).ext.getD (q / 4) 0) && iwLazy (s.plane m ml).inw[j] && (s.plane m ml).active && lazyNeed s m ml j
    let rs := (s.plane n l).mxa.reqs
    let rs := if !asks then rs.filter (fun r => r.1 != q)
      else if rs.any (fun r => r.1 == q) then rs else rs ++ [(q, s.cycle + wireTime s n m)]
    s.updPlane n l fun p => { p with mxa := { p.mxa with reqs := rs } }
  | _, _ => s

/-- LAZY_REQUEST (R24, R164): the `k`-th consumer sends its request up the return wire to the producing out-port; one that no
longer stands is withdrawn (log 11). From 4 on, `out` counts an array's drain ports. -/
def execLazyRequest (n : NodeId) (l : Letter) (out k : Nat) (s : State) : Res :=
  let o : Fin 4 := Fin.ofNat 4 out
  .next (if 4 ≤ out then drainRequest s n l (out - 4) else match (targets s n l o)[k]? with
    | some (.port m ml j _) =>
      if iwLazy (s.plane m ml).inw[j] && (s.plane m ml).active && lazyNeed s m ml j then
        s.updOut n l o fun p => if p.reqs.any (fun r => r.1 == k) then p else { p with reqs := p.reqs ++ [(k, s.cycle + wireTime s n m)] }
      else s.updOut n l o fun p => { p with reqs := p.reqs.filter fun r => r.1 != k }
    | _ => s)

/-! ### Departure (R25 to R27, R63, R64, R172, R176, R353) -/

/-- A control token, which departs on room alone (R172). -/
def isCtrl (t : Token) : Bool := t.kind == .eos || t.kind == .mark || t.kind == .psn

/-- Whether the `j`-th consumer can take the token of an out-port now (R24, R25, R172). -/
def canTake (s : State) (n : NodeId) (o : OutPort) (t : Token) (j : Nat) (tg : Target) : Bool :=
  requested s n o j (isCtrl t) tg && (match tg with
    | .port m ml k _ => isCtrl t || !iwLazy (s.plane m ml).inw[k] || !(s.plane m ml).active || lazyNeed s m ml k
    | _ => true)

/-- Whether a consumer is a spill segment (R353). -/
def isSpill : Target → Bool
  | .spill _ _ => true
  | _ => false

/-- The token of an out-port departs to all its consumers: the edge scaler acts, the slot is free, and a pending swap
happens (R25, R27, R63, R64, R176). DESIGN CHOICE (log 38): a BLKH whose scaling faults leaves the slot and reaches no consumer,
and a swap that waited for it does not happen; the spec says neither. -/
def sendSlot (s : State) (n : NodeId) (l : Letter) (k : Fin 4) (t : Token) (ts : List Target) : State :=
  let p := s.plane n l
  let sc := rwScale p.rw[k]
  let clear (o : OutPort) : OutPort := { o with slot := none, reqs := [], swap := false, heldSince := none, left := some s.cycle }
  match (if sc then edgeScale (rndOfDrm (field p.pcw.toNat 2 0)) p.sw[k] t else .ok t) with
  | .error c => headFault (s.updOut n l k clear) n l c
  | .ok t =>
    let sw := p.outs[k].swap
    let s := (ts.foldl (fun s tg => deliverAfter sc.toNat s n l t tg) s).updOut n l k fun o => { clear o with blk := blkLeft t o.blk }
    if sw then swapPlanes s n l else s

/-- A WIN mark (R11, R212). -/
def winMark (k : Nat) : Token := { kind := .mark, payload := BitVec.ofNat 32 (3 + k % 2 ^ 28 * 16) }

/-- Whether a token is a WIN mark. -/
def isWin (t : Token) : Bool := t.kind == .mark && markSub t.payload == 3

/-- A mark or EOS that a memory port places itself, as an entry of its return queue from a cycle on. -/
def ownEntry (due : Nat) (t : Token) : RetEntry := { tok := some t, due := due }

/-- A node of the window region arrives at a WIN mark and holds (R368). -/
def winArrive (s : State) (n : NodeId) (l : Letter) : State :=
  (s.updPlane n l fun p => { p with stop := .winHold }).updInst (instOf s n l) fun v => { v with winArr := v.winArr ++ [(n, l)] }

/-- Puts a mark ahead of the results that wait, behind marks that are held there (R49). -/
def insertMark (e : RetEntry) : List RetEntry → List RetEntry
  | [] => [e]
  | x :: q => if x.op = 0 ∧ (x.tok.map isWin) = some true ∧ x.due = 0 then x :: insertMark e q else e :: x :: q

/-- WIN_MARK_INSERT (R49, R212): a result of a commit window counts, and after every N of them the window's next mark
follows. -/
def countWin (w n : Nat) (k : Fin 4) (p : Plane) : Plane :=
  let key := w * 4 + k.val
  let c := mget p.mp.since key + 1
  if c < n then { p with mp := { p.mp with since := mset p.mp.since key c } }
  else
    let m := mget p.mp.wins w + 1
    { p with mp := { p.mp with since := mset p.mp.since key 0, wins := mset p.mp.wins w m }
             outs := p.outs.set k { p.outs[k] with retq := insertMark (ownEntry 0 (winMark m)) p.outs[k].retq } }

/-- A return queue's next entry and the rest: a WIN mark waits for the last element of a block that has begun to leave, and what
follows it goes first (R49). -/
def nextEntry (blk : Nat) : List RetEntry → Option (RetEntry × List RetEntry)
  | [] => none
  | e :: q => if e.op = 0 ∧ (e.tok.map isWin) = some true ∧ 0 < blk then (nextEntry blk q).map fun x => (x.1, e :: x.2) else some (e, q)

/-- An earlier load of the node has still to write back: results are delivered in the order of issue (R207). -/
def loadBefore (s : State) (n : NodeId) (op : Nat) : Bool :=
  let older (o : Op) : Bool := o.load && decide (o.id < op)
  (s.plane n .a).ops.any older || (s.plane n .b).ops.any older

/-- A return queue places its next result in the free out-port slot, not in the cycle in which a token has left it (R190, R207,
R212, R257); a port that holds at a WIN mark places nothing. -/
def queueSend (s : State) (n : NodeId) (l : Letter) (k : Fin 4) : State :=
  let p := s.plane n l
  if p.stop == .winHold || p.outs[k].res.isSome || p.outs[k].left == some s.cycle then s
  else match nextEntry p.outs[k].blk p.outs[k].retq with
    | none => s
    | some (e, q) =>
      match e.tok with
      | none => s
      | some t =>
        if s.cycle < e.due || (e.op != 0 && loadBefore s n e.op) then s
        else
          let s := s.updOut n l k fun o => { o with slot := some t, retq := q }
          let s := match e.win with
            | some w => s.updPlane n l (countWin w (winOf s p.inst w).cwn k)
            | none => s
          if e.op = 0 ∧ isWin t ∧ (s.inst p.inst).region.contains (n, l) then winArrive s n l else s

/-- The far unit of a network seam whose credit is spent has taken tokens of it, and their credit comes back: how many is a free value
(R409; log 125). -/
def netReturn (s : State) (m : NodeId) : State :=
  match m with
  | .pc q u =>
    if netUsed s m < netCap then s
    else
      let k : Fin 4 := Fin.ofNat 4 u
      { s with free := s.free + 1,
               ports := mupd s.ports q fun p => { p with net := p.net.set k (p.net[k] - Config.freeNat s.free % (p.net[k] + 1)) } }
  | _ => s

/-- OUT_PORT_SEND (R25 to R27, R63, R172, R207, R409); a network seam without a link to its peer stalls its unit (R413). -/
def execOutPortSend (n : NodeId) (l : Letter) (out : Nat) (s : State) : Res :=
  let k : Fin 4 := Fin.ofNat 4 out
  let o := s.outp n l k
  .next (if 4 ≤ out then s
    else match o.slot with
      | none => queueSend s n l k
      | some t =>
        let ts := targets s n l k
        let net := ts.any fun x => x == .net n
        let s := if net then netReturn s n else s
        if net && !netLinked s n then (if (s.plane n l).stop == .run then headFault s n l .linkDown else s)
        else if decide (s.cycle < o.since) || ts.isEmpty || ts.any isSpill || !(ts.zipIdx.all fun x => canTake s n o t x.2 x.1) then s
        else sendSlot s n l k t ts)

/-! ### Write-back (R17, R18, R60, R195, R206, R207) -/

/-- A fence's scope is met (R213, R292): scope 1 needs nothing, a larger one every earlier access, copy and buffered store of
the node. -/
def fenceDone (s : State) (n : NodeId) (o : Op) : Bool :=
  match o.kind with
  | .fence sc => decide (sc ≤ 1)
      || ((s.accs.all fun e => !(e.2.node == n && decide (e.2.op < o.id)))
        && ((nodeCopies s n).all fun j => decide (o.id ≤ j.op)) && (nodeBuf s n).all fun b => decide (o.id ≤ b.op))
  | _ => true

/-- Whether an operation is a store whose completion token waits for its commit (R207, R212). -/
def commitToken (s : State) (n : NodeId) (l : Letter) (o : Op) : Bool :=
  o.queued && (winOf s (instOf s n l) o.win).cwe && (match decodeA .mp 0 o.aw with
    | .ok i => !isLoad i
    | .error _ => false)

/-- The last token of a result, if it has one. -/
def lastTok (o : Op) : Option Token := o.toks.getLast?

/-- Writes the destination of an operation (R17, R25). A predicate that a slot off the stitches names as its destination, which
R106 allows, is not written: those predicates change only through `PE` (R260; log 27). -/
def writeDst (s : State) (n : NodeId) (l : Letter) (o : Op) : State :=
  match o.dst, lastTok o with
  | .out k, t =>
    if o.queued then
      match t with
      | some t => if commitToken s n l o then s.updOut n l k fun q => { q with retq := q.retq ++ [{ op := o.id, tok := some t }] } else s
      | none => s
    else s.updOut n l k fun q => { q with slot := t.or q.slot, res := if q.res = some o.id then none else q.res }
  | .g k, some t => s.updPlane n l fun p => { p with g := p.g.set k t }
  | .t k, some t => s.updPlane n l fun p => { p with h := p.h.set k t }
  | .p k, some t => if kindOf n = .stitch then s.updPlane n l fun p => { p with p := p.p.set k (truth t) } else s
  | _, _ => s

/-- The registers and predicates that a bespoke sequence has written, and the sequencer free (R192, R194). -/
def writeSeq (s : State) (n : NodeId) (l : Letter) (o : Op) : State :=
  match (s.node n).seqr with
  | none => s
  | some q =>
    if q.op ≠ o.id ∨ q.letter ≠ l then s
    else
      let s := s.updPlane n l fun p =>
        { p with g := Vector.ofFn fun k => if q.gw.contains k.val then q.g[k] else p.g[k]
                 p := Vector.ofFn fun k => if q.pw.contains k.val then q.p[k] else p.p[k]
                 h := q.h }
      s.setNode n { s.node n with seqr := none }

/-- What else a kind of operation does at write-back (R186, R187, R191, R194). -/
def writeKind (s : State) (n : NodeId) (l : Letter) (o : Op) : State :=
  let i := instOf s n l
  let c := (s.inst i).ctx
  match o.kind with
  | .wrsr => s.updCtx c (sregSet o.arg o.fold.toNat)
  | .bsld => writeMicroWord s (panelOf s n l) l c o.arg o.fold
  | .bsbd => writeBinding s (panelOf s n l) l c o.arg o.fold
  | .prio => s.updInst i fun v => { v with setCls := o.arg }
  | .bsp => writeSeq s n l o
  | _ => s

/-- CALL and CALLB, whose `PE` update an operation of its own has written (R358); an operation off the stitches marks
no predicate, for the same reason (R260). -/
def isCall : OpKind → Bool
  | .call _ => true
  | _ => false

/-- Whether an operation's write-back makes its `PE` update: on a stitch its own, elsewhere and for CALL that of the operation that
goes ahead (R17, R260, R358). -/
def makesPe (n : NodeId) (o : Op) : Bool := tPE o.tw && (o.kind == .pe || (kindOf n == .stitch && !isCall o.kind))

/-- The predicates of an operation: those it writes directly, then the `PE` update (R17). -/
def writePreds (s : State) (n : NodeId) (l : Letter) (o : Op) : State :=
  let s := s.updPlane n l fun p =>
    { p with p := o.preds.foldl (fun v e => v.set (Fin.ofNat 8 e.1) e.2) p.p }
  if makesPe n o then s.updPlane n l fun p => { p with p := p.p.set (tPX o.tw) (tPVAL o.tw) } else s

/-- The kinds of operations whose report waits for write-back: lane and seam instructions, and BSP (R380). -/
def reportWaits (k : OpKind) : Bool := match k with
  | .lane => true
  | .pe => true
  | .bsp => true
  | .wrsr => true
  | .prio => true
  | .bsld => true
  | .bsbd => true
  | _ => false

/-- An operation that a debugger's step launched completes: the promise record takes its result, and an engine operation is noted
as complete (R380). -/
def debugResult (s : State) (n : NodeId) (l : Letter) (o : Op) : State :=
  let c := ctxOf s n l
  if (s.ctx c).dbgop.any (fun k => decide (k ≤ o.id)) && dbgCode n l == (s.ctx c).dbgsel then
    s.updCtx c fun x => { x with
      dbgpr := match lastTok o with
        | some t => t.payload.toNat
        | none => x.dbgpr
      dbgdone := x.dbgdone || !reportWaits o.kind }
  else s

/-- A bespoke operation's value faults have still to come (R133, R195). DESIGN CHOICE (log 121): a value condition whose write-back
falls after MEND's holds MEND's write-back and faults the invocation; R194 and R195 do not order the two. -/
def lateLeft (s : State) (n : NodeId) (l : Letter) (o : Op) : Bool :=
  (s.node n).seqr.any fun q => decide (q.op = o.id) && decide (q.letter = l) && !q.late.isEmpty

/-- An earlier BSLD or BSBD of a panel's plane letter has still to write its store (R191). -/
def storeBefore (s : State) (n : NodeId) (l : Letter) (o : Op) : Bool :=
  (o.kind == .bsld || o.kind == .bsbd) && s.nodes.any fun e =>
    decide (panelOf s e.1 l = panelOf s n l) && (kindOf e.1 == kindOf n) &&
      (e.2.plane l).ops.any fun x => (x.kind == .bsld || x.kind == .bsbd) && decide (x.id < o.id)

/-- Whether an operation may write back. -/
def canWrite (s : State) (n : NodeId) (l : Letter) (o : Op) : Bool :=
  o.ready && decide (o.due ≤ s.cycle) && fenceDone s n o && !regBefore o (s.plane n l).ops
    && !(o.load && loadBefore s n o.id) && !lateLeft s n l o && !storeBefore s n l o

/-- WRITE_BACK (R17, R18): the result, then `PE`; an enabled value condition faults in place of both (R60). -/
def execWriteBack (n : NodeId) (l : Letter) (op : Nat) (s : State) : Res :=
  .next (match s.op? n l op with
    | none => s
    | some o =>
      if !canWrite s n l o then s
      else match o.fault with
        | some c => takeTrap (abandonOp s n l op 0) (opTrap s n l o c)
        | none =>
          let s := debugResult (writePreds (writeDst (writeKind s n l o) n l o) n l o) n l o
          (s.delOp n l op).updInst (instOf s n l) fun v => { v with progress := s.cycle, idle := 0 })

/-! ### The EOS and mark actions (R167 to R172, R212, R234, R244, R255 to R257, R294, R368, R376) -/

/-- Places a token in every wired out-port, to depart from the next cycle, and at every drain consumer (R168, R169, R234, R257). -/
def placeAll (s : State) (n : NodeId) (l : Letter) (t : Token) : State :=
  let ts := drainTargets s n l
  let s := s.updPlane n l fun p =>
    { p with outs := Vector.ofFn fun k => if outWired s n l k then { p.outs[k] with slot := some t, since := s.cycle + 1 } else p.outs[k] }
  ts.foldl (fun s tg => deliver s n l t tg) s

/-- The commit windows of an out-port that have placed tokens since their last mark (R212). -/
def openWins (p : Plane) (k : Fin 4) : List Nat :=
  (List.range 16).filter fun w => decide (0 < mget p.mp.since (w * 4 + k.val))

/-- CLOSING_WIN_MARK (R212): the closing marks of an out-port. -/
def closeWins (due : Nat) (k : Fin 4) (p : Plane) : List Nat → Plane
  | [] => p
  | w :: ws =>
    let m := mget p.mp.wins w + 1
    closeWins due k { p with mp := { p.mp with since := mset p.mp.since (w * 4 + k.val) 0, wins := mset p.mp.wins w m }
                             outs := p.outs.set k { p.outs[k] with retq := p.outs[k].retq ++ [ownEntry due (winMark m)] } } ws

/-- A memory port's EOS for one wired out-port, behind its closing marks (R212). -/
def portEos (s : State) (n : NodeId) (l : Letter) (t : Token) (p : Plane) (k : Fin 4) : Plane :=
  if !outWired s n l k then p
  else
    let q := closeWins (s.cycle + 1) k p (openWins p k)
    { q with outs := q.outs.set k { q.outs[k] with retq := q.outs[k].retq ++ [ownEntry (s.cycle + 1) t] } }

/-- The first token that an action gives an out-port fills its slot, from which it departs in the next cycle (R257). -/
def fillOut (c : Nat) (o : OutPort) : OutPort :=
  match o.slot, o.retq with
  | none, e :: q => if e.op = 0 then { o with slot := e.tok, since := c + 1, retq := q } else o
  | _, _ => o

/-- A memory port's EOS action on its out-ports; in a window region a closing WIN mark that it places makes it hold (R212, R257,
R368). -/
def portEnd (s : State) (n : NodeId) (l : Letter) (t : Token) : State :=
  let s := s.updPlane n l fun p =>
    let q := (List.finRange 4).foldl (portEos s n l t) p
    { q with outs := q.outs.map (fillOut s.cycle) }
  if (s.inst (instOf s n l)).region.contains (n, l) && ((s.plane n l).outs.toList.any fun o => o.slot.any isWin) then winArrive s n l else s

/-- Dequeues the heads of a list of ports. -/
def dequeueAll (s : State) (n : NodeId) (l : Letter) : List (Fin 4) → State
  | [] => s
  | k :: t => dequeueAll (dequeue s n l k) n l t

/-- AUTO_EOS_FORWARD (R12, R168, R212, R234, R246, R368). -/
def execAutoEosForward (n : NodeId) (l : Letter) (s : State) : Res :=
  .next (
    if !eosReady s n l then s
    else
      let p := s.plane n l
      let ks := (List.finRange 4).filter fun k => eosCarrying p k
      let t : Token := { kind := .eos, payload := ((ks.head?.bind fun k => rawHead p k).getD {}).payload }
      let s := consumeAll s n l ks
      match kindOf n with
      | .mp => portEnd s n l t
      | .mg => updSout (placeAll s n l t) n l eosOut
      | .pc => updSout (placeAll s n l t) n l eosOut
      | _ => placeAll s n l t)

/-- The checkpoint shadow of a plane takes what the node holds (R170, R234, R245). -/
def shadowNow (n : NodeId) (p : Plane) : Plane :=
  let p := { p with shadow := { g := p.g, p := p.p, residue := Vector.ofFn fun k => p.ins[k].residue } }
  match kindOf n with
  | .mxa => { p with mxa := { p.mxa with sbank0 := p.mxa.bank0, sbank1 := p.mxa.bank1, sm := p.mxa.m } }
  | .mg => { p with ssout := p.sout }
  | .pc => { p with ssout := p.sout }
  | _ => p

/-- A plane's checkpoint shadow is written, every word of it whole (R170, R266, R381). -/
def takeShadow (s : State) (n : NodeId) (l : Letter) : State := cleanWords (s.updPlane n l (shadowNow n)) (homeShadow n l) 512

/-- A memory port commits its buffered stores at a WIN, SWP or ESL mark (R212, R294). -/
def markCommit (s : State) (n : NodeId) (l : Letter) : State := if kindOf n == .mp then commitPort s n l else s

/-- A commit window that begins: the checkpoint shadow as a WIN action leaves it, and no token counted (R170, R212, R294). -/
def beginWindow (n : NodeId) (p : Plane) : Plane := { shadowNow n p with mp := { p.mp with since := [] } }

/-- A SWP or ESL mark's action before its swap: a memory port commits, which leaves a trap imprecise, and the window that was open
begins anew in both planes (R294, R369). -/
def phaseCommit (s : State) (n : NodeId) (l : Letter) : State :=
  if kindOf n != .mp then s
  else
    let s' := if (s.plane n l).mp.buf.isEmpty then s else imprecise s (instOf s n l)
    ((commitPort s' n l).updPlane n l (beginWindow n)).updPlane n l.other (beginWindow n)

/-- The copies of an aligned mark are placed and its heads leave (R169, steps 2 and 3; R368). -/
def passMark (s : State) (n : NodeId) (l : Letter) (t : Token) : State :=
  let p := s.plane n l
  let ks := if p.inject.isSome then [] else (List.finRange 4).filter fun k => markCarrying n p k
  let s := (consumeAll s n l ks).updPlane n l fun q => { q with inject := none }
  let s := placeAll s n l { kind := .mark, payload := t.payload }
  updEngine s n fun e => if e.letter = l then engineSegment e else e

/-- The swap that an ESL mark brings, the mark placed under the old letter (R170, R177, R393, R395): the outgoing plane
becomes the basted one, and the running VF's plane active where it has one here. -/
def eslSwap (s : State) (n : NodeId) (l : Letter) : State :=
  let s := if otherBasted s n l && !descheduled s (ctxOf s n l.other) then swapPlanes s n l else s
  s.updPlane n l fun p => { p with active := false, out := false, basted := true, pcw := pcwAct p.pcw false }

/-- MARK_ACTION (R169, R170, R223, R234, R245, R255, R294, R368, R376). In a window region a WIN or PMK mark arrives:
its copies are placed and the node holds with the mark at its heads. -/
def execMarkAction (n : NodeId) (l : Letter) (s : State) : Res :=
  .next (match markReady s n l with
    | none => s
    | some t =>
      let i := instOf s n l
      let inR := (s.inst i).region.contains (n, l)
      let c : Token := { kind := .mark, payload := t.payload }
      match markSub t.payload with
      | 0 =>
        let s := s.updInst i fun v => { v with pmkArr := v.pmkArr ++ [(n, l)] }
        let s := if inR then (placeAll s n l c).updPlane n l fun p => { p with inject := none }
          else cleanWords (passMark s n l t) (homeSave n l) 512
        s.updPlane n l fun p => { p with stop := .pmkHold }
      | 1 => eslSwap (passMark (phaseCommit s n l) n l t) n l
      | 2 => passMark (if kindOf n == .mp || kindOf n == .cp then latchWindow s n l (field t.payload.toNat 7 4) else s) n l t
      | 3 =>
        if inR then winArrive (placeAll s n l c) n l
        else passMark (takeShadow (markCommit s n l) n l) n l t
      | _ =>
        if bitOf t.payload.toNat 31 && otherBasted s n l then swapPlanes (passMark (phaseCommit s n l) n l t) n l
        else passMark s n l t)

/-- `MARKTO` in cycles (R171, R187); 0 acts as 1. -/
def markTime (s : State) (n : NodeId) (l : Letter) : Nat := max (s.ctx (ctxOf s n l)).markto 1 * 1024

/-- MARK_TIMEOUT (R171): a mark has stood unaligned for the context's time. DESIGN CHOICE (log 124): at a halted plane too, of which
R165 and R171 say nothing. -/
def execMarkTimeout (n : NodeId) (l : Letter) (port : Fin 4) (s : State) : Res :=
  let p := s.plane n l
  .next (match p.ins[port].markSince, rawHead p port with
    | some c, some t =>
      if p.active && p.stop == .run && markCarrying n p port && !((kindOf n == .mg || kindOf n == .pc) && isFormMark t)
          && (alignedMark n p).isNone && decide (c + markTime s n l ≤ s.cycle) then headFault s n l .markTimeout else s
    | _, _ => s)

/-! ### Poison (R234, R365) -/

/-- Places a PSN in one wired out-port, once its slot is empty. -/
def poisonOut (w : Word) (s : State) (n : NodeId) (l : Letter) (k : Fin 4) : State :=
  let p := s.plane n l
  if outWired s n l k && !p.psnDone.contains k.val && outClear s n l k then
    (s.updOut n l k fun o => { o with slot := some { kind := .psn, payload := w }, since := s.cycle + 1 }).updPlane n l fun p =>
      { p with psnDone := p.psnDone ++ [k.val] }
  else s

/-- Sends a PSN to the drain consumers of a matrix array that have room. -/
def poisonDrains (w : Word) (s : State) (n : NodeId) (l : Letter) : List (Target × Nat) → State
  | [] => s
  | (tg, j) :: t =>
    if !(s.plane n l).psnDone.contains (4 + j) && roomAt s n tg then
      poisonDrains w ((deliver s n l { kind := .psn, payload := w } tg).updPlane n l fun p => { p with psnDone := p.psnDone ++ [4 + j] }) n l t
    else poisonDrains w s n l t

/-- POISON_FORWARD (R234, R365): a stopped plane places its PSN in each wired out-port once that is empty. -/
def execPoisonForward (n : NodeId) (l : Letter) (s : State) : Res :=
  .next (match (s.plane n l).psn with
    | none => s
    | some w =>
      let s := poisonOut w (poisonOut w (poisonOut w (poisonOut w s n l 0) n l 1) n l 2) n l 3
      poisonDrains w s n l (drainTargets s n l).zipIdx)

/-! ### Plane loads (R174, R175, R180) -/

/-- A PLOAD's load is complete: its d receives the pattern id (R174); that of a handler is noted at its core. -/
def endPload (s : State) (n : NodeId) (l : Letter) (op pat : Nat) : State :=
  if op = 0 then s.updCore (coreOf (panelOf s n l)) fun q => { q with pload := q.pload.map fun e => (e.1, e.2 || e.1 == pat) }
  else s.updOp n l op (readyOp { payload := BitVec.ofNat 32 pat } s.cycle)

/-- The PLOADs that wait for a pattern complete (R174). -/
def endPloads (s : State) (pat : Nat) : List (NodeId × Letter × Nat × Nat) → State
  | [] => s
  | (n, l, op, k) :: t => endPloads (if k = pat then endPload s n l op pat else s) pat t

/-- PLANE_LOAD_COMPLETE (R174, R175): the planes are basted; a PLOAD that waits for another pattern starts its load. -/
def execPlaneLoadComplete (p : Nat) (l : Letter) (s : State) : Res :=
  let v := s.side p l
  .next (match v.hold, v.ldrec with
    | .loading i _ due, some pat =>
      if s.cycle < due then s
      else
        let x := s.inst i
        let s := loadPanel s p l pat v.ldnpl (colOf p - colOf x.origin) (rowOf p - rowOf x.origin) i false true
        let s := endPloads s pat.pid v.ploads
        let left := v.ploads.filter fun e => e.2.2.2 != pat.pid
        let s := s.updSide p l fun q => { q with hold := .basted i pat.pid, ploads := left, ldrec := none }
        match left with
        | [] => s
        | e :: _ => startLoad s p l i ((mget? (s.ctx x.ctx).pats e.2.2.2).getD {})
    | _, _ => s)

/-! ### Window release (R366 to R369) -/

/-- A memory port's log and counts begin anew at a release (R368, R370, R376). -/
def newWindow (p : Plane) : Plane :=
  { p with mp := { p.mp with log := [], logOver := false, discarded := 0, sinceRel := p.mp.since, winsRel := p.mp.wins } }

/-- One node of a region at its release: the WIN effect, the commit, its marks dequeued, issue resumed (R368). -/
def releaseNode (s : State) (e : NodeId × Letter) : State :=
  let n := e.1
  let l := e.2
  let s := markCommit (takeShadow s n l) n l
  let p := s.plane n l
  let s := match alignedMark n p with
    | some t => if isWin t then
        updEngine (dequeueAll s n l ((List.finRange 4).filter fun k => markCarrying n p k)) n fun g => if g.letter = l then engineSegment g else g
      else s
    | none => s
  s.updPlane n l fun p => newWindow (if p.stop = .winHold then lift n p else p)

/-- The firing counts of an instance's planes restart (R370). -/
def restartCounts (i : Nat) (s : State) : State :=
  let z (p : Plane) : Plane := if p.inst = i then { p with fires := 0 } else p
  { s with nodes := mmap s.nodes fun _ d => { d with pa := z d.pa, pb := z d.pb } }

/-- Whether every node of an instance's window region has arrived at its WIN mark (R368). -/
def allArrived (v : Inst) : Bool := !v.region.isEmpty && v.region.all fun e => v.winArr.contains e

/-- WINDOW_RELEASE (R366, R368): with the last arrival the release is fixed 8 + 4·L cycles on; in its cycle every node of
the region is released, unless the instance's fault flag is set. -/
def execWindowRelease (i : Nat) (s : State) : Res :=
  let v := s.inst i
  .next (if !allArrived v || v.fault then s
    else match v.winAt with
      | none => s.updInst i fun v => { v with winAt := some (s.cycle + barrierDelay s v 0) }
      | some c =>
        if s.cycle < c then s
        else (restartCounts i (v.region.foldl releaseNode s)).updInst i fun v => { v with twin := v.twin + 1, winArr := [], winAt := none, impr := false })

end Sys2Proof.Machine
end

