-- ==== Sys2Proof/Machine/Save.lean ====
section
/-! DEFINITION. Cutting an instance with PMK, saving it into its 192 KiB units, and restoring it (R43, R282, R349, R351,
R376 to R379). What a unit's layout holds is read back from memory at a restore; what it has no place for is kept as data. -/

namespace Sys2Proof.Machine
open Sys2Proof

/-! ### Marks of a cut (R376) -/

/-- A PMK mark (R11). -/
def pmkMark (k : Nat) : Token := { kind := .mark, payload := BitVec.ofNat 32 (k % 2 ^ 28 * 16) }

/-- An ESL mark (R11). -/
def eslMark (k : Nat) : Token := { kind := .mark, payload := BitVec.ofNat 32 (1 + k % 2 ^ 28 * 16) }

/-- A port without the marks of a subtype; a head that changed has still to be settled. -/
def portNoMark (sub : Nat) (q : InPort) : InPort :=
  let keep (t : Token) : Bool := !(t.kind == .mark && markSub t.payload == sub)
  let fs := q.fifo.filter fun f => keep f.tok
  { q with fifo := fs, settled := q.settled && decide (fs.head? = q.fifo.head?) && !fs.isEmpty
           lane := q.lane.filter fun f => keep f.tok, buf := q.buf.filter fun f => keep f.tok, pend := q.pend.filter keep
           markSince := if fs.head? = q.fifo.head? then q.markSince else none }

/-- A plane without the marks of a subtype. -/
def planeNoMark (sub : Nat) (p : Plane) : Plane := { p with ins := Vector.ofFn fun k => portNoMark sub p.ins[k], inject := none }

/-- Whether a plane takes an injected mark: it runs, and it is a memory port that loads or has no mark-carrying in-port (R376,
R394; log 21). -/
def injects (n : NodeId) (p : Plane) : Bool :=
  p.active && !p.halted && ((kindOf n == .mp && hasSlot n p fun i => (loadWin i).isSome)
    || (List.finRange 4).all fun k => !markCarrying n p k)

/-- Injects a mark at an instance's sources (R376, R394). -/
def injectInst (s : State) (i : Nat) (t : Token) : State :=
  let f (n : NodeId) (p : Plane) : Plane := if p.inst = i ∧ injects n p then { p with inject := some t } else p
  { s with nodes := mmap s.nodes fun n d => { d with pa := f n d.pa, pb := f n d.pb } }

/-- Whether a wire of an instance in a set feeds an in-port (R340). -/
def wiredFrom (s : State) (from_ : Nat → Bool) (n : NodeId) (l : Letter) (k : Nat) : Bool :=
  s.insts.any fun e => e.2.wires.any fun w =>
    from_ (if w.result then w.callee else w.caller) && w.entries.any fun j =>
      match entryTarget s (.panel w.panel w.node) w.letter j with
      | .port m ml q _ => m == n && ml == l && q.val == k
      | _ => false

/-- Appends a mark to the lanes of an instance's mark-carrying in-ports that calls feed from instances outside the cut,
which send none (log 21); where a block is open it waits for the last of its elements (R49). -/
def markSeams (s : State) (i : Nat) (outside : Nat → Bool) (t : Token) : State :=
  let g (n : NodeId) (l : Letter) (p : Plane) : Plane :=
    if p.inst = i ∧ p.active = true then
      { p with ins := Vector.ofFn fun k =>
          if markCarrying n p k && !p.ins[k].fed && wiredFrom s outside n l k.val then
            pendMark s.cycle { p.ins[k] with pend := some t }
          else p.ins[k] }
    else p
  { s with nodes := mmap s.nodes fun n d => { d with pa := g n .a d.pa, pb := g n .b d.pb } }

/-- The units of the switch area that an instance takes: a trailer and one for each panel (R377). -/
def cswNeed (v : Inst) : Nat := 1 + v.pat.fw * v.pat.fh

/-- The first unit behind those given to a context's instances. -/
def cswNext (s : State) (c : Nat) : Nat :=
  (s.insts.map fun e => match e.2.cswUnit with
    | some u => if e.2.ctx = c then u + cswNeed e.2 else 0
    | none => 0).foldl max 0

/-- A placement during a cut has room in the switch area (R382). -/
def cutRoom (s : State) (r : Req) : Bool :=
  !(s.ctx r.ctx).preempt || decide (cswNext s r.ctx + 1 + r.pat.fw * r.pat.fh ≤ (s.ctx r.ctx).cswunits)

/-- An instance placed while its context is being cut joins the cut (R376). -/
def joinCut (s : State) (i : Nat) : State :=
  let v := s.inst i
  if !(s.ctx v.ctx).preempt then s
  else
    let u := cswNext s v.ctx
    injectInst (s.updInst i fun v => { v with st := .cutting, cut := .preempt, cswUnit := some u }) i (pmkMark (s.ctx v.ctx).pmk)

/-! ### When a cut is complete (R282, R376) -/

/-- Whether an instance has a node stalled by a fault (R282). -/
def hasStall (s : State) (i : Nat) : Bool :=
  let f (p : Plane) : Bool := p.inst == i && (match p.stop with
    | .stall _ => true
    | _ => false)
  s.nodes.any fun e => f e.2.pa || f e.2.pb

/-- An instance has been found quiescent, and nothing of it has moved since (R282). -/
def quiescent (v : Inst) : Bool := decide (v.idle = 1) && decide (256 ≤ v.quiet)

/-- Whether an instance is saved as it stands: flagged, or quiescent (R282, R376). -/
def savedDirect (v : Inst) : Bool := v.fault || quiescent v

/-- A plane that has ended its stream: EOS at every EOS-carrying in-port and no out-port (R168). -/
def endedSink (s : State) (n : NodeId) (l : Letter) (p : Plane) : Bool :=
  !hasOut s n l && ((List.finRange 4).any fun k => eosCarrying p k)
    && (List.finRange 4).all fun k => !eosCarrying p k || (rawHead p k).map (·.kind) == some .eos

/-- A plane that a cut waits for no longer. -/
def cutPlane (s : State) (i : Nat) (n : NodeId) (l : Letter) (p : Plane) : Bool :=
  p.inst != i || !p.active || (p.halted && p.ops.isEmpty)
    || (p.stop == .pmkHold && p.ops.all fun o => p.mp.buf.any fun b => b.op == o.id)
    || (endedSink s n l p && p.ops.isEmpty)

/-- A plane of an instance saved as it stands has made the write-backs that need nothing but their time, so that none of
them is pending at the resumption (R43, R260). -/
def settledPlane (s : State) (i : Nat) (n : NodeId) (l : Letter) (p : Plane) : Bool :=
  p.inst != i || p.ops.all fun o => !(o.ready && canWrite { s with cycle := max s.cycle o.due } n l o)

/-- Whether every plane of an instance has come to the cut. -/
def cutDone (s : State) (i : Nat) : Bool :=
  if savedDirect (s.inst i) then s.nodes.all fun e => settledPlane s i e.1 .a e.2.pa && settledPlane s i e.1 .b e.2.pb
  else s.nodes.all fun e => cutPlane s i e.1 .a e.2.pa && cutPlane s i e.1 .b e.2.pb

/-- A plane that a cut held goes on. -/
def unhold (n : NodeId) (p : Plane) : Plane := if p.stop = .pmkHold then lift n p else p

/-- THE RELEASE OF A CUT (R368, R376): the region's nodes take their shadows, every port commits, logs and counts begin anew as at
any release, and the marks are gone; a flagged or quiescent instance stays as it is. Every plane holds until its state has moved. -/
def cutRelease (s : State) (i : Nat) : State :=
  let v := s.inst i
  let s := if savedDirect v then s
    else (restartCounts i ((activePlanes s i).foldl (fun s e =>
      let s := if v.region.contains e then cleanWords (takeShadow s e.1 e.2) (homeSave e.1 e.2) 512 else s
      (markCommit s e.1 e.2).updPlane e.1 e.2 newWindow) s)).updInst i fun v => { v with impr := false }
  let f (p : Plane) : Plane := if p.inst = i then planeNoMark 0 { p with stop := if p.stop = .run then .pmkHold else p.stop } else p
  settleAll { s with nodes := mmap s.nodes fun _ d => { d with pa := f d.pa, pb := f d.pb }
                     insts := mupd s.insts i fun v => { v with pmkArr := [] } }

/-- Whether stores that a cut's release has committed have still to perform, before the instance's state moves (R212, R376). One saved
as it stands takes them along. -/
def releaseWaits (s : State) (i : Nat) : Bool := !savedDirect (s.inst i) && s.accs.any fun e => decide (e.2.inst = i) && e.2.commit

/-- An instance goes on after a cut that did not move it. -/
def cutCancel (s : State) (i : Nat) : State :=
  let s := (cutRelease s i).updInst i fun v => { v with cut := .none, st := .live }
  let f (n : NodeId) (p : Plane) : Plane := if p.inst = i then unhold n p else p
  { s with nodes := mmap s.nodes fun n d => { d with pa := f n d.pa, pb := f n d.pb } }

/-! ### Tokens and planes in units (R377, R378) -/

/-- A token in 8 bytes (R377). -/
def tokBytes (e : Entry) : List Byte :=
  leBytes (if e.present then e.tok.payload.toNat + hdrOf e.tok * 2 ^ 32 + 2 ^ 40 else 0) 8

/-- The entry of 8 bytes. -/
def tokEntry (v : Nat) : Entry :=
  if bitOf v 40 then { tok := tokOfHdr (field v 39 32) (BitVec.ofNat 32 (v % 2 ^ 32)), present := true } else {}

/-- A list of tokens, each present. -/
def toksBytes (ts : List Token) : List Byte := ts.flatMap fun t => tokBytes (entryOf (some t))

/-- Words in little-endian bytes. -/
def wordsBytes (ws : List Word) : List Byte := ws.flatMap bytesOfWord

/-- Bytes padded with zeros to a length. -/
def padTo (n : Nat) (bs : List Byte) : List Byte := bs ++ List.replicate (n - bs.length) 0

/-- The image words 0 to 44 of a plane (R124, R378). -/
def planeWords (p : Plane) : List Word :=
  (p.slots.toList.flatMap fun w => [w.1, w.2]) ++ p.inw.toList ++ p.rw.toList ++ p.sw.toList ++ [p.pcw]

/-- Whether a plane holds (R378): at a mark, or at the end of a replay. -/
def holds (p : Plane) : Bool := p.stop == .held || p.stop == .winHold || p.stop == .pmkHold

/-- Offsets 0x0C0 to 0x1FF of a node record (R378). -/
def planeState (d : Node) (p : Plane) : List Byte :=
  let fl := (predBits p.p) + (predBits p.shadow.p) * 2 ^ 8 + p.active.toNat * 2 ^ 16 + p.halted.toNat * 2 ^ 17
    + (p.stop == .poison).toNat * 2 ^ 18 + (holds p).toNat * 2 ^ 19
  let rq := (List.finRange 4).map fun k => if p.outs[k].reqs.isEmpty then 0 else 2 ^ k.val
  let cr := (List.finRange 4).map fun k => min p.ins[k].credit 3 * 4 ^ k.val
  toksBytes p.g.toList ++ toksBytes p.h.toList ++ toksBytes p.shadow.g.toList
    ++ ((List.finRange 4).flatMap fun k => (List.range 2).flatMap fun j => tokBytes (entryOf ((p.ins[k].fifo[j]?).map (·.tok))))
    ++ (p.outs.toList.flatMap fun o => tokBytes (entryOf o.slot))
    ++ leBytes fl 4 ++ leBytes (packNat 8 ((List.finRange 4).map fun k => p.ins[k].residue)) 4 ++ leBytes (bytesNat p.shadow.residue) 4
    ++ leBytes (rq.sum + cr.sum * 16) 4 ++ leBytes (codeOf 16 d.ca + codeOf 16 d.cb * 2 ^ 16) 4
    ++ leBytes (d.last.bit.toNat + p.fires % 2 ^ 24 * 2 ^ 8) 4 ++ leBytes p.pid 4 ++ leBytes 0 4

/-- A panel node's record of 512 bytes (R378). -/
def nodeRecord (v : PanelSide) (a : Nat) (d : Node) (p : Plane) : List Byte :=
  if a = 69 then padTo 512 (wordsBytes v.cvt.toList)
  else padTo 192 (wordsBytes (planeWords p ++ if a = 71 then p.ext.take 1 else [])) ++ planeState d p

/-- The state of a stream engine's output, in 64 bytes (R378; log 22). -/
def soutBytes (o : StreamOut) : List Byte :=
  let open_ := match o.open_ with
    | some (i, ws) => leBytes (i % 2 ^ 32) 4 ++ [1, 0, 0, 0] ++ padTo 16 (wordsBytes (ws.take 4))
    | none => List.replicate 24 0
  padTo 64 (leBytes (o.dense.toNat + o.ovf % 2 ^ 24 * 256) 4 ++ leBytes (o.emitted % 2 ^ 32) 4 ++ leBytes (o.hist.length % 2 ^ 32) 4
    ++ leBytes ((o.base.map (· + 1)).getD 0 % 2 ^ 32) 4 ++ leBytes (o.next % 2 ^ 32) 4 ++ open_)

/-- A merge or port unit's record of 1 KiB (R378). -/
def treeRecord (d : Node) (p : Plane) : List Byte :=
  padTo 1024 (padTo 0x140 (wordsBytes (planeWords p ++ p.ext.take 20)) ++ planeState d p ++ soutBytes p.sout ++ soutBytes p.ssout)

/-- The kind and scale state of an accumulator bank in one byte (R377; log 22). -/
def bankByte (b : Bank) : Byte :=
  BitVec.ofNat 8 (b.int.toNat + (match b.s with
    | none => 0
    | some false => 2
    | some true => 4))

/-- The lanes of a matrix array, four entries each (R377). -/
def laneBytes (m : Mxa) : List Byte :=
  m.lanes.toList.flatMap fun ts => (List.range 4).flatMap fun j => tokBytes (entryOf ts[j]?)

/-- The bytes of a map of words from 0 up. -/
def mapBytes (m : Map Nat Word) (n : Nat) : List Byte := (List.range n).flatMap fun k => bytesOfWord (mget m k)

/-- Whether a letter is an instance's. -/
def holdOf (h : Hold) : Option Nat :=
  match h with
  | .inst i => some i
  | .basted i _ => some i
  | .loading i _ _ => some i
  | _ => none

/-- The XBARs and swaps that the holder of a letter counts for a panel, as the unit has them (R210, R377). -/
def countBytes (s : State) (p : Nat) (l : Letter) : List Byte :=
  let v := s.inst ((holdOf (s.side p l).hold).getD 0)
  leBytes (mget v.xn (panelKey v p) % 2 ^ 16 + mget v.xs (panelKey v p) % 2 ^ 16 * 2 ^ 16) 4

/-- The pieces of a panel's unit beside its memories, by offset (R377). -/
def unitPieces (s : State) (p : Nat) (l : Letter) : List (Nat × List Byte) :=
  let v := s.side p l
  let m := (s.plane (.panel p 70) l).mxa
  [(0x24000, mapBytes v.routes 1024),
   (0x25000, (List.range 72).flatMap fun a => nodeRecord v a (s.node (.panel p a)) (s.plane (.panel p a) l)),
   (0x2E000, wordsBytes (m.bank0.acc.toList ++ m.bank1.acc.toList ++ m.sbank0.acc.toList ++ m.sbank1.acc.toList)),
   (0x2F000, laneBytes m),
   (0x2F400, wordsBytes (m.m.toList ++ m.sm.toList)),
   (0x2F480, [bankByte m.bank0, bankByte m.bank1, bankByte m.sbank0, bankByte m.sbank1]),
   (0x2F500, mapBytes v.micro 512 ++ mapBytes v.bind 32),
   (0x2FD80, wordsBytes ((List.range 17).map fun k => (s.plane (.panel p 70) l).ext.getD k 0)),
   (0x2FDC4, countBytes s p l)]

/-- The memories of a panel as the unit holds them: scratchpad, front and back exchange banks (R377). -/
def memPieces (s : State) (p : Nat) : List (Nat × List Byte) :=
  let f := (s.panel p).front
  [(0, memBytes s.mem (homeScratch p 0) (2 ^ 17)),
   (0x20000, memBytes s.mem (homeExch p f 0) (2 ^ 13)),
   (0x22000, memBytes s.mem (homeExch p (!f) 0) (2 ^ 13))]

/-- The reads of a panel's memories that a save makes, through the protection code (R266). -/
def memReads (s : State) (c p : Nat) : State × Option Cause :=
  if s.upsets.isEmpty then (s, none)
  else
    [(homeScratch p 0, 2 ^ 17), (homeExch p false 0, 2 ^ 13), (homeExch p true 0, 2 ^ 13)].foldl (fun x h =>
      let (s, e) := eccBytes x.1 c h.1 h.2
      (s, x.2.or e)) (s, none)

/-- The reads of the save buffers of some planes that a save makes, through the protection code (R266, R381). -/
def saveReads (s : State) (c : Nat) (ns : List (NodeId × Letter)) : State × Option Cause :=
  if s.upsets.isEmpty then (s, none)
  else ns.foldl (fun x e =>
    let (s, r) := eccBytes x.1 c (homeSave e.1 e.2) 512
    (s, x.2.or r)) (s, none)

/-- The reads that a save makes of a panel's bespoke store and save buffers, and of its memories where these are saved too (R266,
R377, R381). -/
def panelReads (mem : Bool) (s : State) (c p : Nat) (l : Letter) : State × Option Cause :=
  let (s, a) := if mem then memReads s c p else (s, none)
  let (s, b) := eccBytes s c (homeStore p l 0) 2048
  let (s, d) := saveReads s c ((List.range 72).map fun k => (.panel p k, l))
  (s, a.or (b.or d))

/-- Writes pieces of a unit. -/
def writePieces (s : State) (c base : Nat) : List (Nat × List Byte) → State × Except Cause Unit
  | [] => (s, .ok ())
  | (o, bs) :: t =>
    match writeCtx s c (base + o) bs with
    | (s, .error e) => (s, .error e)
    | (s, .ok ()) => writePieces s c base t

/-- The size of a unit (R350, R377). -/
def unitSize : Nat := 192 * 1024

/-- Writes the units of a list of panels from a base VA on, with the panels' memories or without them (R393, R396). -/
def writeUnits (mem : Bool) (s : State) (c base : Nat) (l : Letter) : List Nat → State × Except Cause Unit
  | [] => (s, .ok ())
  | p :: t =>
    match panelReads mem s c p l with
    | (s, some e) => (s, .error e)
    | (s, none) =>
      match writePieces s c base ((if mem then memPieces s p else []) ++ unitPieces s p l) with
      | (s, .error e) => (s, .error e)
      | (s, .ok ()) => writeUnits mem s c (base + unitSize) l t

/-! ### Reading units back -/

/-- Word `k` of a byte list, as a number. -/
def byteWord (bs : List Byte) (k : Nat) : Nat := leNat ((bs.drop (4 * k)).take 4)

/-- The 8-byte token `k` from an offset of a byte list. -/
def byteTok (bs : List Byte) (o k : Nat) : Entry := tokEntry (leNat ((bs.drop (o + 8 * k)).take 8))

/-- The words of a byte list from an offset. -/
def byteWords (bs : List Byte) (o n : Nat) : List Word := (List.range n).map fun k => BitVec.ofNat 32 (leNat ((bs.drop (o + 4 * k)).take 4))

/-- A plane with the words of a record. -/
def wordsBack (ws : List Word) (p : Plane) : Plane :=
  { p with slots := Vector.ofFn fun i => (ws.getD (2 * i.val) 0, ws.getD (2 * i.val + 1) 0)
           inw := vecOf 4 ws 32, rw := vecOf 4 ws 36, sw := vecOf 4 ws 40, pcw := ws.getD 44 0 &&& 0x1FFFF }

/-- An in-port with the FIFO entries, residue and credit of a record: entries that are unchanged keep what arrival knew. -/
def portBack (ts : List Token) (res cr : Nat) (q : InPort) : InPort :=
  { q with fifo := ts.map fun t => (q.fifo.find? fun f => f.tok == t).getD { tok := t }
           settled := q.settled && decide (ts.head? = (q.fifo.head?).map (·.tok)) && !ts.isEmpty
           residue := res, credit := cr }

/-- A plane with offsets 0x0C0 to 0x1FF of a record (R43, R378); `bs` starts at 0x0C0. A hold that the record keeps is the one that
the plane was saved with; one at the mark of the cut itself is over. -/
def stateBack (bs : List Byte) (p : Plane) : Plane :=
  let fl := leNat ((bs.drop 0x120).take 4)
  let res := leNat ((bs.drop 0x124).take 4)
  let sres := leNat ((bs.drop 0x128).take 4)
  let rq := leNat ((bs.drop 0x12C).take 4)
  { p with
    g := Vector.ofFn fun k => (byteTok bs 0 k.val).tok
    h := Vector.ofFn fun k => (byteTok bs 0x40 k.val).tok
    shadow := { g := Vector.ofFn fun k => (byteTok bs 0x80 k.val).tok, p := Vector.ofFn fun k => bitOf fl (8 + k.val)
                residue := Vector.ofFn fun k => field sres (8 * k.val + 7) (8 * k.val) }
    ins := Vector.ofFn fun k => portBack ((List.range 2).filterMap fun j => (byteTok bs 0xC0 (2 * k.val + j)).tok?)
      (field res (8 * k.val + 7) (8 * k.val)) (field rq (5 + 2 * k.val) (4 + 2 * k.val)) p.ins[k]
    outs := Vector.ofFn fun k => { p.outs[k] with slot := (byteTok bs 0x100 k.val).tok?, reqs := if bitOf rq k.val then p.outs[k].reqs else [] }
    p := Vector.ofFn fun k => bitOf fl k.val
    active := bitOf fl 16, halted := bitOf fl 17
    stop := if bitOf fl 18 then .poison
      else (match p.stop with
        | .poison => .run
        | .held => if bitOf fl 19 then .held else .run
        | .winHold => if bitOf fl 19 then .winHold else .run
        | x => x)
    fires := field (leNat ((bs.drop 0x134).take 4)) 31 8
    pid := leNat ((bs.drop 0x138).take 4) }

/-- A node's counters of a record (R328). -/
def countsBack (bs : List Byte) (d : Node) : Node :=
  let w := leNat ((bs.drop 0x130).take 4)
  { d with ca := signedOf 16 (field w 15 0), cb := signedOf 16 (field w 31 16)
           last := Letter.ofBit (bitOf (leNat ((bs.drop 0x134).take 4)) 0) }

/-- A bank of a unit (R377). -/
def bankBack (ws : List Word) (k : Byte) : Bank :=
  { acc := vecOf 256 ws 0, int := k.getLsbD 0, s := if k.getLsbD 1 then some false else if k.getLsbD 2 then some true else none }

/-- The matrix array of a unit. -/
def mxaBack (u : List Byte) (m : Mxa) : Mxa :=
  let ws := byteWords u 0x2E000 1024
  let k (j : Nat) : Byte := u.getD (0x2F480 + j) 0
  { m with bank0 := bankBack ws (k 0), bank1 := bankBack (ws.drop 256) (k 1)
           sbank0 := bankBack (ws.drop 512) (k 2), sbank1 := bankBack (ws.drop 768) (k 3)
           lanes := Vector.ofFn fun j => (List.range 4).filterMap fun q => (byteTok u 0x2F000 (4 * j.val + q)).tok?
           m := vecOf 16 (byteWords u 0x2F400 16) 0, sm := vecOf 16 (byteWords u 0x2F440 16) 0 }

/-- A panel node's plane from its unit (R377, R378). -/
def planeBack (u : List Byte) (a : Nat) (p : Plane) : Plane :=
  let r := (u.drop (0x25000 + 512 * a)).take 512
  let p := stateBack (r.drop 0xC0) (wordsBack (byteWords r 0 45) p)
  if a = 70 then { p with mxa := mxaBack u p.mxa, ext := byteWords u 0x2FD80 17 }
  else if a = 71 then { p with ext := byteWords r 0xB4 1 } else p

/-- The words of a table of bytes as a map, zeros apart. -/
def mapBack (ws : List Word) : Map Nat Word := (ws.zipIdx.filter fun e => e.1 != 0).map fun e => (e.2, e.1)

/-- A letter of a panel from its unit (R377). -/
def sideBack (u : List Byte) (v : PanelSide) : PanelSide :=
  { v with routes := mapBack (byteWords u 0x24000 1024), cvt := vecOf 8 (byteWords u (0x25000 + 512 * 69) 8) 0
           micro := mapBack (byteWords u 0x2F500 512), bind := mapBack (byteWords u 0x2FD00 32) }

/-- A merge or port unit's plane from its record (R378). -/
def treeBack (r : List Byte) (p : Plane) : Plane :=
  { stateBack (r.drop 0x140) (wordsBack (byteWords r 0 45) p) with ext := byteWords r 180 20 }

/-- A panel's memories from its unit (R377). -/
def memBack (s : State) (p : Nat) (u : List Byte) : State :=
  let f := (s.panel p).front
  let m := memPut s.mem (homeScratch p 0) (u.take (2 ^ 17))
  let m := memPut m (homeExch p f 0) ((u.drop 0x20000).take (2 ^ 13))
  let m := memPut m (homeExch p (!f) 0) ((u.drop 0x22000).take (2 ^ 13))
  { s with mem := m }

/-- An instance's counts for a panel from its unit (R210, R377). -/
def countBack (u : List Byte) (p : Nat) (v : Inst) : Inst :=
  let w := leNat ((u.drop 0x2FDC4).take 4)
  { v with xn := mset v.xn (panelKey v p) (field w 15 0), xs := mset v.xs (panelKey v p) (field w 31 16) }

/-! ### Collecting and clearing an instance (R351, R377) -/

/-- Every plane an instance holds. -/
def instPlanes (s : State) (i : Nat) : List SavedPlane :=
  s.nodes.flatMap fun e => [Letter.a, Letter.b].filterMap fun l =>
    if (e.2.plane l).inst = i then some { node := e.1, letter := l, plane := e.2.plane l } else none

/-- Every letter of a panel an instance holds. -/
def instSides (s : State) (i : Nat) : List SavedSide :=
  s.panels.flatMap fun e => [Letter.a, Letter.b].filterMap fun l =>
    if holdOf (e.2.side l).hold = some i then some { panel := e.1, letter := l, side := e.2.side l } else none

/-- A letter of a panel that its instance has left. -/
def clearSide (i : Nat) (v : PanelSide) : PanelSide := if holdOf v.hold = some i then {} else v

/-- A plane that its instance has left: what is on its way to it has moved too, and copies of ended instances go on (R335). -/
def clearPlane (i : Nat) (p : Plane) : Plane := if p.inst = i then { copies := p.copies.filter fun j => j.inst != i } else p

/-- An instance's planes, letters and accesses leave the fabric (R351, R376); its ways stay claimed (R350). -/
def clearInst (s : State) (i : Nat) : State :=
  { s with
    nodes := mmap s.nodes fun _ d => { d with pa := clearPlane i d.pa, pb := clearPlane i d.pb
                                              engine := if (d.plane .a).inst = i ∨ (d.plane .b).inst = i then none else d.engine }
    panels := mmap s.panels fun _ q => { q with sa := clearSide i q.sa, sb := clearSide i q.sb }
    accs := s.accs.filter fun e => !decide (e.2.inst = i) }

/-- A saved plane without pending writes of registers and predicates and with its own copies, to go on at its resumption (R43). -/
def noPending (x : SavedPlane) : SavedPlane :=
  { x with plane := { unhold x.node x.plane with
      ops := x.plane.ops.map fun o => { o with pmask := [], gmask := [] }, copies := x.plane.copies.filter fun j => j.inst == x.plane.inst } }

/-- An instance's planes, letters and accesses as data in its record. -/
def keepInst (s : State) (i : Nat) : State :=
  s.updInst i fun v => { v with saved := (instPlanes s i).map noPending, savedSides := instSides s i, savedAccs := s.accs.filter fun e => decide (e.2.inst = i) }

/-! ### Restoring (R43, R340, R349, R379) -/

/-- Where an instance goes: its old and new origin, how letters map, and how far its scratchpad windows rise. -/
structure Move where
  old : Nat := 0
  new : Nat := 0
  lm : Bool := false
  e : Nat := 0
  deriving DecidableEq, Repr

/-- A panel's new place. -/
def Move.panel (m : Move) (p : Nat) : Nat := m.new + (p - m.old)

/-- A letter's new letter. -/
def Move.letter (m : Move) (l : Letter) : Letter := if m.lm then l.other else l

/-- A node's new place: merge units are those of the new origin's switches (R125). -/
def Move.node (m : Move) : NodeId → NodeId
  | .panel p n => .panel (m.panel p) n
  | n => treeNode m.new n

/-- A saved access at its new place. -/
def Move.access (m : Move) (a : Access) : Access :=
  let b := { a with node := m.node a.node, letter := m.letter a.letter }
  match a.space, a.node with
  | .scratch, .panel p _ => { b with home := a.home + homeScratch (m.panel p) 0 + m.e - homeScratch p 0, va := a.va + m.e }
  | _, _ => b

/-- A seam sender's origin in its new place, when it belongs to the instance that moves. -/
def wireMoved (m : Move) (i : Nat) (w : Wire) : Wire :=
  if (if w.result then w.callee else w.caller) = i then { w with panel := m.panel w.panel, letter := m.letter w.letter } else w

/-- Rewrites one placement-written entry of a seam after a move (R340): its target's panel, and `XPL`. -/
def entryMoved (m : Move) (i : Nat) (w : Wire) (v : Nat) : Nat :=
  let sendI := decide ((if w.result then w.callee else w.caller) = i)
  let recvI := decide ((if w.result then w.caller else w.callee) = i)
  let p := if recvI then m.panel (field v 29 16) else field v 29 16
  let flip := (sendI != recvI) && m.lm
  3 * 2 ^ 30 + p * 2 ^ 16 + field v 15 7 * 2 ^ 7 + (bitOf v 6 != flip).toNat * 2 ^ 6

/-- Rewrites a list of entries of a seam, in the table where they now stand. -/
def rewriteEntries (m : Move) (i : Nat) (w : Wire) (s : State) : List Nat → State
  | [] => s
  | e :: t =>
    let w' := wireMoved m i w
    let v := (mget (s.side w'.panel w'.letter).routes e).toNat
    rewriteEntries m i w (if v = 0 then s else putEntry s w'.panel w'.letter e (BitVec.ofNat 32 (entryMoved m i w v))) t

/-- Rewires every seam of a moved instance (R340). -/
def rewire (s : State) (m : Move) (i : Nat) : State :=
  let ws := (s.insts.flatMap fun e => e.2.wires).filter fun w => w.caller = i ∨ w.callee = i
  let s := ws.foldl (fun s w => rewriteEntries m i w s w.entries) s
  { s with insts := mmap s.insts fun _ v => { v with wires := v.wires.map (wireMoved m i) } }

/-- Puts saved planes back at their new places; what stands on the lanes there stays behind what the plane held, copies of ended
instances go on (R335), and a token that waits enters an active plane in the cycle after this one (R258). -/
def putPlanes (s : State) (m : Move) : List SavedPlane → State
  | [] => s
  | x :: t =>
    let n := m.node x.node
    let l := m.letter x.letter
    let old := s.plane n l
    let p := { x.plane with
      copies := old.copies ++ x.plane.copies
      ins := Vector.ofFn fun k => { x.plane.ins[k] with lane := x.plane.ins[k].lane ++ old.ins[k].buf.toList ++ old.ins[k].lane } }
    let p := if p.active then wakeLanes s.cycle p else p
    putPlanes (s.setPlane n l p) m t

/-- Puts saved letters of panels back. -/
def putSides (s : State) (m : Move) : List SavedSide → State
  | [] => s
  | x :: t => putSides (s.updSide (m.panel x.panel) (m.letter x.letter) fun _ => x.side) m t

/-- Re-latches the windows that a restored plane had latched (R379). -/
def relatch (s : State) (e : NodeId × Letter) : State :=
  let ws := (s.plane e.1 e.2).latch.map (·.1)
  ws.foldl (fun s w => latchWindow s e.1 e.2 w) (s.updPlane e.1 e.2 fun p => { p with latch := [] })

/-- The stitches that called the instances which a moved instance has called, at their new places. -/
def movedCall (m : Move) (i : Nat) (v : Inst) : Inst :=
  if v.caller = i then { v with callAt := v.callAt.map fun e => (m.node e.1, m.letter e.2) } else v

/-- RESTORES AN INSTANCE at its new place (R43, R379): planes, letters, accesses, windows, seams, its trap's node, and its
windows latched again. -/
def restoreInst (s : State) (m : Move) (i : Nat) : State :=
  let v := s.inst i
  let s := putSides (putPlanes s m v.saved) m v.savedSides
  let as : Map Nat Access := v.savedAccs.map fun e => (e.1, m.access e.2)
  let up (w : Window) : Window := if w.described && w.space == .scratch then { w with base := w.base + m.e } else w
  let s := { s with accs := s.accs ++ as }
  let s := s.updInst i fun v => { v with
    origin := m.new, letter := m.letter v.letter, st := .live, cut := .none, idle := 0, quiet := 0, saved := [], savedSides := [], savedAccs := [],
    wins := v.wins.map up, region := v.region.map fun e => (m.node e.1, m.letter e.2),
    logPorts := v.logPorts.map fun e => (m.node e.1, m.letter e.2.1, e.2.2) }
  let s := rewire { s with insts := mmap s.insts fun _ v => movedCall m i v } m i
  let s := if v.fault then { s with traps := mupd s.traps v.trap fun t => { t with node := m.node t.node, letter := m.letter t.letter } } else s
  settleAll ((v.saved.map fun x => (m.node x.node, m.letter x.letter)).foldl relatch s)

/-- Reads the units of a saved instance's panels into its record, and their memories into the new panels where these go
with it (R43, R393, R396). -/
def readUnits (mem : Bool) (s : State) (c base : Nat) (m : Move) (i : Nat) (l : Letter) : List Nat → State × Except Cause Unit
  | [] => (s, .ok ())
  | p :: t =>
    match readCtx s c base unitSize with
    | (s, .error e) => (s, .error e)
    | (s, .ok u) =>
      let fixP (x : SavedPlane) : SavedPlane :=
        match x.node with
        | .panel q a => if q = p ∧ x.letter = l ∧ a ≠ 69 then { x with plane := planeBack u a x.plane } else x
        | _ => x
      let s := s.updInst i fun v => { v with
        xn := (countBack u p v).xn, xs := (countBack u p v).xs, saved := v.saved.map fixP
        savedSides := v.savedSides.map fun x => if x.panel = p ∧ x.letter = l then { x with side := sideBack u x.side } else x }
      let s := if mem then memBack s (m.panel p) u else s
      readUnits mem s c (base + unitSize) m i l t

/-- The node counters of a unit's records into the nodes of a panel (R328, R378). -/
def countsInto (s : State) (c base : Nat) (p : Nat) : State :=
  match readCtx s c (base + 0x25000) (72 * 512) with
  | (s, .error _) => s
  | (s, .ok bs) => (List.range 72).foldl (fun s a => s.setNode (.panel p a) (countsBack ((bs.drop (512 * a + 0xC0)).take 320) (s.node (.panel p a)))) s

end Sys2Proof.Machine
end

