-- ==== Sys2Proof/Machine/Traps.lean ====
section
/-! DEFINITION. Traps at the armature cores, replays, the watchdog, quiescence, pre-emption and the switch area, the
debugger, and parity errors (R282, R363, R364, R370 to R382). -/

namespace Sys2Proof.Machine
open Sys2Proof

/-! ### Delivery (R364, R369, R370) -/

/-- The first panel of a core's level-2 subtree. -/
def corePanel (c : Nat) : Nat := c % 32 * 4 + c / 32 * 4 * 128

/-- Whether a queued trap can be served: its instance stands on the fabric. -/
def deliverable (s : State) (id : Nat) : Bool :=
  let t := s.trap id
  (mget? s.insts t.inst).isNone || (match (s.inst t.inst).st with
    | .live => true
    | .cutting => true
    | _ => false)

/-- Removes a trap from its core's queue. -/
def unqueue (s : State) (c id : Nat) : State := s.updCore c fun k => { k with queue := k.queue.erase id }

/-- A held plane with a step that it has not finished is no longer stepping (R370). -/
def endStep (p : Plane) : Plane := if p.stop = .held then { p with budget := none } else p

/-- A core begins to serve a trap (R364, R370): its registers are set as every entry sets them, its images are those of the nodes as
they stand, and `TSTEP` of the instance's nodes is 0. -/
def serve (c id : Nat) (s : State) : State :=
  let t := s.trap id
  let f (p : Plane) : Plane := if p.inst = t.inst then endStep p else p
  let s := { s with nodes := mmap s.nodes fun _ d => { d with pa := f d.pa, pb := f d.pb } }
  s.updCore c fun k => { queue := k.queue, late := k.late, serving := some id, tselNode := t.node, tselLetter := t.letter, entry := s.nodes }

/-- A trap whose cause was raised at bind, by the checks of a BSBD, never reaches a handler. DEDUCED (log 127): it is taken as of a
context without one, which terminates the launch (R121, R362, R382). -/
def bindTime (t : Trap) : Bool :=
  (t.cause == .bespokeLimit || t.cause == .bespokeIllegal) && t.upc.isNone && (match decodeA .stitch 0 t.aw with
    | .ok (.bsbd _ _) => true
    | _ => false)

/-- TRAP_DELIVERY (R362, R364, R369, R382): traps that wait enter the queue as there is room, and the next queued trap is entered;
without a handler it terminates its launch. A trap whose instance is gone is dropped. -/
def execTrapDelivery (core : Nat) (s : State) : Res :=
  let s := admitTraps s core
  let k := s.core core
  .next (if k.serving.isSome || 1024 ≤ core then s
    else match k.queue.find? (deliverable s) with
      | none => s
      | some id =>
        let s := admitTraps (unqueue s core id) core
        let t := s.trap id
        if (mget? s.insts t.inst).isNone then { s with traps := mdel s.traps id }
        else
          let s := serve core id { s with traps := mset s.traps id { t with prec := isPrecise s t.inst } }
          if (s.ctx t.ctx).hndlen = 0 || bindTime t then leaveTrap s core 3 t.cause else s)

/-! ### Replays (R373, R374) -/

/-- What a memory port has still to take from its log, at the heads of its FIFOs, where the trap images show it. -/
def relogIn (p : Plane) : Plane :=
  { p with ins := Vector.ofFn fun k =>
             let old := p.mp.relog.filter fun e => e.1 == k.val
             if old.isEmpty then p.ins[k]
             else { p.ins[k] with fifo := old.map (fun e => { tok := e.2 }) ++ p.ins[k].fifo, settled := true }
           mp := { p.mp with relog := [] } }

/-- A replayed plane holds and its trap is entered again, with `TPHASE` 1 (R373, R374): in the region the operands of its
firing stand at the heads of their ports; outside it they are still those of the record. -/
def reenter (s : State) (i id : Nat) (div : Bool) : State :=
  let t := s.trap id
  let inR := (s.inst i).region.contains (t.node, t.letter)
  let s := s.updPlane t.node t.letter fun p => { relogIn p with stop := .held, replay := none }
  let s := s.updInst i fun v => { v with fault := true, trap := id, tmulti := 0, replay := none }
  let s := queueTrap s id { t with phase := true, div := div, ports := if inR then (t.ops.map (·.1) ++ t.ports).dedup else t.ports,
                                   ops := if inR then [] else t.ops, prec := isPrecise s i }
  settlePlane s t.node t.letter

/-- REPLAY_HOLD (R373): the faulting plane has made its firings and would make the next, or lies outside the region. -/
def execReplayHold (i : Nat) (s : State) : Res :=
  .next (match (s.inst i).replay with
    | none => s
    | some id =>
      let t := s.trap id
      let p := s.plane t.node t.letter
      let next := (candOf (s.updPlane t.node t.letter fun p => { p with replay := none }) t.node t.letter).isSome
      if p.replay = some 0 && (p.stop == .held || next) then reenter s i id false else s)

/-- REPLAY_DIVERGENCE (R374): no firing for 2^20 cycles; `TDIV` tells that the count was not reached. -/
def execReplayDivergence (i : Nat) (s : State) : Res :=
  .next (match (s.inst i).replay with
    | none => s
    | some id =>
      let t := s.trap id
      let p := s.plane t.node t.letter
      if p.replay = none ∨ s.cycle < p.replaySince + 2 ^ 20 then s else reenter s i id (p.replay != some 0))

/-! ### The watchdog (R363) -/

/-- Whether the watchdog's count is suspended: a node stopped by a fault, stalled or frozen, or a call that waits. -/
def wdogHeld (s : State) (i : Nat) : Bool :=
  let f (p : Plane) : Bool := p.inst == i && (p.frozen || (match p.stop with
    | .fault _ => true
    | .stall _ => true
    | _ => false))
  (s.nodes.any fun e => f e.2.pa || f e.2.pb) || s.bundles.any fun b => decide (b.2.caller = i)

/-- The order of nodes by panel and then node address. -/
def nodeRank (s : State) (e : NodeId × Letter) : Nat := panelOf s e.1 e.2 * 256 + (match e.1 with
  | .panel _ a => a
  | _ => 128)

/-- The first node of a list by rank. -/
def lowestNode (s : State) : List (NodeId × Letter) → Option (NodeId × Letter)
  | [] => none
  | e :: t => match lowestNode s t with
    | none => some e
    | some f => some (if nodeRank s e ≤ nodeRank s f then e else f)

/-- Whether an instance stands on the fabric, where its nodes can make progress: live, or still being cut (R363, R376). -/
def onFabric (v : Inst) : Bool :=
  match v.st with
  | .cast => false
  | .saved => false
  | _ => v.saved.isEmpty

/-- WATCHDOG (R363): at the lowest node that holds a token at an in-port head, else at node 0 of the origin panel. -/
def execWatchdog (i : Nat) (s : State) : Res :=
  let v := s.inst i
  let w := (s.ctx v.ctx).wdog
  .next (if w = 0 || (mget? s.insts i).isNone || !onFabric v || s.cycle < v.progress + w * 65536 || wdogHeld s i then s
    else
      let hs := (activePlanes s i).filter fun e => (List.finRange 4).any fun k => !(s.plane e.1 e.2).ins[k].fifo.isEmpty
      let e := (lowestNode s hs).getD (.panel v.origin 0, v.letter)
      headFault (s.updInst i fun v => { v with progress := s.cycle }) e.1 e.2 .watchdog)

/-! ### Quiescence (R282) -/

/-- An instance and the instances it called, and theirs. -/
def familyOf (s : State) (i : Nat) : Nat → List Nat
  | 0 => [i]
  | n + 1 =>
    let xs := familyOf s i n
    (xs ++ (s.insts.filter fun e => xs.contains e.2.caller && decide (e.2.caller ≠ 0)).map (·.1)).dedup

/-- Whether a plane is stalled by a fault. -/
def stalledPlane (p : Plane) : Bool := match p.stop with
  | .stall _ => true
  | _ => false

/-- Whether a plane that is not stalled is at rest: nothing to issue, nothing in flight. -/
def atRest (s : State) (n : NodeId) (l : Letter) : Bool :=
  let p := s.plane n l
  stalledPlane p || ((candOf s n l).isNone && p.ops.isEmpty && (p.copies.all fun j => j.inst != p.inst)
    && !(s.accs.any fun e => decide (e.2.node = n) && decide (e.2.letter = l)))

/-- The planes of an instance, active or not. -/
def planesOf (s : State) (i : Nat) : List (NodeId × Letter) := (instPlanes s i).map fun x => (x.node, x.letter)

/-- Whether a stalled instance's other nodes, and those of its callees, are at rest in this cycle, their inactive planes too (R282). -/
def restful (s : State) (i : Nat) : Bool :=
  hasStall s i && (familyOf s i 64).all fun j => (planesOf s j).all fun e => atRest s e.1 e.2

/-- An instance after one more cycle: the cycles that it has been at rest (R282), and the watchdog's count, which stands still
while it is suspended (R363). -/
def countRest (s : State) (i : Nat) (v : Inst) : Inst :=
  let v := if wdogHeld s i then { v with progress := v.progress + 1 } else v
  if restful s i then { v with quiet := v.quiet + 1 } else { v with quiet := 0, idle := 0 }

/-- QUIESCENCE (R282): every other node of a stalled instance and of its callees has been at rest for 256 consecutive cycles. -/
def execQuiescence (i : Nat) (s : State) : Res :=
  .next (if (mget? s.insts i).isSome && hasStall s i && decide (256 ≤ (s.inst i).quiet) then s.updInst i fun v => { v with idle := 1 } else s)

/-! ### Pre-emption (R366, R376, R382) -/

/-- The live instances of a context. -/
def liveOf (s : State) (c : Nat) : List Nat := (s.insts.filter fun e => decide (e.2.ctx = c) && e.2.st == .live).map (·.1)

/-- Whether a context can be cut now: none of its instances is being cut or cast, none waits to load, and the stalled ones
are quiescent (R282). -/
def canPreempt (s : State) (c : Nat) : Bool :=
  !(s.ctx c).preempt
    && (s.insts.all fun e => e.2.ctx != c || (match e.2.st with
      | .live => !hasStall s e.1 || quiescent e.2
      | .cast => true
      | _ => false))
    && s.reqs.all fun e => e.2.ctx != c || (match e.2.st with
      | .claiming _ _ _ _ => false
      | .loading _ _ => false
      | _ => true)

/-- Gives units of the switch area to instances in order (R377). -/
def giveUnits (s : State) (u : Nat) : List Nat → State
  | [] => s
  | i :: t => giveUnits (s.updInst i fun v => { v with cswUnit := some u }) (u + cswNeed (s.inst i)) t

/-- PMK_INJECTION (R366, R376, R382): every live instance of the context is cut with one mark; a flagged or quiescent one
receives none. A switch-out that does not fit is refused. -/
def execPmkInjection (c : Nat) (s : State) : Res :=
  let is := liveOf s c
  let need := (is.map fun i => cswNeed (s.inst i)).sum
  .next (if !canPreempt s c || is.isEmpty || (s.ctx c).cswunits < need then s
    else
      let s := s.updCtx c fun x => { x with pmk := x.pmk + 1, preempt := true }
      let s := is.foldl (fun s i => s.updInst i fun v => { v with st := .cutting, cut := .preempt }) (giveUnits s 0 is)
      let t := pmkMark (s.ctx c).pmk
      let cut := is.filter fun i => !savedDirect (s.inst i)
      cut.foldl (fun s i => markSeams (injectInst s i t) i (fun j => !cut.contains j) t) s)

/-- The 128 words of a trap record from 0x100 on (R379). -/
def trapWords (s : State) (id : Nat) : List Word :=
  let s := serve 1024 id s
  (List.range 128).map fun k => BitVec.ofNat 32 ((trapRead s 1024 (0x100 + k)).getD 0)

/-- The 64-byte header of a trailer unit (R379; log 22). -/
def trailerHead (i : Nat) (v : Inst) : List Byte :=
  padTo 64 ([i, v.pat.pid, v.origin, v.pat.fw + v.pat.fh * 2 ^ 16, v.letter.bit.toNat, v.depth, v.setCls, v.caller, v.member,
    v.relatch, v.twin, v.fault.toNat].flatMap fun x => leBytes (x % 2 ^ 32) 4)

/-- The merge and port units of an instance in its record's order, with their letters (R124, R379). -/
def treeNodes (v : Inst) : List (NodeId × Letter) := v.pat.tnodes.map fun r => (treeNode v.origin r.node, recLetter v.letter r.npl)

/-- The pieces of a trailer unit (R379). -/
def trailerPieces (s : State) (i : Nat) : List (Nat × List Byte) :=
  let v := s.inst i
  (0, trailerHead i v) :: (0x400, if v.fault then wordsBytes (trapWords s v.trap) else List.replicate 512 0)
    :: (treeNodes v).zipIdx.map fun e => (0x1000 + 1024 * e.2, treeRecord (s.node e.1.1) (s.plane e.1.1 e.1.2))

/-- The VA of an instance's units in the switch area. -/
def cswVa (s : State) (i : Nat) : Nat :=
  let v := s.inst i
  (s.ctx v.ctx).cswbase + unitSize * v.cswUnit.getD 0

/-- Writes an instance's trailer and panel units (R377). -/
def writeSwitch (s : State) (i : Nat) : State × Except Cause Unit :=
  let v := s.inst i
  match writePieces s v.ctx (cswVa s i) (trailerPieces s i) with
  | (s, .error e) => (s, .error e)
  | (s, .ok ()) =>
    match saveReads s v.ctx (treeNodes v) with
    | (s, some e) => (s, .error e)
    | (s, none) => writeUnits true s v.ctx (cswVa s i + unitSize) v.letter (rectPanels v.origin v.pat.fw v.pat.fh)

/-- Whether a core serves an instance's trap. -/
def trapServed (s : State) (i : Nat) : Bool := (s.inst i).fault && s.cores.any fun k => k.2.serving == some (s.inst i).trap

/-- A saved instance's trap leaves its core's queue (R376). -/
def takeBackTrap (s : State) (i : Nat) : State :=
  let id := (s.inst i).trap
  { s with cores := mmap s.cores fun _ k =>
      { k with queue := k.queue.filter fun t => !decide (t = id), late := k.late.filter fun t => !decide (t = id) } }

/-- SWITCH_OUT_SAVE (R376 to R379): once every instance of the context has come to the cut, each is released, written to
the switch area once its committed stores have performed, and leaves the fabric. -/
def execSwitchOutSave (i : Nat) (s : State) : Res :=
  let v := s.inst i
  let all := s.insts.all fun e => !(decide (e.2.ctx = v.ctx) && e.2.st == .cutting) || (e.2.cut == .preempt && cutDone s e.1)
  .next (if v.st != .cutting || v.cut != .preempt || !all || trapServed s i then s
    else if releaseWaits (cutRelease s i) i then cutRelease s i
    else match writeSwitch (cutRelease s i) i with
      | (_, .error _) => s
      | (t, .ok ()) =>
        let t := if v.fault then takeBackTrap t i else t
        (clearInst (keepInst t i) i).updInst i fun v => { v with st := .saved, cut := .none })

/-- Whether an instance's panels, and its merge and port units, are free in its letters (R379). -/
def gussetBack (s : State) (v : Inst) : Bool :=
  (v.savedSides.all fun x => (s.side x.panel x.letter).hold == .free)
    && (treeNodes v).all fun e => decide ((s.plane e.1 e.2).inst = 0)

/-- Reads the tree and port records of a trailer into a saved instance's planes. -/
def treeRead (s : State) (i : Nat) : State × Except Cause Unit :=
  let v := s.inst i
  match readCtx s v.ctx (cswVa s i + 0x1000) (1024 * v.pat.tnodes.length) with
  | (s, .error e) => (s, .error e)
  | (s, .ok bs) =>
    let ns := (treeNodes v).zipIdx
    let fix (x : SavedPlane) : SavedPlane := match ns.find? fun e => e.1.1 == x.node && e.1.2 == x.letter with
      | some e => { x with plane := treeBack ((bs.drop (1024 * e.2)).take 1024) x.plane }
      | none => x
    (s.updInst i fun v => { v with saved := v.saved.map fix }, .ok ())

/-- Planes of an instance that would run are held until its whole context is back. -/
def holdBack (s : State) (i : Nat) : State :=
  let f (p : Plane) : Plane := if p.inst = i ∧ p.active = true ∧ p.stop = .run then { p with stop := .pmkHold } else p
  { s with nodes := mmap s.nodes fun _ d => { d with pa := f d.pa, pb := f d.pb } }

/-- A context whose last instance is back goes on. -/
def contextBack (s : State) (c : Nat) : State :=
  if s.insts.any fun e => decide (e.2.ctx = c) && e.2.st == .saved then s
  else
    let f (n : NodeId) (p : Plane) : Plane := if (s.inst p.inst).ctx = c then unhold n p else p
    { s with nodes := mmap s.nodes fun n d => { d with pa := f n d.pa, pb := f n d.pb }
             ctxs := mupd s.ctxs c fun x => { x with preempt := false } }

/-- Claims an instance's panels again: what they hold is about to be overwritten (R42, R43). -/
def claimBack (s : State) (c : Nat) (ps : List Nat) : State :=
  ps.foldl (fun s p => s.updPanel p fun q => { q with lastCtx := some c, zero := none }) s

/-- Whether the banks of a saved instance's panels and slices have nothing of ended instances still to perform (R307). -/
def backIdle (s : State) (v : Inst) : Bool :=
  banksIdle s (rectPanels v.origin v.pat.fw v.pat.fh) ((v.wins.filter fun w => w.space == .slice).map fun w => (w.level, w.bank))

/-- SWITCH_IN (R43, R307, R379): a saved instance comes back into its gusset and letter once they are free, its windows latched
again, its seams rewired, and its trap queued again. -/
def execSwitchIn (i : Nat) (s : State) : Res :=
  let v := s.inst i
  let ps := rectPanels v.origin v.pat.fw v.pat.fh
  let m : Move := { old := v.origin, new := v.origin }
  .next (if v.st != .saved || !(s.ctx v.ctx).preempt || !gussetBack s v || descheduled s v.ctx || !backIdle s v then s
    else match treeRead s i with
      | (_, .error _) => s
      | (t, .ok ()) =>
        match readUnits true t v.ctx (cswVa s i + unitSize) m i v.letter ps with
        | (_, .error _) => s
        | (t, .ok ()) =>
          let t := claimBack (restoreInst t m i) v.ctx ps
          let t := ps.zipIdx.foldl (fun t e => countsInto t v.ctx (cswVa s i + unitSize * (e.2 + 1)) e.1) t
          let t := holdBack t i
          let t := if v.fault then queueTrap t v.trap (t.trap v.trap) else t
          contextBack (t.updInst i fun v => { v with cswUnit := none, progress := t.cycle }) v.ctx)

/-! ### Steps (R370, R380) -/

/-- TSTEP (R370): the plane that a core's `TSEL` names makes n firings and holds again, if it is held. -/
def execTstep (core n : Nat) (s : State) : Res := .next (if (s.core core).serving.isNone then s else trapSet s core 0x113 n)

/-- The plane that `DBGSEL` names. -/
def dbgPlane (x : Ctx) : NodeId × Letter := (.panel (x.dbgsel % 2 ^ 14) (field x.dbgsel 20 14), Letter.ofBit (bitOf x.dbgsel 21))

/-- Whether a debugger command of a context can act: debugging is on and the plane is the context's. -/
def dbgOn (s : State) (c cmd : Nat) : Bool :=
  let x := s.ctx c
  let e := dbgPlane x
  bitOf x.dbgen 0 && decide (x.dbgcmd = cmd) && nodeExists e.1 && decide (instOf s e.1 e.2 ≠ 0) && decide (ctxOf s e.1 e.2 = c)

/-- A command that names no plane of the context is done. -/
def dbgIdle (s : State) (c cmd : Nat) : State := if (s.ctx c).dbgcmd = cmd then s.updCtx c fun x => { x with dbgcmd := 0 } else s

/-- DBGCMD_FREEZE (R380): every node of the selected node's instance is frozen. -/
def execDbgcmdFreeze (c : Nat) (s : State) : Res :=
  let e := dbgPlane (s.ctx c)
  .next (if !dbgOn s c 1 then dbgIdle s c 1
    else (freezeInst s (instOf s e.1 e.2) true).updCtx c fun x => { x with dbgcmd := 0 })

/-- DBGCMD_RESUME (R165, R380): the instance's nodes go on, and the selected plane is no longer halted. -/
def execDbgcmdResume (c : Nat) (s : State) : Res :=
  let e := dbgPlane (s.ctx c)
  let i := instOf s e.1 e.2
  let f (p : Plane) : Plane := if p.inst = i then { p with budget := none } else p
  .next (if !dbgOn s c 3 then dbgIdle s c 3
    else
      let s := freezeInst s i false
      let s := { s with nodes := mmap s.nodes fun _ d => { d with pa := f d.pa, pb := f d.pb } }
      let s := s.updPlane e.1 e.2 fun p => { p with halted := false }
      s.updCtx c fun x => { x with dbgcmd := 0, dbgop := none })

/-- The STEP trap of a step (R380). -/
def stepTrap (s : State) (c : Nat) (e : NodeId × Letter) : State :=
  let p := s.plane e.1 e.2
  if bitOf (s.ctx c).dbgen 1 then
    let k := p.lastFire
    let w := p.slots.toList.getD k (0, 0)
    takeTrap s { cause := .step, node := e.1, letter := e.2, inst := p.inst, slot := k, fire := p.fires, tw := w.1, aw := w.2 }
  else s

/-- Makes a step's report: the slot, the engine operation's status, the cause and its launching slot (R380). -/
def report (s : State) (c slot st : Nat) (cause : Option (Nat × Cause)) (late : Bool) : State :=
  let (ls, cc) := match cause with
    | some (k, e) => (k, e.code)
    | none => (0, 0)
  stepTrap (s.updCtx c fun x => { x with
    dbgcmd := 0, dbgst := slot + st * 16 + cc * 64 + (if late then ls * 2 ^ 12 else 0), dbgrec := none, dbglate := none, dbgdone := false })
    c (dbgPlane (s.ctx c))

/-- DBGCMD_STEP (R380): the selected plane may make one issue; one with nothing to issue is reported at once. -/
def execDbgcmdStep (c : Nat) (s : State) : Res :=
  let e := dbgPlane (s.ctx c)
  .next (if !dbgOn s c 2 then dbgIdle s c 2
    else if (s.plane e.1 e.2).budget.isSome && (s.ctx c).dbgop.isSome then s
    else
      let late := (s.ctx c).dbgrec
      let t := s.updPlane e.1 e.2 fun p => { p with budget := some 1 }
      if (candOf t e.1 e.2).isNone then
        report s c 15 (if late.isSome then 3 else 0) late true
      else t.updCtx c fun x => { x with dbgop := some s.ids, dbgrec := none, dbglate := late, dbgdone := false })

/-- STEP_REPORT (R380): the issue that a step allowed has been made, and its report is due. -/
def execStepReport (c : Nat) (s : State) : Res :=
  let x := s.ctx c
  let e := dbgPlane x
  let p := s.plane e.1 e.2
  .next (match x.dbgop with
    | none => s
    | some k =>
      if x.dbgcmd ≠ 2 || p.budget != some 0 then s
      else
        let o := p.ops.find? fun o => decide (k ≤ o.id) && o.slot == p.lastFire
        let s0 := s
        let s := s.updPlane e.1 e.2 fun p => { p with budget := none }
        match o, x.dbgrec with
        | some o, none =>
          if reportWaits o.kind then s0
          else report s c p.lastFire (if x.dbglate.isSome then 3 else 2) x.dbglate true
        | _, some r => report s c p.lastFire 3 (some r) false
        | none, none => report s c p.lastFire (if x.dbglate.isSome then 3 else if x.dbgdone then 1 else 0) x.dbglate true)

/-! ### Parity errors (R381) -/

/-- The offset of a panel in its instance. -/
def offsetOf (v : Inst) (p : Nat) : Nat × Nat := (colOf p - colOf v.origin, rowOf p - rowOf v.origin)

/-- The image words that a plane's record holds (R124, R381). -/
def imageWords (s : State) (n : NodeId) (l : Letter) (q : Pattern) : List Word :=
  let v := s.inst (instOf s n l)
  let npl := decide (l ≠ v.letter)
  match n with
  | .panel p a => recWords (panelRec q (offsetOf v p).1 (offsetOf v p).2) a npl
  | _ => (q.tnodes.find? fun r => r.npl == npl && treeNode v.origin r.node == n).elim [] (·.words)

/-- A plane whose configuration is loaded again: slots, in-port, route, scale and control words; the route words that
placement wrote stay (R381). -/
def reloadPlane (ws : List Word) (seam : Nat → Bool) (p : Plane) : Plane :=
  let q := loadedPlane ws p.pid p.patVer p.inst
  { p with slots := q.slots, inw := q.inw, sw := q.sw, pcw := pcwAct q.pcw p.active, ext := q.ext, parity := none
           rw := Vector.ofFn fun k => if seam k.val then p.rw[k] else q.rw[k] }

/-- Whether placement wired an out-port of a panel node (R340). -/
def seamOut (s : State) (n : NodeId) (l : Letter) (k : Nat) : Bool :=
  match n with
  | .panel p a => s.insts.any fun e => e.2.wires.any fun w => w.panel == p && w.node == a && w.letter == l && w.out == k
  | _ => false

/-- The time of a reload (R381). -/
def reloadTime (s : State) (n : NodeId) (l : Letter) (q : Pattern) : Nat :=
  match n with
  | .panel p _ =>
    let d := offsetOf (s.inst (instOf s n l)) p
    loadTime (panelRec q d.1 d.2)
  | _ => 40 + ((imageWords s n l q).length + 31) / 32

/-- PLANE_PARITY (R381): a parity error, in an active or a basted plane, pauses the plane and starts its reload; an error during the reload, or an image
that has been replaced, is uncorrectable; after the reload the plane goes on and the notice follows. -/
def execPlaneParity (n : NodeId) (l : Letter) (s : State) : Res :=
  let p := s.plane n l
  let c := ctxOf s n l
  .next (if p.inst = 0 then s
    else match mget? (s.ctx c).pats p.pid, p.parity with
      | some q, none =>
        if q.ver = p.patVer then s.updPlane n l fun p => { p with parity := some (s.cycle + slow s n (reloadTime s n l q)) }
        else headFault s n l .eccUncorrectable
      | none, none => headFault s n l .eccUncorrectable
      | some q, some due =>
        if s.cycle < due ∨ q.ver ≠ p.patVer then headFault (s.updPlane n l fun p => { p with parity := none }) n l .eccUncorrectable
        else
          let s := s.updPlane n l (reloadPlane (imageWords s n l q) (seamOut s n l))
          headFault (s.updDev fun d => { d with parcnt := min (d.parcnt + 1) (2 ^ 64 - 1) }) n l .planeParity
      | none, some _ => headFault (s.updPlane n l fun p => { p with parity := none }) n l .eccUncorrectable)

end Sys2Proof.Machine
end

