-- ==== Sys2Proof/Machine/Fetch.lean ====
section
/-! DEFINITION. What surrounds an instruction in a step: the next turn (log 1), the end of a cycle, the power
of a unit's island (R423 to R426), and fetching for a slot, a bespoke sequencer and an armature core (R91,
R192 to R194, R364). -/

namespace Sys2Proof.Machine
open Sys2Proof

/-- The next turn: the oldest of the agenda, else a free one (log 1). -/
def nextTurn (s : State) : Turn × State :=
  match s.turns with
  | t :: ts => (t, { s with turns := ts })
  | [] => (Config.turn s.turnNo, { s with turnNo := s.turnNo + 1 })

/-! ### Power (R423) -/

/-- Whether a node's island runs. -/
def powered (s : State) (n : NodeId) : Bool := islandRuns s (islandOf n)

/-! ### The end of a cycle (R1, R330) -/

/-- What a limiter gains in the cycle that ends: its rate for each 1,024 cycles, up to its burst (R330). -/
def refill (c : Nat) (v : Limiter) : Limiter :=
  let g : Int := v.rate * (c + 1) / 1024 - v.rate * c / 1024
  { v with level := min (v.level + g) (max v.burst v.level) }

/-- The end of a device cycle: the counter advances, the banks are free for another access, instances at rest are counted, and
the limiters refill (R1, R2, R201, R282, R330). -/
def tick (s : State) : State :=
  { s with cycle := (s.cycle + 1) % 2 ^ 64, used := [], insts := mmap s.insts fun i v => countRest s i v, vfs := mmap s.vfs fun _ v => { v with lims := v.lims.map (refill s.cycle) } }

/-! ### Bespoke sequencer -/

/-- The micro-word at a sequencer's position (R118). -/
def microWord (s : State) (n : NodeId) (q : Seqr) : Word := mget (s.side (panelOf s n q.letter) q.letter).micro (q.start + q.upc)

/-- A sequencer reads its next micro-word through the protection code of its bespoke store (R266, R381). -/
def microRead (s : State) (n : NodeId) : State × Option Cause :=
  match (s.node n).seqr with
  | some q => if q.started then eccBytes s (ctxOf s n q.letter) (homeStore (panelOf s n q.letter) q.letter (q.start + q.upc)) 4 else (s, none)
  | none => (s, none)

/-- What a sequencer that has started its next micro-operation runs (R193). -/
def microFetch (s : State) (n : NodeId) : Option (Letter × Except DecErr Instr) :=
  match (s.node n).seqr with
  | some q => if q.started then some (q.letter, decodeA .bespoke 0 (microWord s n q)) else none
  | none => none

/-- After a micro-operation: the next position, and no start before the next cycle (R193, R194). -/
def microAdvance (s : State) (n : NodeId) : State :=
  let f (q : Seqr) : Seqr :=
    { q with upc := q.next.getD (q.upc + 1), next := none, started := false, readyAt := s.cycle + slow s n 1 }
  s.setNode n { s.node n with seqr := (s.node n).seqr.map f }

/-! ### Armature cores (R91, R189) -/

/-- What a core's next position gives. -/
inductive CoreFetch where
  | idle
  | fault (c : Cause)
  | skip
  | run (sw : Word) (i : Instr)

/-- The x-mode predicates meet an S-word's guard (R91). DESIGN CHOICE (log 40): R91 asks for `PV` bits of 0 outside `PM` and
names no fault for others; they are ignored. -/
def guardHolds (k : Core) (sw : Word) : Bool :=
  (List.finRange 8).all fun j => !tPM sw j.val || k.p[j] == tPV sw j.val

/-- Fetches a core's next position from the context's handler image (R91, R189, R364, R382). DESIGN CHOICE (log 40): R91 asks for an
`OFF` of 0 where `BR` is 0 and names no fault for another; it is ignored. -/
def coreFetch (s : State) (c : Nat) : State × CoreFetch :=
  let k := s.core c
  match k.serving with
  | none => (s, .idle)
  | some id =>
    let cx := s.ctx (s.trap id).ctx
    if cx.hndlen ≤ k.pos then (s, .fault .windowBounds)
    else
      match readCtx s (s.trap id).ctx (cx.hndbase + 8 * k.pos) 8 with
      | (s, .error e) => (s, .fault e)
      | (s, .ok bs) =>
        let sw := wordOfBytes (bs.take 4)
        if !tV sw || !guardHolds k sw then (s, .skip)
        else
          match decodeA .core k.tact (wordOfBytes (bs.drop 4)) with
          | .error e => (s, .fault e.cause)
          | .ok i => (s, .run sw i)

/-- A position as an offset from another; one below 0 lies outside every image. -/
def posAt (p : Nat) (off : Int) : Nat := if (p : Int) + off < 0 then 2 ^ 32 else ((p : Int) + off).toNat

/-- After an instruction of a handler: the next position is the branch of the S-word, else the position that
LNK or JMPR chose, else the next (R91, R189). A handler that has ended is left alone. -/
def coreAdvance (s : State) (c : Nat) (id : Option Nat) (sw : Word) : State :=
  s.updCore c fun k =>
    if k.wait then { k with wait := false }
    else if k.serving = id ∧ id ≠ none then
      { k with pos := if sBR sw then posAt k.pos (sOFF sw) else match k.branch with
                 | some p => if p < 0 then 2 ^ 32 else p.toNat
                 | none => k.pos + 1
               branch := none }
    else k

/-- A core skips its position (R91). -/
def coreSkip (s : State) (c : Nat) : State := s.updCore c fun k => { k with pos := k.pos + 1 }

/-! ### Events -/

/-- The node an event concerns, whose island must run for it to happen (R424). -/
def eventNode : Instr → Option NodeId
  | .tokenArrival n _ _ | .cvConversion n _ _ | .markTimeout n _ _ => some n
  | .lazyRequest n _ _ _ | .outPortSend n _ _ | .writeBack n _ _ => some n
  | .microOperationStart n | .copyStart n | .copyComplete n | .promiseMissed n | .streamOperationEnd n
  | .collectiveResult n _ => some n
  | .autoEosForward n _ | .markAction n _ | .poisonForward n _ | .planeParity n _ => some n
  | .spillWrite n _ _ | .spillStall n _ _ => some n
  | .planeLoadComplete p _ | .laneDistribute p _ _ | .tileComplete p _ | .drainComplete p _
  | .edgeLoadComplete p _ _ | .metadataLoadComplete p _ | .cmprComplete p _ | .scratchpadZeroing p => some (.panel p 0)
  | _ => none

/-- The islands of the units that an event concerns beside a node: they must run for it to happen (R424). -/
def eventIslands (s : State) : Instr → List Nat
  | .accessPerform id _ =>
    let a := mget s.accs id
    islandOf a.node :: (match a.space with
      | .slice => [islandOf (.mg ((a.home - 2 ^ 55) / 2 ^ 40) ((a.home - 2 ^ 55) / 2 ^ 28 % 4096) 0)]
      | .device => [22]
      | _ => [])
  | .translationAnswer id | .ltSerialisation id | .layerUnitLoad id => [islandOf (mget s.accs id).node]
  | .windowRelease i | .exchangeSwap i | .nbarRelease i _ | .nredDelivery i _ | .replayHold i | .replayDivergence i =>
    [islandOf (.panel (s.inst i).origin 0)]
  | .rltMarkEmerge _ n => [islandOf n]
  | .pressAccept die | .pressComplete die | .pressFail die => [16 + die % 4]
  | .sliceBankZeroing lvl sw _ => [islandOf (.mg lvl sw 0)]
  | .trapDelivery core | .tstep core _ => [islandOf (.panel (corePanel core) 0)]
  | .outgoingLetterSave p | .panelExchange p => [islandOf (.panel p 0)]
  | .nopPacket _ | .launch _ | .barrier _ | .copy _ | .signal _ | .pattern _ | .spawned _ | .packetSkip _ | .barrierPeriodicEvaluation
  | .barrierTimeout _ | .copyPacketComplete _ | .completionAdd _ => [20]
  | _ => []

/-- Whether the node an event concerns exists. -/
def eventExists (i : Instr) : Bool := match eventNode i with
  | some n => nodeExists n
  | none => true

/-- Whether the island of the node, and those of the other units, that an event concerns run (R423, R424). -/
def eventPowered (s : State) (i : Instr) : Bool :=
  (match eventNode i with
    | some n => powered s n
    | none => true) && (eventIslands s i).all (islandRuns s)

/-- Whether an instruction is a word and not an event: only events have opcode 0 beside ADD. -/
def isWord : Instr → Bool
  | .add .. => true
  | i => encodeNat i != 0

/-! ### Placing a word where it runs next -/

/-- The T-word of an unguarded valid slot (R89, R91). -/
def plainT : Word := 0x80000000

/-- Every island at point 7. -/
def allOn : Map Nat Nat := (List.range 24).map fun k => (k, 15)

/-- The node a kind of unit is shown on by `placeWord`. -/
def showNode : NodeKind → NodeId
  | .mp => .panel 0 64
  | .nt => .panel 0 71
  | .mxa => .panel 0 70
  | .pc => .pc 0 0
  | _ => .panel 0 0

/-- A word placed in slot 0 of an active plane. -/
def placeSlot (s : State) (n : NodeId) (tw aw : Word) : State :=
  let s := s.setNode n { s.node n with lastIssue := none, engine := none }
  let s := s.updPlane n .a fun p =>
    { p with slots := p.slots.set 0 (tw, aw), active := true, halted := false, stop := .run, frozen := false,
             budget := none, replay := none, parity := none }
  let s := s.updPlane n .b fun p => { p with active := false }
  { s with turns := [.issue n] }

/-- A micro-word placed at the position of a started sequencer, with its invoking operation in flight. -/
def placeMicro (s : State) (aw : Word) : State :=
  let n := NodeId.panel 0 0
  let s := s.updSide 0 .a fun v => { v with micro := mset v.micro 0 aw }
  let o : Op := { id := 0, kind := .bsp, ready := false }
  let s := s.updPlane n .a fun p => { p with ops := [o] }
  let s := s.setNode n { s.node n with seqr := some { letter := .a, op := 0, start := 0, len := 64, upc := 0, count := 1, started := true } }
  { s with turns := [.micro n] }

/-- An instruction placed at position 0 of a handler that core 0 runs, in an identity-mapped page. -/
def placeCore (s : State) (sw aw : Word) : State :=
  let m := memPutDouble s.mem 0x1000 (0x2000 + 1)
  let m := memPutDouble m 0x2000 (0x3000 + 1)
  let m := memPutDouble m 0x3000 (1 + 2 + 32)
  let m := memPutWord (memPutWord m 0x10000 sw) 0x10004 aw
  { s with
    mem := m
    dev := { s.dev with irmap := [(0, (2 ^ 63 + 2 ^ 22, 1))] }
    ctxs := mset s.ctxs 0 { s.ctx 0 with ptroot := 0x1001, hndbase := 0x10000, hndlen := 1 }
    traps := mset s.traps 0 {}
    cores := mset s.cores 0 { s.core 0 with serving := some 0, pos := 0 }
    turns := [.core 0] }

/-- A table row's word stored where the next step fetches: in the unit of the first kind that accepts it. -/
def placeWord (s : State) (nbits w : Nat) : State :=
  let s := { s with dev := { s.dev with islands := allOn } }
  let aw := tableAWord nbits w
  let tw := if nbits ≤ 32 then plainT else BitVec.ofNat 32 w
  match decodeFirst aw allKinds with
  | some (.bespoke, _) => placeMicro s aw
  | some (.core, _) => placeCore s tw aw
  | some (k, _) => placeSlot s (showNode k) tw aw
  | none => placeSlot s (.panel 0 0) tw aw

end Sys2Proof.Machine
end

