-- ==== Sys2Proof/Machine/Barriers.lean ====
section
/-! DEFINITION. NBAR and NRED on the narrow tree (R114, R250). -/

namespace Sys2Proof.Machine
open Sys2Proof

/-- The code of a reduction, with its format, as an operation keeps them. -/
def nredArg (f : Fmt) (r : Red) : Nat := f.code * 4 + (match r with
  | .sum => 0
  | .max => 1
  | .min => 2)

/-- The reduction of a code. -/
def redOfArg (a : Nat) : Red :=
  match a % 4 with
  | 0 => .sum
  | 1 => .max
  | _ => .min

/-- NBAR (R250). -/
def execNbar (d : Dst) (grp : BitVec 4) (s : State) : Res :=
  .next (launch s 1 d [] none (fun o => { o with kind := .nbar grp.toNat, ready := false }) fun _ t =>
    impreciseAt t (actNode s) (actLetter s))

/-- NRED (R250): its operand is a DATA token of fmt. -/
def execNred (f : Fmt) (r : Red) (d : Dst) (a : Src) (grp : BitVec 4) (s : State) : Res :=
  let x := readSrc s f a
  .next (launch s 1 d [a] (checkOpds f [(x, .same)])
    (fun o => { o with kind := .nred grp.toNat, ready := false, arg := nredArg f r, fold := x.tok.payload, total := x.tok.s.toNat })
    fun _ t => impreciseAt t (actNode s) (actLetter s))

/-- `GRPEN` bit of a group at a panel's nt plane (R114). -/
def inGroup (p : Plane) (g : Nat) : Bool := bitOf (p.ext.getD 0 0).toNat g

/-- The participants of a group: panels of the instance in index order, with the letter of their nt plane (R250). -/
def groupPanels (s : State) (i g : Nat) : List (Nat × Letter) :=
  (panelsOf (s.inst i)).flatMap fun p =>
    [Letter.a, Letter.b].filterMap fun l =>
      let q := s.plane (.panel p 71) l
      if q.active && decide (q.inst = i) && inGroup q g then some (p, l) else none

/-- The oldest operation of a kind that waits at a panel's nt. -/
def waitingOp (s : State) (p : Nat) (l : Letter) (k : OpKind) : Option Op :=
  (s.plane (.panel p 71) l).ops.find? fun o => o.kind == k && !o.ready

/-- Whether an operation of a memory port is a store, atomic, STV, SCT or DSC, or may be one (R250). -/
def storesOp (o : Op) : Bool :=
  match decodeA .mp 0 o.aw with
  | .ok i => !isLoad i && o.kind == .access
  | .error _ => false

/-- Whether what a panel's memory ports and copy node issued in or before a cycle has performed (R250). -/
def panelQuiet (s : State) (p at_ : Nat) : Bool :=
  let old (q : Plane) : Bool := q.ops.any fun o => decide (o.issued ≤ at_) && storesOp o && !o.ready
  ([64, 65, 66, 67].all fun a => !old (s.plane (.panel p a) .a) && !old (s.plane (.panel p a) .b))
    && [Letter.a, Letter.b].all fun l => (s.plane (.panel p 68) l).copies.all fun j => decide (at_ < j.issued)

/-- The panels that have arrived by now, with the cycle in which each was seen to; a store that issues later in the cycle of its
NBAR or NRED takes the arrival back (R250). -/
def arrivals (s : State) (k : OpKind) (ps : List (Nat × Letter)) (old : List (Nat × Nat)) : List (Nat × Nat) :=
  ps.filterMap fun e => match waitingOp s e.1 e.2 k with
    | some o => if panelQuiet s e.1 o.issued then some ((old.find? fun x => x.1 == e.1).getD (e.1, s.cycle)) else none
    | none => none

/-- An arrival count as it now stands: with its release once all have arrived. -/
def gatherNow (s : State) (k : OpKind) (ps : List (Nat × Letter)) (delay : Nat) (g : Gather) : Gather :=
  let xs := arrivals s k ps g.arrived
  let due := (xs.map (·.2)).foldl max 0 + delay
  { g with arrived := xs, release := if ps.isEmpty || decide (xs.length ≠ ps.length) then none else some due }

/-- Delivers a token to the waiting operation of each participant. -/
def releaseAll (s : State) (k : OpKind) (t : Token) : List (Nat × Letter) → State
  | [] => s
  | e :: es =>
    match waitingOp s e.1 e.2 k with
    | some o => releaseAll (s.updOp (.panel e.1 71) e.2 o.id fun o => { o with ready := true, toks := [t], due := s.cycle }) k t es
    | none => releaseAll s k t es

/-- NBAR_RELEASE (R250): arrivals are noted; in the release cycle every d receives the count. -/
def execNbarRelease (i grp : Nat) (s : State) : Res :=
  .next (
    let k := OpKind.nbar grp
    let ps := groupPanels s i grp
    let v := s.inst i
    let g := gatherNow s k ps (barrierDelay s v 0) (mget v.nbars grp)
    match g.release with
    | some r =>
      if r ≤ s.cycle then
        releaseAll (s.updInst i fun v => { v with nbars := mset v.nbars grp { gen := g.gen + 1 } }) k
          { payload := BitVec.ofNat 32 g.gen } ps
      else s.updInst i fun v => { v with nbars := mset v.nbars grp g }
    | none => if (mget? s.insts i).isSome then s.updInst i fun v => { v with nbars := mset v.nbars grp g } else s)

/-! ### NRED -/

/-- The operations that wait for a reduction, in panel order. -/
def nredOps (s : State) (k : OpKind) (ps : List (Nat × Letter)) : List Op := ps.filterMap fun e => waitingOp s e.1 e.2 k

/-- A lane reduced over the participants in panel order, in F32 (R250). -/
def reduceLane (r : Red) : List Word → Word
  | [] => 0
  | x :: t => t.foldl (fun a y => (combine r a y).1) x

/-- A W32 reduction (R250): sums wrap, maxima and minima are signed. -/
def reduceW32 (r : Red) : List Word → Word
  | [] => 0
  | x :: t => t.foldl (fun a y => match r with
      | .sum => a + y
      | .max => if a.toInt < y.toInt then y else a
      | .min => if y.toInt < a.toInt then y else a) x

/-- The result of a reduction of payloads in a format (R250). -/
def reduceAll (f : Fmt) (r : Red) (xs : List Word) : Word :=
  if f == .w32 then reduceW32 r xs
  else packLanes f ((List.range f.lanes).map fun j =>
    (narrow f (reduceLane r (xs.map fun x => widen f (BitVec.ofNat 32 (lane f x j))))).1.toNat)

/-- Faults COLLECTIVE_MISMATCH at each participant (R250). -/
def mismatchAll (s : State) (k : OpKind) : List (Nat × Letter) → State
  | [] => s
  | e :: es =>
    match waitingOp s e.1 e.2 k with
    | some o => mismatchAll (opFault s (.panel e.1 71) e.2 o.id .collectiveMismatch) k es
    | none => mismatchAll s k es

/-- NRED_DELIVERY (R250): 12 + 4·L cycles after the last arrival. -/
def execNredDelivery (i grp : Nat) (s : State) : Res :=
  .next (
    let k := OpKind.nred grp
    let ps := groupPanels s i grp
    let v := s.inst i
    let g := gatherNow s k ps (barrierDelay s v 4) (mget v.nreds grp)
    match g.release with
    | some r =>
      if r ≤ s.cycle then
        let os := nredOps s k ps
        let a := (os.headD {}).arg
        let sb := (os.headD {}).total
        let s := s.updInst i fun v => { v with nreds := mset v.nreds grp { gen := g.gen + 1 } }
        if os.any fun o => o.arg != a || o.total != sb then mismatchAll s k ps
        else
          let f := Fmt.ofCode (a / 4)
          releaseAll s k { fmt := f, s := decide (sb = 1), payload := reduceAll f (redOfArg a) (os.map fun o => o.fold) } ps
      else s.updInst i fun v => { v with nreds := mset v.nreds grp g }
    | none => if (mget? s.insts i).isSome then s.updInst i fun v => { v with nreds := mset v.nreds grp g } else s)

end Sys2Proof.Machine
end

