-- ==== Sys2Proof/Machine/Bespoke.lean ====
section
/-! DEFINITION. The bespoke mechanism: BSP00 to BSP31, the sequencer and group 0xD (R118 to R121, R192 to R195). -/

namespace Sys2Proof.Machine
open Sys2Proof

/-- The header word h3 of an invocation (R120). -/
def bspInfo (f : Fmt) (sat : Bool) : Token := { payload := BitVec.ofNat 32 (f.code + sat.toNat * 8) }

/-- The sequencer at the start of an invocation (R120, R193). -/
def startSeq (s : State) (n : NodeId) (l : Letter) (o : Op) (b : Word) (xs : List Token) (u : List Nat × List Nat × List Nat × List Nat) : Seqr :=
  let p := s.plane n l
  { letter := l, op := o.id, start := field b.toNat 8 0, len := field b.toNat 15 9, readyAt := s.cycle + slow s n 1
    h := Vector.ofFn fun k => { xs.getD k.val {} with l := false }
    g := p.g, p := p.p, gw := u.2.1, pw := u.2.2.2, args := xs }

/-- An operand of a BSP: the token read at the issue of a firing that a handler has continued, unless the source consumes a head,
where the same token stands again (R195, R371). -/
def bspOpd (s : State) (f : Fmt) (j : Nat) (a : Src) : Opd :=
  let x := readSrc s f a
  match s.cur, srcPort a with
  | .slot n l k, none => match (s.plane n l).bspArgs with
    | some (q, ts) => if q = k then { x with tok := ts.getD j x.tok } else x
    | none => x
  | _, _ => x

/-- BSPnn (R120, R192, R195): the three tokens, the reservation of d and of every g and p that the sequence writes, and
the sequencer started. -/
def execBsp (nn : Fin 32) (f : Fmt) (d : Dst) (a b c : Src) (sat : Bool) (s : State) : Res :=
  let x := bspOpd s f 0 a
  let y := bspOpd s f 1 b
  let z := bspOpd s f 2 c
  let n := actNode s
  let l := actLetter s
  let w := mget (s.side (panelOf s n l) l).bind nn.val
  let chk := (checkOpds f [(x, .any), (y, .any), (z, .any)]).or (if bitOf w.toNat 31 then none else some .bespokeUnbound)
  let u := mget (s.side (panelOf s n l) l).uses nn.val
  .next (launch s 1 d [a, b, c] chk
    (fun o => { o with kind := .bsp, ready := false, gmask := pendRegs d u.2.1, pmask := pendMask d o.tw u.2.2.2 })
    fun o t =>
      let t := t.updPlane n l fun p => { p with bspArgs := none }
      t.setNode n { t.node n with seqr := some (startSeq t n l o w [x.tok, y.tok, z.tok, bspInfo f sat] u) })

/-- The sources of a micro-word are available in a cycle (R18, R193). -/
def microReady (s : State) (n : NodeId) (q : Seqr) : Bool :=
  let at_ (m : Map Nat Nat) (k : Nat) : Bool := decide ((mget? m k).getD 0 ≤ s.cycle)
  let w := mget (s.side (panelOf s n q.letter) q.letter).micro (q.start + q.upc)
  match decodeA .bespoke 0 w with
  | .error _ => true
  | .ok i =>
    ((srcsOf i).all fun x => match x with
      | .g k => at_ q.busyG k.val
      | .t k => at_ q.busyH k.val
      | _ => true)
    && (match i with
      | .plog _ a b _ => at_ q.busyP a.val && at_ q.busyP b.val
      | .pmov _ a => at_ q.busyP a.val
      | .frcp .. | .frsq .. | .fsqrt .. | .fex2 .. | .flg2 .. | .ftnh .. => decide ((s.node n).trans ≤ s.cycle) && !transHeld (s.node n)
      | _ => true)

/-- Whether the invoking operation has had its MEND. -/
def mended (s : State) (n : NodeId) (q : Seqr) : Bool :=
  match s.op? n q.letter q.op with
  | some o => o.ready
  | none => true

/-- A value fault of an earlier micro-operation whose write-back has come: it is taken at that operation's position (R135, R195). -/
def lateFault (s : State) (n : NodeId) : Option State :=
  match (s.node n).seqr with
  | none => none
  | some q => (q.late.find? fun e => decide (e.2.1 ≤ s.cycle)).map fun e =>
      bspFault (s.setNode n { s.node n with seqr := some { q with upc := e.2.2 } }) n e.1

/-- MICRO_OPERATION_START (R193): a value fault whose time has come is taken; else the next micro-operation may run, and the 257th
faults BESPOKE_LIMIT (R194). -/
def execMicroOperationStart (n : NodeId) (s : State) : Res :=
  match (s.node n).seqr with
  | none => .next s
  | some q =>
    if q.late.any fun e => decide (e.2.1 ≤ s.cycle) then .next ((lateFault s n).getD s)
    else if q.started || mended s n q || !(decide (q.readyAt ≤ s.cycle) && microReady s n q) then .next s
    else if 256 ≤ q.count then .next (bspFault s n .bespokeLimit)
    else .next (s.setNode n { s.node n with seqr := some { q with started := true, count := q.count + 1 } })

/-- Changes the acting sequencer. -/
def updSeqr (s : State) (f : Seqr → Seqr) : State :=
  match s.cur with
  | .micro n _ => s.setNode n { s.node n with seqr := (s.node n).seqr.map f }
  | _ => s

/-- A branch of the acting sequencer from its own position (R194). -/
def microJump (off : BitVec 11) (q : Seqr) : Seqr := { q with next := some ((q.upc : Int) + off.toInt).toNat }

/-- MBR (R194). -/
def execMbr (a : Src) (off : BitVec 11) (s : State) : Res :=
  let x := readSrc s .w32 a
  .next (match checkOpds .w32 [(x, .raw)] with
    | some e => raise s e []
    | none => if x.tok.payload = 0 then s else updSeqr s (microJump off))

/-- MLP (R194). -/
def execMlp (h : Fin 8) (off : BitVec 11) (s : State) : Res :=
  let x := readSrc s .w32 (.t h)
  let v := x.tok.payload - 1
  .next (match checkOpds .w32 [(x, .raw)] with
    | some e => raise s e []
    | none =>
      let r := updSeqr s fun q => writeMicro q (.t h) { x.tok with payload := v } (s.cycle + slow s (actNode s) 1)
      if v = 0 then r else updSeqr r (microJump off))

/-- MEND (R194): the result is ready; the write-back one cycle later applies it and the sequence's writes. -/
def execMend (a : Src) (s : State) : Res :=
  let x := readSrc s .w32 a
  .next (match checkOpds .w32 [(x, .any)] with
    | some e => raise s e []
    | none => match s.cur with
      | .micro n _ => match (s.node n).seqr with
        | some q => s.updOp n q.letter q.op fun o =>
            { o with toks := [{ x.tok with l := false }], ready := true, due := s.cycle + slow s n 1 }
        | none => s
      | _ => s)

end Sys2Proof.Machine
end

