-- ==== Sys2Proof/Machine/Calls.lean ====
section
/-! DEFINITION. Calls (R181 to R185, R338 to R340, R346 to R361): CALL, CALLB, RET, SPWN, SPWNT, PLT, CSTO, CSTI, and the
events of placement: searches, members placed, wait bounds, casts, spills and resumptions. -/

namespace Sys2Proof.Machine
open Sys2Proof

/-! ### CALL and CALLB (R181, R182, R339, R357 to R359) -/

/-- Whether the ports that a call site describes may be wired to the calling stitch (R339). -/
def portsFree (s : State) (n : NodeId) (l : Letter) (ms : List (List Pair)) : Bool :=
  ms.flatten.all fun q => if q.result then !(s.plane n l).ins[Fin.ofNat 4 q.kport].fed else !outWired s n l (Fin.ofNat 4 q.kport)

/-- Whether a callee's result ports are unwired in its image (R339). -/
def resultsFree (p : Pattern) (ms : List (List Pair)) : Bool :=
  ms.flatten.all fun q => !q.result || !rwWired ((recWords (panelRec p 0 0) (60 + q.cport / 4) false).getD (36 + q.cport % 4) 0)

/-- The members a call site describes; none if the site does not serve a call of `n` members (R182 check 2). -/
def siteMembers (v : Inst) (pat site n : Nat) : Option (List (List Pair)) :=
  match v.pat.sites[site]? with
  | none => none
  | some d => if d.cpid = pat ∧ n ≤ d.members.length then some d.members else none

/-- The call site's members and the runs it reserves, or the cause CALL and CALLB raise at issue, in the order of R182. -/
def callCheck (s : State) (pat site n : Nat) : Except Cause (Pattern × List (Nat × Nat × Nat)) :=
  let v := s.inst (actInst s)
  let cn := actNode s
  let cl := actLetter s
  match mget? (s.ctx v.ctx).pats pat with
  | none => .error .patternAbsent
  | some p =>
    match siteMembers v pat site n with
    | none => .error .callsiteInvalid
    | some ms =>
      if p.level ≠ 0 || !portsFree s cn cl ms || !resultsFree p ms then .error .callsiteInvalid
      else if 64 < v.depth + 1 then .error .callDepth
      else match argRuns (takenEntries s (panelOf s cn cl) cl) ms [0, 1, 2, 3] with
        | none => .error .callsiteInvalid
        | some r => .ok (p, r)

/-- The requests of a bundle's members, in member order (R357). -/
def memberReqs (s : State) (b : Nat) (r : Req) : Nat → List (Nat × Req)
  | 0 => []
  | m + 1 => memberReqs s b r m ++ [(s.ids + m, { r with for_ := .member b m })]

/-- Issues a call past its checks: its `PE` update goes ahead of it (R358), and its members' requests are made. -/
def startCall (p : Pattern) (runs : List (Nat × Nat × Nat)) (site n : Nat) (o : Op) (s : State) : State :=
  let cn := actNode s
  let cl := actLetter s
  let i := instOf s cn cl
  let s := if tPE o.tw then s.fresh.pushOp cn cl (peOp s cn o) else s
  let b := s.ids
  let c := (s.inst i).ctx
  let v : Bundle := { ctx := c, caller := i, node := cn, letter := cl, op := o.id, pat := p, site := site, issued := s.cycle,
                      members := List.replicate n .waiting, runs := runs }
  let s := { s.fresh with bundles := mset s.bundles b v }
  let s := s.updOp cn cl o.id fun q => { q with kind := .call b }
  let r : Req := { ctx := c, pat := p, anchor := panelOf s cn cl, age := s.cycle, tiePanel := panelOf s cn cl,
                   tieNode := nodeAddr cn,
                   at_ := s.cycle + cutTime s 1 (panelOf s cn cl) 8 + cutTime s 1 (panelOf s cn cl) 16, letter := newLetter s c }
  impreciseAt { s with reqs := s.reqs ++ memberReqs s b r n, ids := s.ids + n } cn cl

/-- CALL and CALLB. -/
def callInstr (d : Dst) (pat site n : Nat) (s : State) : State :=
  match callCheck s pat site n with
  | .error e => raise s e []
  | .ok (p, runs) =>
    launch s 1 d [] none (fun o => { o with kind := .call 0, ready := false, pmask := pendMask d 0 [] })
      fun o t => startCall p runs site n o t

/-- CALL (R181). -/
def execCall (d : Dst) (site : BitVec 4) (pat : BitVec 12) (s : State) : Res := .next (callInstr d pat.toNat site.toNat 1 s)

/-- CALLB (R181): `n` holds the number of members less 1. -/
def execCallb (d : Dst) (n : BitVec 3) (site : BitVec 4) (pat : BitVec 12) (s : State) : Res :=
  .next (callInstr d pat.toNat site.toNat (n.toNat + 1) s)

/-- RET (R183): a callee ends; in a launched instance it faults. -/
def execRet (s : State) : Res :=
  let i := actInst s
  .next (if (s.inst i).caller = 0 then raise s .retWithoutCall [] else releaseInst s i)

/-! ### The end of a call (R181, R348, R355, R359) -/

/-- The instance of a member, 0 while it waits. -/
def memberInst : MemberSt → Nat
  | .waiting => 0
  | .placed i => i
  | .pleated i => i
  | .cast i => i
  | .ended i _ _ => i

/-- Whether a member is the live instance `i`: the id of one that has ended may be another's by now (R183). -/
def memberIs (i : Nat) : MemberSt → Bool
  | .placed j => j == i
  | .pleated j => j == i
  | .cast j => j == i
  | _ => false

/-- Whether a member is pleated, or was as it ended. -/
def isPleated : MemberSt → Bool
  | .pleated _ => true
  | .ended _ pl _ => pl
  | _ => false

/-- Whether a member is cast, or was as it ended. -/
def isCast : MemberSt → Bool
  | .cast _ => true
  | .ended _ _ ca => ca
  | _ => false

/-- The call token (R181). -/
def callToken (ms : List MemberSt) : Token :=
  { payload := BitVec.ofNat 32 ((ms.map memberInst).headD 0 % 2 ^ 24 + (ms.filter isPleated).length * 2 ^ 24
      + (ms.filter isCast).length * 2 ^ 28) }

/-- Marks an operation's result as ready one cycle on. -/
def giveToken (s : State) (n : NodeId) (l : Letter) (op : Nat) (t : Token) : State :=
  s.updOp n l op fun o => { o with toks := [t], ready := true, due := s.cycle + slow s n 1 }

/-- CALL_TOKEN (R181, R356): the call is over once no member waits. -/
def callDone (s : State) (b : Nat) : State :=
  let v := mget s.bundles b
  if v.members.contains .waiting then s
  else
    giveToken ({ s with bundles := mdel s.bundles b }.updInst v.caller fun x => { x with progress := s.cycle }) v.node v.letter v.op
      (callToken v.members)

/-- Sets the state of a bundle's member. -/
def setMember (s : State) (b m : Nat) (x : MemberSt) : State :=
  { s with bundles := mupd s.bundles b fun v => { v with members := v.members.set m x } }

/-- A call faults against its slot (R348, R359): its waiting members are dropped, those placed stay live, and d receives
no token. -/
def faultCall (s : State) (b : Nat) (c : Cause) : State :=
  let v := mget s.bundles b
  let s := dropReqs s fun r => match r.for_ with
    | .member k _ => decide (k = b)
    | .launch _ => false
  opFault { s with bundles := mdel s.bundles b } v.node v.letter v.op c

/-! ### Cast units and spill segments (R286, R350, R353) -/

/-- The lowest run of `n` free cast units (R350). -/
def freeUnits (x : Ctx) (n : Nat) : Option Nat :=
  (List.range (x.castunits + 1 - n)).find? fun u => (List.range n).all fun j => !x.castUsed.contains (u + j)

/-- The distance between two level-4 switches. -/
def switchDist (a b : Nat) : Nat := (max (a % 8) (b % 8) - min (a % 8) (b % 8)) + (max (a / 8) (b / 8) - min (a / 8) (b / 8))

/-- The lowest free segment of a level-4 bank (R286). -/
def segOf (s : State) (sw : Nat) : Option Nat :=
  (List.range 16).find? fun k => !(s.insts.any fun e => e.2.spillSeg == some (sw, k))

/-- The spill segment for a producer's panel: of the bank above it, or the nearest bank with a free one (R353). -/
def findSeg (s : State) (p : Nat) : Option (Nat × Nat) :=
  match nearest (fun w => switchDist (switchOf 4 p) w) ((List.range 64).filter fun w => (segOf s w).isSome) with
  | none => none
  | some w => (segOf s w).map fun k => (w, k)

/-- The panel of the first producer of the seams into an instance: its caller's, without one. -/
def producerPanel (s : State) (i : Nat) : Nat :=
  match (s.insts.flatMap fun e => e.2.wires).find? fun w => (if w.result then w.caller else w.callee) == i with
  | some w => w.panel
  | none => (s.inst (s.inst i).caller).origin

/-- The time of a cast (R351, R423). -/
def castTime (s : State) (v : Inst) : Nat := slow s (.panel v.origin 0) (2048 + 3072 * (v.pat.fw * v.pat.fh))

/-- Gives back an instance's cast units (R351, R355). -/
def freeCastUnits (s : State) (i : Nat) : State :=
  let v := s.inst i
  match v.castUnit with
  | none => s
  | some u =>
    (s.updCtx v.ctx fun x => { x with castUsed := x.castUsed.filter fun k => !(decide (u ≤ k) && decide (k < u + v.pat.fw * v.pat.fh)) }).updInst i
      fun v => { v with castUnit := none }

/-- Reserves an instance's units and segment and starts to write it; none when it cannot be cast (R350, R351, R354, R377). One whose
last spill has still to drain gives its old units back and keeps its segment. -/
def castBegin (s : State) (i : Nat) : Option State :=
  let v := s.inst i
  let n := v.pat.fw * v.pat.fh
  let s := freeCastUnits s i
  if v.pat.tnodes ≠ [] then none
  else match freeUnits (s.ctx v.ctx) n, v.spillSeg.or (findSeg s (producerPanel s i)) with
    | some u, some g =>
      let s := s.updCtx v.ctx fun x => { x with castUsed := x.castUsed ++ (List.range n).map (· + u) }
      some (s.updInst i fun v => { v with st := .casting (s.cycle + castTime s v), castUnit := some u, spillSeg := some g })
    | _, _ => none

/-- Whether a token out of an instance's spill segment has still to enter an in-port (R355). -/
def spillLeft (s : State) (i : Nat) : Bool :=
  let f (p : Plane) : Bool := p.inst == i && (List.finRange 4).any fun k =>
    (p.ins[k].lane ++ p.ins[k].buf.toList ++ p.ins[k].cv.toList).any (·.seg)
  s.nodes.any fun e => f e.2.pa || f e.2.pb

/-- The units and segment of a resumed instance are released when its spill has drained (R355). -/
def releaseSpill (s : State) (i : Nat) : State :=
  let v := s.inst i
  if v.st == .live && (v.castUnit.isSome || v.spillSeg.isSome) && !spillLeft s i then
    (freeCastUnits s i).updInst i fun v => { v with spillSeg := none, spill := 0 }
  else s

/-- The VA of an instance's cast units. -/
def castVa (s : State) (i : Nat) : Nat :=
  let v := s.inst i
  (s.ctx v.ctx).castbase + unitSize * v.castUnit.getD 0

/-- Whether a token on a lane comes from a node of an instance. -/
def sentBy (s : State) (i : Nat) (f : Flight) : Bool :=
  match f.from_ with
  | some (n, l) => instOf s n l == i
  | none => false

/-- Tokens on the lanes of a plane that come from outside its instance, as spill entries in their order (R353). -/
def laneSpill (s : State) (i : Nat) (x : SavedPlane) : List (Nat × Token) :=
  match x.node with
  | .panel p a => (List.finRange 4).flatMap fun k =>
      let q := x.plane.ins[k]
      ((q.buf.toList ++ q.lane).filter fun f => !sentBy s i f).map fun f => (panelOff (s.inst i).origin p * 512 + a * 4 + k.val, f.tok)
  | _ => []

/-- A saved plane without the lane tokens that went to the spill. -/
def noLanes (s : State) (i : Nat) (x : SavedPlane) : SavedPlane :=
  let own (f : Flight) : Bool := sentBy s i f
  { x with plane := { x.plane with ins := Vector.ofFn fun k =>
      { x.plane.ins[k] with lane := x.plane.ins[k].lane.filter own, buf := x.plane.ins[k].buf.filter own } } }

/-- A member of a bundle, by instance. -/
def memberOf (s : State) (i : Nat) : Option (Nat × Nat) :=
  s.bundles.findSome? fun e => (e.2.members.zipIdx.find? fun m => memberIs i m.1).map fun m => (e.1, m.2)

/-- An instance's bundle learns where it now stands (R181, R346). -/
def tellBundle (s : State) (i : Nat) (x : MemberSt) : State :=
  match memberOf s i with
  | some (b, m) => setMember s b m x
  | none => s

/-- An instance has left its area for its units (R351). -/
def castLeave (s : State) (i : Nat) : State :=
  let s := keepInst s i
  let sp := (s.inst i).saved.flatMap (laneSpill s i)
  let ps := (s.inst i).saved.map (noLanes s i)
  let s := spillSet (s.updInst i fun v => { v with saved := ps, st := .cast, cut := .none, pleated := false }) i sp
  tellBundle (clearInst s i) i (.cast i)

/-- The slot that a cut is for, and faults raised against it: the PLT or CSTO slot, or the CALLB of the instance's bundle
(R351). -/
def cutSlot (s : State) (i : Nat) : Option (NodeId × Letter × Nat) :=
  match (s.inst i).cut with
  | .castBy n l op => some (n, l, op)
  | .pleatBy n l op => some (n, l, op)
  | _ => (memberOf s i).map fun e => let b := mget s.bundles e.1; (b.node, b.letter, b.op)

/-- The status that PLT, CSTO and CSTI deliver (R185). -/
def moveStatus (v : Nat) : Token := { payload := BitVec.ofNat 32 v }

/-- A cut ends for the slot that asked for it, with a status. -/
def cutAnswer (s : State) (i v : Nat) : State :=
  match (s.inst i).cut with
  | .castBy n l op => giveToken s n l op (moveStatus v)
  | .pleatBy n l op => giveToken s n l op (moveStatus v)
  | _ => s

/-! ### Pleating a started instance (R349) -/

/-- The host an instance of a pattern is pleated onto, nearest to an anchor (R343, R352; log 23). -/
def findHost (s : State) (c : Nat) (p : Pattern) (ws : List Window) (anchor i : Nat) : Option Nat :=
  let js := (s.insts.filter fun e => decide (e.1 ≠ i) && canPleat s c p ws (s.inst i).fresh.isNone e.1).map (·.1)
  nearest (fun j => rectDist anchor (s.inst j).origin p.fw p.fh) js

/-- Copies the scratchpad bytes of an instance's windows between panels, raised by `e` (R349). -/
def moveScratch (ws : List Window) (from_ dest e : Nat) (m : List Host.Cell) : List Host.Cell :=
  (ws.filter fun w => w.described && w.space == .scratch).foldl
    (fun r w => memPut r (homeScratch dest (w.base + e)) (memBytes m (homeScratch from_ w.base) w.len)) m

/-- Copies the scratchpad bytes of every panel of an instance. -/
def moveScratches (ws : List Window) (m : Move) (mem : List Host.Cell) : List Nat → List Host.Cell
  | [] => mem
  | p :: t => moveScratches ws m (moveScratch ws p (m.panel p) m.e mem) t

/-- A started instance that has been cut takes the free letter of a host's gusset, and its plane load begins (R39, R349). -/
def moveBegin (s : State) (i host : Nat) : State :=
  let v := s.inst i
  let h := s.inst host
  let s := holdPanels s h.letter.other (.pleating i) (rectPanels h.origin v.pat.fw v.pat.fh)
  s.updInst i fun v => { v with st := .moving (s.cycle + loadTimeOf s h.origin v.pat) h.origin (pleatBase s host) h.letter.other }

/-- The plane load of a pleat has ended: the instance's state is restored in its new place (R43, R349). -/
def pleatOnto (s : State) (i origin rise : Nat) (l : Letter) : State :=
  let v := s.inst i
  let m : Move := { old := v.origin, new := origin, lm := decide (l ≠ v.letter), e := rise }
  let s := { s with mem := moveScratches v.wins m s.mem (rectPanels v.origin v.pat.fw v.pat.fh) }
  let s := restoreInst (clearInst (keepInst s i) i) m i
  tellBundle (s.updInst i fun v => { v with pleated := true }) i (.pleated i)

/-! ### Resuming a cast instance (R352, R353, R361) -/

/-- Puts the spilled entries of a seam ahead of what stands on its lane (R353); they can be heads from the second cycle on (R258). -/
def unspill (i : Nat) (s : State) (e : Nat × Token) : State :=
  let v := s.inst i
  let o := e.1 / 512
  let n := NodeId.panel (v.origin + o % 16 + 128 * (o / 16)) (e.1 % 512 / 4)
  s.updIn n v.letter (Fin.ofNat 4 e.1) fun q =>
    { q with lane := { tok := { e.2 with l := v.letter.bit }, due := s.cycle + 2, from_ := none, seg := true } :: q.lane }

/-- A cast member that was never placed takes its result wires, slice banks and window region at its first placement (R199, R340,
R348, R359, R367). One whose result runs do not fit is released, and the fault goes to its call, or, that call being over, to the
stitch that made it (log 126). -/
def firstPlaced (s : State) (i rise : Nat) : State :=
  let v := s.inst i
  match v.fresh, v.callAt with
  | some k, some (n, l) =>
    let ws := waysFor s v.ctx v.origin v.pat
    let wins := v.pat.wins.map (bindWindow s v.ctx v.origin rise v.pat)
    let s := (takeWays s v.ctx ws).updInst i fun v => { v with fresh := none, ways := ws, wins := wins }
    let b : Bundle := { ctx := v.ctx, caller := v.caller, node := n, letter := l, site := v.site }
    match wireResults s b i (resultPairs ((callMembers s b).getD v.member [])) with
    | some s => fixRegion s i
    | none =>
      let s := releaseInst s i
      if (mget? s.bundles k).isSome then faultCall s k .callsiteInvalid else headFault s n l .callsiteInvalid
  | _, _ => s

/-- The scratchpad windows of a cast instance's units, raised by `e`, into a panel whose other bytes are its host's (R349). -/
def pleatBytes (s : State) (c : Nat) (ws : List Window) (e base : Nat) : List Nat → State × Except Cause Unit
  | [] => (s, .ok ())
  | p :: t =>
    match readCtx s c base (2 ^ 17) with
    | (s, .error x) => (s, .error x)
    | (s, .ok u) =>
      let put (m : List Host.Cell) (w : Window) : List Host.Cell := memPut m (homeScratch p (w.base + e)) ((u.drop w.base).take w.len)
      pleatBytes { s with mem := (ws.filter fun w => w.described && w.space == .scratch).foldl put s.mem } c ws e (base + unitSize) t

/-- A cast instance's units are read back and it goes on at a place (R43, R352): `pl` says that it enters the other letter of
a held gusset, whose memories, zeroing and node counters are the host's too. -/
def resumeAt (s : State) (i : Nat) (m : Move) (pl : Bool) : State × Except Cause Unit :=
  let v := s.inst i
  let ps := rectPanels v.origin v.pat.fw v.pat.fh
  let qs := rectPanels m.new v.pat.fw v.pat.fh
  let base := castVa s i
  match readUnits (!pl) s v.ctx base m i v.letter ps with
  | (_, .error e) => (s, .error e)
  | (t, .ok ()) =>
    match if pl then pleatBytes t v.ctx v.wins m.e base qs else (t, .ok ()) with
    | (_, .error e) => (s, .error e)
    | (t, .ok ()) =>
      let t := restoreInst t m i
      let t := if pl then t else qs.foldl (fun s p => s.updPanel p fun q => { q with lastCtx := some v.ctx, zero := none }) t
      let t := if pl then t else ps.zipIdx.foldl (fun s e => countsInto s v.ctx (base + unitSize * e.2) (m.panel e.1)) t
      match eccBytes t v.ctx (spillHome v 0) (8 * v.spill) with
      | (_, some e) => (s, .error e)
      | (t, none) =>
        let t := (spillEntries t.mem v).reverse.foldl (unspill i) t
        let t := t.updInst i fun v => { v with spill := 0, pleated := pl, progress := s.cycle }
        let t := tellBundle t i (if pl then .pleated i else .placed i)
        (releaseSpill (firstPlaced t i m.e) i, .ok ())

/-- A cast instance goes on in the free letter of a host's gusset (R349, R352). -/
def resumePleat (s : State) (i host : Nat) : State × Except Cause Unit :=
  let v := s.inst i
  let h := s.inst host
  resumeAt s i { old := v.origin, new := h.origin, lm := decide (h.letter.other ≠ v.letter), e := pleatBase s host } true

/-- Where a cast instance would go on: in free panels, else with a host; the origin, and the host (R352). -/
def castPlace (s : State) (i : Nat) (area : Bool) : Option (Nat × Option Nat) :=
  let v := s.inst i
  match (if area then castRect s v else none) with
  | some o => some (o, none)
  | none => (findHost s v.ctx v.pat v.wins (castAnchor s v) i).map fun h => ((s.inst h).origin, some h)

/-- The slice ways that an instance which was never placed has still to see zeroed for its context (R269). -/
def waysDue (s : State) (v : Inst) (o : Nat) : List (Nat × Nat × Nat) :=
  if v.fresh.isNone then []
  else (waysFor s v.ctx o v.pat).filter fun w =>
    let b := mget s.banks (w.1, w.2.1)
    b.ways[Fin.ofNat 4 w.2.2].zero.isSome || (decide (b.ways[Fin.ofNat 4 w.2.2].users = 0) && othersLast v.ctx b w.2.2)

/-- Whether nothing old has still to happen at the place where a cast instance goes on: copies of ended instances at its panels and
slice banks, or the zeroing of a bank (R269, R307). -/
def castClear (s : State) (i : Nat) (x : Nat × Option Nat) : Bool :=
  let v := s.inst i
  banksIdle s (rectPanels x.1 v.pat.fw v.pat.fh) ((v.wins.filter fun w => w.space == .slice).map fun w => (w.level, w.bank))
    && (waysDue s v x.1).isEmpty

/-- The zeroing of the slice banks that a member cast before its first placement needs begins (R269). -/
def castWays (s : State) (i o : Nat) : State :=
  let v := s.inst i
  let ws := (waysDue s v o).filter fun w => ((mget s.banks (w.1, w.2.1)).ways[Fin.ofNat 4 w.2.2]).zero.isNone
  dropWays (takeWays s v.ctx ws) ws

/-- A cast instance is placed again where there is room, else pleated; none when there is neither (R352). -/
def resumeCast (s : State) (i : Nat) (area : Bool) : Option (State × Except Cause Unit) :=
  let v := s.inst i
  (castPlace s i area).map fun x => match x.2 with
    | some h => resumePleat s i h
    | none => resumeAt s i { old := v.origin, new := x.1, lm := decide (newLetter s v.ctx ≠ v.letter) } false

/-- A cast instance goes on where it can, before any waiting request of equal or lower precedence of the partition (R352, R361). -/
def castTry (i : Nat) (s : State) : State :=
  let v := s.inst i
  let wait := (s.reqs.any fun e => decide (partOf s e.2.ctx = partOf s v.ctx) && servable s e.2 && outranks (rankOf s e.1 e.2) (castRank s i v))
    || s.insts.any fun e => decide (e.1 ≠ i) && decide (partOf s e.2.ctx = partOf s v.ctx) && castPlaceable s e.2
      && outranks (castRank s e.1 e.2) (castRank s i v)
  if v.st ≠ .cast || !placing s v.ctx || wait then s
  else match castPlace s i true with
    | none => s
    | some x =>
      if !castClear s i x then castWays s i x.1
      else match resumeCast s i true with
        | some (t, .ok ()) => t
        | _ => s

/-- CAST_RESUME (R352, R361). -/
def execCastResume (i : Nat) (s : State) : Res := .next (castTry i s)

/-! ### PLT, CSTO, CSTI (R185) -/

/-- Starts the cut of an instance: PMK is injected unless it is saved as it stands (R185, R376). -/
def cutStart (s : State) (i : Nat) (why : CutFor) : State :=
  let v := s.inst i
  let s := s.updInst i fun v => { v with cut := why, st := .cutting }
  if savedDirect v then s
  else
    let s := s.updCtx v.ctx fun x => { x with pmk := x.pmk + 1 }
    let t := pmkMark (s.ctx v.ctx).pmk
    markSeams (injectInst s i t) i (fun j => j != i) t

/-- PLT, CSTO or CSTI (0, 1, 2) goes ahead for a callee, or waits while another cut of it is under way. DESIGN CHOICE (log 123): `d`
receives 2 when the callee has ended while the move waited, of which the rule's three statuses say nothing. -/
def moveGo (s : State) (n : NodeId) (l : Letter) (op code i : Nat) : State :=
  let v := s.inst i
  let ok (k : Nat) : State := giveToken s n l op (moveStatus k)
  if (mget? s.insts i).isNone then ok 2
  else match v.st with
    | .cast =>
      if code = 1 then ok 1
      else if (castPlace s i (code == 2)).any fun x => !castClear s i x then ((castPlace s i (code == 2)).map fun x => castWays s i x.1).getD s
      else match resumeCast s i (code == 2) with
        | none => ok 2
        | some (t, .ok ()) =>
          if (s.ctx v.ctx).preempt ∧ (s.ctx v.ctx).cswunits < cswNext s v.ctx + cswNeed v then ok 2
          else giveToken (joinCut t i) n l op (moveStatus 0)
        | some (_, .error _) => opFault s n l op .castFault
    | .live =>
      if hasStall s i && !quiescent v then s
      else match code with
        | 0 =>
          if v.pleated then ok 1
          else if !v.pat.tnodes.isEmpty || (findHost s v.ctx v.pat v.wins (castAnchor s v) i).isNone then ok 2
          else cutStart s i (.pleatBy n l op)
        | 1 =>
          if (castBegin s i).isNone then ok 2 else cutStart s i (.castBy n l op)
        | _ => ok 1
    | _ => s

/-- PLT, CSTO and CSTI (R185). -/
def moveInstr (code : Nat) (d : Dst) (a : Src) (s : State) : State :=
  let x := readSrc s .w32 a
  let id := x.tok.payload.toNat % 2 ^ 24
  let live := (mget? s.insts id).isSome && decide ((s.inst id).caller = actInst s) && decide (actInst s ≠ 0)
  let chk := (checkOpds .w32 [(x, .raw)]).or (if live then none else some .callsiteInvalid)
  let n := actNode s
  let l := actLetter s
  launch s 1 d [a] chk (fun o => { o with kind := .move, ready := false, arg := id, done := code })
    fun o t => moveGo t n l o.id code id

/-- PLT (R185, R349). -/
def execPlt (d : Dst) (a : Src) (s : State) : Res := .next (moveInstr 0 d a s)
/-- CSTO (R185, R351). -/
def execCsto (d : Dst) (a : Src) (s : State) : Res := .next (moveInstr 1 d a s)
/-- CSTI (R185, R352). -/
def execCsti (d : Dst) (a : Src) (s : State) : Res := .next (moveInstr 2 d a s)

/-- The PLT, CSTO and CSTI in flight that name an instance and wait. -/
def movesOf (s : State) (i : Nat) : List (NodeId × Letter × Nat × Nat) :=
  s.nodes.flatMap fun e => [Letter.a, Letter.b].flatMap fun l =>
    ((e.2.plane l).ops.filter fun o => o.kind == .move && !o.ready && decide (o.arg = i)).map fun o => (e.1, l, o.id, o.done)

/-- The waiting moves of an instance go ahead, unless a cut is under way. -/
def moveAll (s : State) (i : Nat) : List (NodeId × Letter × Nat × Nat) → State
  | [] => s
  | (n, l, op, code) :: t =>
    let busy := match (s.inst i).st with
      | .cutting => true
      | .moving _ _ _ _ => true
      | .casting _ => true
      | .saved => true
      | _ => false
    moveAll (if busy && (mget? s.insts i).isSome then s else moveGo s n l op code i) i t

/-! ### Cuts and casts as they end (R348, R349, R351) -/

/-- Whether a cut may move an instance now: it is complete, no call of the instance waits, and no handler serves its trap. -/
def cutFree (s : State) (i : Nat) : Bool :=
  cutDone s i && (s.bundles.all fun b => b.2.caller != i)
    && !((s.inst i).fault && s.cores.any fun k => k.2.serving == some (s.inst i).trap)

/-- The waiting requests of an instance's host panels' units: writes a live instance's units, or those of one never placed. -/
def writeCast (s : State) (i : Nat) : State × Except Cause Unit :=
  let v := s.inst i
  let ps := rectPanels v.origin v.pat.fw v.pat.fh
  if v.fresh.isNone then writeUnits true s v.ctx (castVa s i) v.letter ps
  else
    let t := holdInst (loadInst { s with nodes := [], panels := [] } i 0) i
    let go (r : State × Except Cause Unit) (e : Nat × Nat) : State × Except Cause Unit :=
      match r with
      | (m, .error x) => (m, .error x)
      | (m, .ok ()) =>
        writePieces m v.ctx (castVa s i + unitSize * e.2) ((0, List.replicate 0x24000 (0 : Byte)) :: unitPieces t e.1 v.letter)
    ps.zipIdx.foldl go (s, .ok ())

/-- The member of a bundle that an instance stands for, cast before it was ever placed. -/
def freshMember (s : State) (i : Nat) : Option (Nat × Nat) :=
  (s.inst i).fresh.bind fun b => if (mget? s.bundles b).isSome then some (b, (s.inst i).member) else none

/-- CAST_FAULT (R351): the instance keeps its area and stays live; one never placed is given up with its request. -/
def castFail (s : State) (i : Nat) : State :=
  let k := cutSlot s i
  let bm := freshMember s i
  let fresh := bm.isSome
  let s := (freeCastUnits s i).updInst i fun v => { v with spillSeg := none }
  let s := if fresh then releaseInst s i else cutCancel s i
  match fresh, bm, k with
  | true, some (b, _), _ => faultCall s b .castFault
  | _, _, some (n, l, op) => if (s.op? n l op).isSome then opFault s n l op .castFault else s
  | _, _, none => s

/-- What a finished cut begins, once the stores that it commits have performed: a pleat or a cast, by what it is for (R185, R347). -/
def cutMove (s : State) (i : Nat) : State :=
  let v := s.inst i
  let host := if v.pat.tnodes.isEmpty then findHost s v.ctx v.pat v.wins (castAnchor s v) i else none
  let stay (s : State) : State := cutCancel (cutAnswer s i 2) i
  let t := cutRelease s i
  if releaseWaits t i then t
  else match v.cut, host with
    | .pleatBy _ _ _, some h => moveBegin t i h
    | .pleatBy _ _ _, none => stay s
    | .castBy _ _ _, _ => (castBegin t i).getD (stay s)
    | .bundle, some h => moveBegin t i h
    | .bundle, none => (castBegin t i).getD (cutCancel s i)
    | _, _ => s

/-- CAST_COMPLETE (R349, R351, R355, R361): a finished cut is acted on; a finished pleat takes its new place; a finished cast has
written its units, leaves its area, and goes on at once where it can; a resumed instance whose spill has drained gives its units and
segment back; then the moves that waited for the instance go ahead. -/
def execCastComplete (i : Nat) (s : State) : Res :=
  let v := s.inst i
  let s := match v.st with
    | .cutting => if v.cut ≠ .preempt ∧ cutFree s i = true then cutMove s i else s
    | .moving due o e l => if s.cycle < due then s else pleatOnto (cutAnswer s i 0) i o e l
    | .casting due =>
      if s.cycle < due then s
      else match writeCast s i with
        | (_, .error _) => castFail s i
        | (s, .ok ()) =>
          if v.fresh.isNone then castTry i (castLeave (cutAnswer s i 0) i)
          else match freshMember s i with
            | none => castTry i (s.updInst i fun v => { v with st := .cast })
            | some (b, m) =>
              let bv := mget s.bundles b
              let s := bv.runs.foldl (fun s r => wireRun s bv i m (callMembers s bv) r) (s.updInst i fun v => { v with st := .cast })
              castTry i (callDone (setMember s b m (.cast i)) b)
    | .live => releaseSpill s i
    | _ => s
  .next (moveAll s i (movesOf s i))

/-! ### Cutter searches (R344 to R347) -/

/-- The others at a request's cutter are served from the next cycle on (R345). -/
def bumpOthers (s : State) (k : Nat) (r : Req) : State :=
  let c := cutterOf s r
  { s with reqs := mmap s.reqs fun j q => if j ≠ k ∧ cutterOf s q = c then { q with at_ := max q.at_ (s.cycle + cutTime s ((c.map (·.1)).getD 1) r.anchor 1) } else q }

/-- Whether a request has a grant, whose panels it claims or whose planes it loads. -/
def granted : ReqSt → Bool
  | .claiming _ _ _ _ => true
  | .loading _ _ => true
  | _ => false

/-- Whether a member's request has an area that is claimed or loads. -/
def reqLoads (s : State) (b m : Nat) : Bool :=
  s.reqs.any fun e => e.2.for_ == .member b m && granted e.2.st

/-- A bundle holds a partial reservation (R346): a member has an area, and another waits for one. A member that has ended has
none. -/
def partialBundle (s : State) (b : Nat) (v : Bundle) : Bool :=
  let area (m : MemberSt × Nat) : Bool := (match m.1 with
    | .placed _ => true
    | _ => false) || reqLoads s b m.2
  (v.members.zipIdx.any area) && v.members.zipIdx.any fun m => m.1 == .waiting && !reqLoads s b m.2

/-- The bundle that rip-back takes for a request: of lower precedence, the lowest (R347). -/
def ripVictim (s : State) (k : Nat) (r : Req) : Option Nat :=
  let c := s.bundles.filter fun e => decide (partOf s e.2.ctx = partOf s r.ctx) && partialBundle s e.1 e.2
    && (!ringShared s r.ctx || decide ((s.ctx e.2.ctx).vf = (s.ctx r.ctx).vf)) && outranks (rankOf s k r) (bundleRank s e.1 e.2)
  let low (a b : Nat) : Nat := if outranks (bundleRank s a (mget s.bundles a)) (bundleRank s b (mget s.bundles b)) then b else a
  match c with
  | [] => none
  | e :: t => some (t.foldl (fun a x => low a x.1) e.1)

/-- A member that rip-back is cutting has not left its area yet (R347). -/
def ripping (s : State) (b : Nat) : Bool :=
  (mget s.bundles b).members.any fun m => match m with
    | .placed i => (s.inst i).st != .live
    | _ => false

/-- RIP_BACK (R347): members not yet started are released, and wait at the top from the next cycle on; started ones are cut,
to be pleated or cast. -/
def ripBundle (s : State) (b : Nat) : State :=
  let ks := (s.reqs.filter fun e => granted e.2.st && (match e.2.for_ with
    | .member j _ => decide (j = b)
    | .launch _ => false)).map (·.1)
  let s := ks.foldl (fun s k => unclaim s k .waiting (s.cycle + 1)) s
  (mget s.bundles b).members.foldl (fun s m => match m with
    | .placed i => if (s.inst i).st = .live ∧ (hasStall s i = false ∨ quiescent (s.inst i) = true) then cutStart s i .bundle else s
    | _ => s) s

/-- Rips bundles back until the request can be granted or none is left, one after the other: the next only once the members of
the last have left their areas (R347). -/
def ripBack (s : State) (k : Nat) : Nat → State
  | 0 => s
  | n + 1 =>
    let r := mget s.reqs k
    if (findRect s r.ctx r.pat r.letter r.anchor (topOf s r.ctx)).isSome then s
    else match ripVictim s k r with
      | none => s
      | some b => if ripping s b then s else ripBack (ripBundle s b) k n

/-- A request is served at the cutter of a level: it is granted a rectangle, passes to the parent, or waits at the top, where
bundles of lower precedence may be ripped back for it (R344 to R347). -/
def searchAt (s : State) (k : Nat) (r : Req) (lvl : Nat) : State :=
  let top := topOf s r.ctx
  if decide (s.cycle < r.at_) || mustWait s k r then s
  else
    let s := bumpOthers s k r
    match findRect s r.ctx r.pat r.letter r.anchor lvl with
    | some o => grant s k r o lvl
    | none =>
      if lvl < top then { s with reqs := mset s.reqs k { r with st := .search (lvl + 1), at_ := s.cycle + cutTime s (lvl + 1) r.anchor 16 } }
      else ripBack { s with reqs := mset s.reqs k { r with st := .waiting, at_ := s.cycle + 1 } } k s.bundles.length

/-- CUTTER_SEARCH (R344 to R347, R357): a request is served at its cutter, or makes the next claim of its grant. A claim for a
letter that the ring has passed on meanwhile is given up (R393). -/
def execCutterSearch (req : Nat) (s : State) : Res :=
  .next (match mget? s.reqs req with
    | none => s
    | some r =>
      let l := newLetter s r.ctx
      if !reqGoes s r then s
      else match r.st with
        | .search k => searchAt s req { r with letter := l } (min k (topOf s r.ctx))
        | .waiting => searchAt s req { r with letter := l } (topOf s r.ctx)
        | .claiming o lvl done due =>
          if s.cycle < due then s else if r.letter ≠ l then searchAgain s req lvl else claimPanel s req r o lvl done
        | .loading _ _ => s)

/-! ### Members placed (R348, R349, R356) -/

/-- Whether the zeroing that a placement waits for has ended (R42, R269). -/
def zeroed (s : State) (r : Req) (origin : Nat) : Bool :=
  ((rectPanels origin r.pat.fw r.pat.fh).all fun p => (s.panel p).zero.isNone)
    && r.ways.all fun w => ((mget s.banks (w.1, w.2.1)).ways[Fin.ofNat 4 w.2.2]).zero.isNone

/-- The host of a pleat: the instance that holds the other letter of an origin. -/
def hostAt (s : State) (origin : Nat) (l : Letter) : Nat := (holdOf (s.side origin l.other).hold).getD 0

/-- A new instance's record from its request. -/
def newInst (s : State) (r : Req) (origin : Nat) : Inst :=
  match r.for_ with
  | .launch k =>
    let v := mget s.runs k
    { ctx := r.ctx, pat := r.pat, origin := origin, letter := r.letter, run := k, setCls := v.pcl, inhCls := v.inh, work := r.work,
      ways := r.ways, age := r.age, progress := s.cycle }
  | .member b m =>
    let w := mget s.bundles b
    let c := s.inst w.caller
    { ctx := r.ctx, pat := r.pat, origin := origin, letter := r.letter, depth := c.depth + 1, caller := w.caller, member := m,
      site := w.site, run := c.run, setCls := c.setCls, inhCls := c.inhCls, work := c.work, ways := r.ways, age := r.age,
      tie := r.tiePanel * 128 + r.tieNode, callAt := some (w.node, w.letter), progress := s.cycle, pleated := r.pleat }

/-- Whether an exchange has brought another tenant's bytes into a claimed panel of a shared partition since it was zeroed; it is
zeroed again (R42, R396). -/
def tenantsLeft (s : State) (r : Req) (origin : Nat) : Bool :=
  ringShared s r.ctx && (rectPanels origin r.pat.fw r.pat.fh).any fun p => (s.panel p).lastCtx != some r.ctx

/-- MEMBER_PLACED (R39, R356): a request's planes are loaded, wired and active; the call token or the launch's count
follows. -/
def execMemberPlaced (req : Nat) (s : State) : Res :=
  .next (match mget? s.reqs req with
    | none => s
    | some r =>
      match r.st with
      | .loading origin due =>
        if s.cycle < due || !zeroed s r origin || !reqGoes s r || !cutRoom s r
          || !banksIdle s (rectPanels origin r.pat.fw r.pat.fh) (r.ways.map fun w => (w.1, w.2.1)) then s
        else if tenantsLeft s r origin then takePanels s r.ctx (rectPanels origin r.pat.fw r.pat.fh)
        else
          let i := freeId s
          let e := if r.pleat then pleatBase s (hostAt s origin r.letter) else 0
          let s := { s with insts := mset s.insts i (newInst s r origin), reqs := mdel s.reqs req }
          let s := loadInst (holdInst s i) i e
          match r.for_ with
          | .launch k =>
            let s := { s with runs := mmap s.runs fun j v => if j = k then { v with kind := match v.kind with
                | .launch live todo => .launch (live + 1) (todo - 1)
                | x => x } else v }
            fixRegion s i
          | .member b m =>
            match wireMember s (mget s.bundles b) i m with
            | none => faultCall (releaseInst s i) b .callsiteInvalid
            | some s => joinCut (callDone (setMember (fixRegion s i) b m (if r.pleat then .pleated i else .placed i)) b) i
      | _ => s)

/-! ### Wait bounds (R348) -/

/-- The host among a bundle's placed members onto which a waiting one is pleated, in member order; one that has ended is none
(R348). -/
def bundleHost (s : State) (v : Bundle) : Option Nat :=
  (v.members.filterMap fun m => match m with
    | .placed j => if canPleat s v.ctx v.pat v.pat.wins false j then some j else none
    | _ => none).head?

/-- A waiting request begins to load in the free letter of a host's gusset (R348, R349). -/
def pleatReq (s : State) (k host : Nat) : State :=
  let r := mget s.reqs k
  let h := s.inst host
  let l := h.letter.other
  let ws := waysFor s r.ctx h.origin r.pat
  let s := holdPanels s l (.claimed k) (rectPanels h.origin r.pat.fw r.pat.fh)
  let s := takeWays s r.ctx ws
  let (s, at_) := fetchImage s (dieOf h.origin) r.ctx r.pat.pid r.pat.len
  let due := at_ + placeTime s h.origin r.pat
  { s with reqs := mset s.reqs k { r with st := .loading h.origin due, letter := l, pleat := true, ways := ws } }

/-- A member that was never placed is cast as its post-load image (R348): its record stands for a nominal place beside its
caller until it is first placed. -/
def castReq (s : State) (k : Nat) : State :=
  let r := mget s.reqs k
  let b := match r.for_ with
    | .member b _ => some b
    | .launch _ => none
  let i := freeId s
  let v := { newInst s r r.anchor with letter := .a, fresh := b, ways := [] }
  let t := holdInst (loadInst { s with nodes := [], panels := [], insts := mset s.insts i v } i 0) i
  let v' := { t.inst i with saved := instPlanes t i, savedSides := instSides t i }
  match castBegin { s with insts := mset s.insts i v' } i with
  | none => s
  | some s => { s with reqs := mdel s.reqs k }

/-- The waiting requests of a bundle, in member order. -/
def waitingReqs (s : State) (b : Nat) : List Nat :=
  (s.reqs.filter fun e => match e.2.for_, e.2.st with
    | .member j _, .search _ => decide (j = b)
    | .member j _, .waiting => decide (j = b)
    | _, _ => false).map (·.1)

/-- Pleats or casts a list of waiting members. -/
def boundAll (s : State) (b : Nat) : List Nat → State
  | [] => s
  | k :: t =>
    let s := match bundleHost s (mget s.bundles b) with
      | some h => pleatReq s k h
      | none => castReq s k
    boundAll s b t

/-- `WAITB` of a bundle's context. -/
def waitOf (s : State) (v : Bundle) : Nat := (s.ctx v.ctx).waitb

/-- BUNDLE_WAIT_BOUND (R348). -/
def execBundleWaitBound (b : Nat) (s : State) : Res :=
  .next (match mget? s.bundles b with
    | none => s
    | some v => if s.cycle < v.issued + waitOf s v || descheduled s v.ctx then s else boundAll s b (waitingReqs s b))

/-- PLACEMENT_TIMEOUT (R348): a member can still be neither placed, pleated nor cast. -/
def execPlacementTimeout (b : Nat) (s : State) : Res :=
  .next (match mget? s.bundles b with
    | none => s
    | some v =>
      if s.cycle < v.issued + 4 * waitOf s v || (waitingReqs s b).isEmpty || descheduled s v.ctx then s
      else faultCall s b .placementTimeout)

/-! ### The pattern cache (R342) -/

/-- The length of a cached image. -/
def lenOf (s : State) (e : Nat × Nat) : Nat := ((mget? (s.ctx e.1).pats e.2).getD {}).len

/-- Whether a placement or PLOAD in progress uses an image (R342). -/
def pinned (s : State) (e : Nat × Nat) : Bool :=
  (s.reqs.any fun r => decide (r.2.ctx = e.1) && decide (r.2.pat.pid = e.2) && (match r.2.st with
      | .loading _ _ => true
      | _ => false))
    || s.panels.any fun p => [p.2.sa, p.2.sb].any fun v => match v.hold with
      | .loading i k _ => decide (k = e.2) && decide ((s.inst i).ctx = e.1)
      | _ => false

/-- Evicts images, least recently used first and none that is pinned, until the cache holds at most 32 MiB (R342). -/
def evict (s : State) (es : List (Nat × Nat)) : Nat → List (Nat × Nat)
  | 0 => es
  | n + 1 =>
    if (es.map (lenOf s)).sum ≤ 2 ^ 25 then es
    else match es.find? fun e => !pinned s e with
      | none => es
      | some e => evict s (es.erase e) n

/-- PATTERN_FETCH (R342): fetches of an image that have run enter their die's cache. -/
def execPatternFetch (c pat : Nat) (s : State) : Res :=
  let done := s.fetches.filter fun e => decide (e.2.1 = c) && decide (e.2.2.1 = pat) && decide (e.2.2.2 ≤ s.cycle)
  let put (m : Map Nat (List (Nat × Nat))) (e : Nat × Nat × Nat × Nat) : Map Nat (List (Nat × Nat)) :=
    let es := mget m e.1 ++ [(c, pat)]
    mset m e.1 (evict s es es.length)
  .next { s with fetches := s.fetches.filter fun e => !done.contains e, pcache := done.foldl put s.pcache }

/-! ### Spills (R353, R354) -/

/-- The instances whose spill segments a list of consumers names. -/
def spillInsts (ts : List Target) : List Nat := ts.filterMap fun x => match x with
  | .spill i _ => some i
  | _ => none

/-- Whether the bank of an instance's segment is unreachable: its island is off (R354, R424). -/
def spillOff (s : State) (i : Nat) : Bool :=
  match (s.inst i).spillSeg with
  | some (sw, _) => decide (mget s.dev.islands (16 + sw / 32 * 2 + sw % 8 / 4) < 8)
  | none => true

/-- Whether the code word of an instance's next entry has an uncorrectable error (R266, R354). -/
def spillBad (s : State) (i : Nat) : Bool := (upsetsIn s (spillHome (s.inst i) (s.inst i).spill) 8).any (·.2)

/-- Whether a spill write fails (R354). -/
def spillDead (s : State) (i : Nat) : Bool := spillOff s i || spillBad s i

/-- The code words of the next entries of some segments are written whole (R266). -/
def spillClean (s : State) (is : List Nat) : State :=
  { s with upsets := s.upsets.filter fun e => !is.any fun i => codeWord (spillHome (s.inst i) (s.inst i).spill) == e.1 }

/-- Whether a full segment holds an out-port. -/
def heldBySpill (s : State) (n : NodeId) (l : Letter) (out : Fin 4) : Bool :=
  (spillInsts (targets s n l out)).any fun i => decide (spillCap ≤ (s.inst i).spill)

/-- SPILL_WRITE (R353, R354): a token departs to consumers of which some are cast, whose segment takes it as one entry. -/
def execSpillWrite (n : NodeId) (l : Letter) (out : Fin 4) (s : State) : Res :=
  let o := s.outp n l out
  .next (match o.slot with
    | none => s
    | some t =>
      let ts := targets s n l out
      let is := spillInsts ts
      if decide (s.cycle < o.since) || is.isEmpty || (s.plane n l).stop != .run then s
      else if is.any (spillDead s) then
        headFault (((is.filter (spillBad s)).foldl (fun s i => eccFailed s (spillHome (s.inst i) (s.inst i).spill)) s)) n l .spillFault
      else if ts.zipIdx.all fun x => canTake s n o t x.2 x.1 then sendSlot (spillClean s is) n l out t ts
      else s.updOut n l out fun q => { q with heldSince := if heldBySpill s n l out then q.heldSince.or (some s.cycle) else none })

/-- SPILL_STALL (R353): a producer held by a full segment for 2^20 cycles. -/
def execSpillStall (n : NodeId) (l : Letter) (out : Fin 4) (s : State) : Res :=
  .next (match (s.outp n l out).heldSince with
    | none => s
    | some c =>
      if s.cycle < c + 2 ^ 20 || !heldBySpill s n l out then s
      else headFault (s.updOut n l out fun q => { q with heldSince := some s.cycle }) n l .spillStall)

/-! ### The end of launched instances (R183, R317) -/

/-- INSTANCE_END (R183): a launched instance that is finished ends; the last one ends its launch. DESIGN CHOICE (log 122): one whose
fault flag is set, or a call of which is still being placed, does not end yet; the rule says nothing of either. -/
def execInstanceEnd (i : Nat) (s : State) : Res :=
  let v := s.inst i
  .next (if (mget? s.insts i).isNone || v.caller != 0 || v.run == 0 || v.st != .live || v.fault || (s.bundles.any fun b => b.2.caller == i)
      || !instFinished s i then s
    else runEnded (releaseInst s i) v.run)

/-! ### SPWN and SPWNT (R184, R325) -/

/-- A spawn template as the packet it becomes: `PTYPE` 6, `PCL` raised, bits [31:0] of `WID` replaced (R184, R325). -/
def spawnBytes (t : List Byte) (cls : Nat) (b : Word) : List Byte :=
  let h := (t.getD 1 0).toNat
  let pcl := max (field h 3 2) cls
  [6, BitVec.ofNat 8 (h % 4 + pcl * 4 + h / 16 * 16)] ++ (t.drop 2).take 22 ++ bytesOfWord b ++ t.drop 28

/-- A packet enters its context's spawn queue. -/
def pushSpawn (s : State) (c : Nat) (bs : List Byte) : State :=
  s.updCtx c fun x => { x with spused := x.spused + 1, spnum := (x.spnum + 1) % 2 ^ 32
                               spawns := x.spawns ++ [{ bytes := bs, cls := field (bs.getD 1 0).toNat 3 2 }] }

/-- SPWN and SPWNT past their operands: the template's checks (R184), then the queueing. A template that cannot be read is no
LAUNCH packet: R197 lists no page fault for them (log 46). -/
def spawnInstr (try_ : Bool) (d : Dst) (a b : Src) (s : State) : State :=
  let x := readSrc s .w32 a
  let y := readSrc s .w32 b
  let v := s.inst (actInst s)
  let k := s.ctx v.ctx
  let off := x.tok.payload.toNat
  let ps := srcPorts [a, b]
  match (checkOpds .w32 [(x, .raw), (y, .raw)]).or
      (if off % 64 ≠ 0 then some .alignment else if k.splen < off + 64 then some .windowBounds else none) with
  | some e => raise s e ps
  | none =>
    match readCtx s v.ctx (k.spbase + off) 64 with
    | (s, .error _) => raise s .packetMalformed ps
    | (s, .ok t) =>
      if t.getD 0 0 ≠ 1 then raise s .packetMalformed ps
      else if k.spused = k.spquota then
        if try_ then finish s 1 d [a, b] { out := .ok { payload := 0 } } else raise s .quotaSpent ps
      else
        let n := actNode s
        let l := actLetter s
        let tok : Token := { payload := if try_ then 1 else BitVec.ofNat 32 k.spnum }
        launch s 1 d [a, b] none (fun o => { o with toks := [tok] })
          fun _ r => impreciseAt (pushSpawn r v.ctx (spawnBytes t (pclass v) y.tok.payload)) n l

/-- SPWN (R184). -/
def execSpwn (d : Dst) (a b : Src) (s : State) : Res := .next (spawnInstr false d a b s)
/-- SPWNT (R184). -/
def execSpwnt (pd : Fin 8) (a b : Src) (s : State) : Res := .next (spawnInstr true (.p pd) a b s)

end Sys2Proof.Machine
end

