-- ==== Sys2Proof/Machine/Emul.lean ====
section
/-! DEFINITION. EMUL (R190): an A-word of groups 0x0 to 0x5 run against the image of the plane that `TSEL` names. -/

namespace Sys2Proof.Machine
open Sys2Proof

/-- The meaning that EMUL gives an instruction of groups 0x0 to 0x5, HALT and WAITT apart; none for any other (R190). -/
def emulExec : Instr → Option (State → Res)
  | .add f d a b sat => some (execAdd f d a b sat)
  | .sub f d a b sat => some (execSub f d a b sat)
  | .addi d a imm => some (execAddi d a imm)
  | .mul f d a b sat => some (execMul f d a b sat)
  | .mulh f d a b => some (execMulh f d a b)
  | .mulhu f d a b => some (execMulhu f d a b)
  | .and d a b => some (execAnd d a b)
  | .or d a b => some (execOr d a b)
  | .xor d a b => some (execXor d a b)
  | .andn d a b => some (execAndn d a b)
  | .shl d a b => some (execShl d a b)
  | .shr d a b => some (execShr d a b)
  | .sar d a b => some (execSar d a b)
  | .rol d a b => some (execRol d a b)
  | .andi d a imm => some (execAndi d a imm)
  | .ori d a imm => some (execOri d a imm)
  | .min f d a b => some (execMin f d a b)
  | .max f d a b => some (execMax f d a b)
  | .minu f d a b => some (execMinu f d a b)
  | .maxu f d a b => some (execMaxu f d a b)
  | .abs f d a sat => some (execAbs f d a sat)
  | .neg f d a sat => some (execNeg f d a sat)
  | .clz d a => some (execClz d a)
  | .popc d a => some (execPopc d a)
  | .ext d a b c => some (execExt d a b c)
  | .ins d a b c => some (execIns d a b c)
  | .sel d a b c => some (execSel d a b c)
  | .cmp f cc d a b => some (execCmp f cc d a b)
  | .cmpi f cc d a imm => some (execCmpi f cc d a imm)
  | .adds f d a b => some (execAdds f d a b)
  | .subs f d a b => some (execSubs f d a b)
  | .mad f d a b c sat => some (execMad f d a b c sat)
  | .fadd f d a b rm => some (execFadd f d a b rm)
  | .fsub f d a b rm => some (execFsub f d a b rm)
  | .fmul f d a b rm => some (execFmul f d a b rm)
  | .fma f d a b c => some (execFma f d a b c)
  | .fmin f d a b => some (execFmin f d a b)
  | .fmax f d a b => some (execFmax f d a b)
  | .fabs f d a => some (execFabs f d a)
  | .fneg f d a => some (execFneg f d a)
  | .fcmp f cc d a b => some (execFcmp f cc d a b)
  | .fhsum f d a rm => some (execFhsum f d a rm)
  | .fdot f d a b c => some (execFdot f d a b c)
  | .fcls f d a => some (execFcls f d a)
  | .fclp f d a b c => some (execFclp f d a b c)
  | .frcp f d a rm => some (execFrcp f d a rm)
  | .frsq f d a rm => some (execFrsq f d a rm)
  | .fsqrt f d a rm => some (execFsqrt f d a rm)
  | .fex2 f d a rm => some (execFex2 f d a rm)
  | .flg2 f d a rm => some (execFlg2 f d a rm)
  | .ftnh f d a rm => some (execFtnh f d a rm)
  | .cvt f d a rm nanov => some (execCvt f d a rm nanov)
  | .pack f d a b => some (execPack f d a b)
  | .unpk f d a hi => some (execUnpk f d a hi)
  | .scl f d a b rm clr => some (execScl f d a b rm clr)
  | .itof f d a rm u => some (execItof f d a rm u)
  | .ftoi f d a rm sat u => some (execFtoi f d a rm sat u)
  | .rndi f d a rm => some (execRndi f d a rm)
  | .mov f d a => some (execMov f d a)
  | .movi d imm => some (execMovi d imm)
  | .movhi d imm => some (execMovhi d imm)
  | .mktag d a hdr => some (execMktag d a hdr)
  | .gtag d a => some (execGtag d a)
  | .plog pd pa pb lut => some (execPlog pd pa pb lut)
  | .pmov pd pa => some (execPmov pd pa)
  | .pseti mask vals => some (execPseti mask vals)
  | .wid d n => some (execWid d n)
  | .clk d half => some (execClk d half)
  | .iid d sel => some (execIid d sel)
  | .emit d a => some (execEmit d a)
  | .drop a => some (execDrop a)
  | .fwd d a => some (execFwd d a)
  | .steer d a k => some (execSteer d a k)
  | .swpt d a => some (execSwpt d a)
  | .stky a n => some (execStky a n)
  | .dmnd a n => some (execDmnd a n)
  | .nop => some (execNop)
  | _ => none

/-- Runs a word on the image of a core's selected plane: the core's `emst` then holds the cause it would raise, or 0. DESIGN CHOICE
(log 120): for a word that decodes and that EMUL does not accept, HALT, WAITT and those of groups above 0x5, R190 names no cause; it
is ILLEGAL_OPCODE. -/
def emulRun (s : State) (c : Nat) (w : Word) : State :=
  let s := { s.updCore c fun k => { k with emst := 0 } with cur := .emul c }
  let bad (e : Cause) : State := s.updCore c fun k => { k with emst := e.code }
  let r := match decodeA .stitch 0 w with
    | .error e => bad e.cause
    | .ok i => match emulExec i with
      | none => bad .illegalOpcode
      | some f => match f s with
        | .next t => t
        | _ => s
  { r with cur := .core c }

/-- The status EMUL delivers (R190). -/
def emulStatus (k : Core) : Nat := if k.emst = 0 then 64 else k.emst

/-- EMUL (R190): a word that faults applies nothing, and the status names its cause. -/
def execEmul (d : Dst) (a : Src) (s : State) : Res :=
  let x := readSrc s .w32 a
  .next (match checkOpds .w32 [(x, .raw)] with
    | some e => raise s e []
    | none => match s.cur with
      | .core c =>
        let s := emulRun s c x.tok.payload
        finish s 1 d [] (w32Res (BitVec.ofNat 32 (emulStatus (s.core c))))
      | _ => s)

end Sys2Proof.Machine
end

