-- ==== Sys2Proof/Machine/Flosy.lean ====
section
/-! DEFINITION. Flosy messages (R402, R403, R415 to R417): their header, which commands are taken, and replies. -/

namespace Sys2Proof.Machine
open Sys2Proof

/-! ### Messages and their header (R415, R416) -/

/-- The header of a Flosy message (R415). -/
structure FlosyHeader where
  fop : BitVec 8 := 0
  fstat : BitVec 8 := 0
  ftag : BitVec 16 := 0
  fctx : BitVec 16 := 0
  faddr : BitVec 64 := 0
  flen : BitVec 32 := 0
  deriving DecidableEq, Repr, Inhabited

/-- A header as a number of 256 bits. -/
def FlosyHeader.code (x : FlosyHeader) : Nat :=
  x.fop.toNat + x.fstat.toNat * 2 ^ 8 + x.ftag.toNat * 2 ^ 16 + x.fctx.toNat * 2 ^ 32 + x.faddr.toNat * 2 ^ 64 + x.flen.toNat * 2 ^ 128

/-- A header as its 32 bytes. -/
def FlosyHeader.bytes (x : FlosyHeader) : List Byte := leBytes x.code 32

/-- The fields of a header; none where a reserved bit is set. -/
def headerOf (v : Nat) : Option FlosyHeader :=
  if field v 63 48 ≠ 0 ∨ field v 255 160 ≠ 0 then none
  else some { fop := BitVec.ofNat 8 v, fstat := BitVec.ofNat 8 (v / 2 ^ 8), ftag := BitVec.ofNat 16 (v / 2 ^ 16),
              fctx := BitVec.ofNat 16 (v / 2 ^ 32), faddr := BitVec.ofNat 64 (v / 2 ^ 64), flen := BitVec.ofNat 32 (v / 2 ^ 128) }

/-- The command of a request: a payload of `FLEN` bytes follows, but for the two reads, whose `FLEN` is what they ask for (R416);
none for a message that is no command. -/
def commandOf (x : FlosyHeader) (data : List Byte) : Option HostCmd :=
  let c := x.fctx.toNat
  let a := x.faddr.toNat
  let n := x.flen.toNat
  let v := leNat data
  if x.fstat ≠ 0 ∨ data.length ≠ (if x.fop = 1 ∨ x.fop = 3 then 0 else n) then none
  else match x.fop.toNat with
    | 1 => some (.regRd a n)
    | 2 => some (.regWr a n (BitVec.ofNat 64 v))
    | 3 => some (.memRd c a n)
    | 4 => some (.memWr c a data)
    | 5 => if n = 8 then some (.doorbell c a (BitVec.ofNat 64 v)) else none
    | 6 => if n ≠ 4 then none else match v with
      | 0 => some (.makeResident c a)
      | 1 => some (.switchOut c a)
      | 2 => some (.enable c a)
      | 3 => some (.resume c a)
      | 4 => some (.disable c a)
      | _ => none
    | 7 => if n = 8 then some (.sigwr c a (BitVec.ofNat 64 v)) else none
    | 8 => some (.power (field v 4 0) (field v 11 8))
    | 9 => some (.attest data)
    | _ => none

/-- The header of a reply: the request's tag and command, the status and the length of what follows. `FCTX` and `FADDR` are open
(log 129). -/
def Reply.header (ctx : BitVec 16) (addr : BitVec 64) (r : Reply) : FlosyHeader :=
  { fop := BitVec.ofNat 8 r.op, fstat := BitVec.ofNat 8 r.stat, ftag := r.tag, fctx := ctx, faddr := addr, flen := BitVec.ofNat 32 r.data.length }

/-- A reply as its bytes. -/
def Reply.bytes (ctx : BitVec 16) (addr : BitVec 64) (r : Reply) : List Byte := (r.header ctx addr).bytes ++ r.data

/-- The payload of a NOTIFY (R416). -/
def Note.payload (n : Note) : List Byte := leBytes (n.event % 2 ^ 8 + n.detail % 2 ^ 24 * 2 ^ 8) 4

/-! ### Connections (R402, R403, R423) -/

/-- Whether a connection carries Flosy: a context in RUD or ROD, or with `ROCE` a queue pair; the link of island 23 carries only RUD. -/
def carriesFlosy (s : State) (h : Flosy) : Bool :=
  let p := s.port (h.link / 4)
  decide (h.link < 64) && if h.roce then bitOf p.pcfg 7 && decide (h.conn < p.qps) && !bootLink s h.link
    else match p.pdcs[h.conn]? with
      | some .rud => true
      | some .rod => !bootLink s h.link
      | _ => false

/-! ### Commands (R417) -/

/-- The kinds of command that R417 tells apart. -/
inductive CmdKind where
  | regRd | attest | power | other
  deriving DecidableEq, Repr

/-- Whether a command is taken in the present boot state (R417, R420, R426). -/
def commandOk (s : State) (h : Flosy) (k : CmdKind) : Bool :=
  match s.dev.bootst with
  | 1 => true
  | 2 => (k == .regRd || k == .attest) && decide (h.link < 4)
  | 3 => k != .other
  | _ => false

/-- Sends a reply (R415). -/
def reply (s : State) (h : Flosy) (op stat : Nat) (data : List Byte) : State :=
  { s with replies := s.replies ++ [{ conn := h.conn, link := h.link, tag := h.tag, op := op, stat := stat, data := data }] }

/-- The connection of the last command received on link 0 is kept for the notice of a trip (R426). -/
def noteLink0 (s : State) (h : Flosy) : State := if h.link = 0 then s.updDev fun d => { d with lastLink0 := h.conn } else s

/-- Whether two messages came from one connection. -/
def sameConn (a b : Flosy) : Bool := a.conn == b.conn && a.link == b.link && a.roce == b.roce

/-- Whether a command of a connection is still unfinished: a disable or a POWER, or one that waits for such a one (R417, R424). -/
def connBusy (s : State) (h : Flosy) : Bool :=
  (s.queues.any fun e => e.2.waiters.any (sameConn h)) || (s.dev.hostq.any fun e => sameConn h e.1) || (s.dev.powerq.any fun e => sameConn h e.2.2)
    || (match s.dev.power with
      | some p => sameConn h p.2.2.2
      | none => false)

/-- A command: performed in its turn among its connection's, refused with status 1 in the wrong boot state (R417). What does not come
over a connection that carries Flosy is no command. -/
def command (s : State) (i : HostCmd) (h : Flosy) (op : Nat) (k : CmdKind) (f : State → State) : State :=
  if !carriesFlosy s h then s
  else
    let s := noteLink0 s h
    if connBusy s h then s.updDev fun d => { d with hostq := d.hostq ++ [(h, i)] }
    else if commandOk s h k then f s else reply s h op 1 []

end Sys2Proof.Machine
end

