-- ==== Sys2Proof/Machine/Image.lean ====
section
/-! DEFINITION. Pattern images (R123 to R126): reading an image's words as a pattern and its validation, in the order of
R126. A reserved field that the tables do not call zero is ignored (R5). -/

namespace Sys2Proof.Machine
open Sys2Proof

/-! ### Words of an image (R4, R123) -/

/-- The little-endian words of a byte list. -/
def wordsOf : List Byte → List Word
  | a :: b :: c :: d :: t => wordOfBytes [a, b, c, d] :: wordsOf t
  | _ => []

/-- A word of an image, as a number. -/
def imgWord (ws : List Word) (i : Nat) : Nat := (ws.getD i 0).toNat

/-- The number that `n` consecutive words hold, the first lowest. -/
def imgNum (ws : List Word) (i : Nat) : Nat → Nat
  | 0 => 0
  | n + 1 => imgWord ws i + 2 ^ 32 * imgNum ws (i + 1) n

/-- `LEN` of an image's header (R123). -/
def imgLen (ws : List Word) : Nat := imgWord ws 4

/-! ### Reading (R123 to R125, R198, R199, R221, R338) -/

/-- The space of a code (R198). -/
def spaceOfCode : Nat → Space
  | 0 => .scratch
  | 1 => .slice
  | 2 => .device
  | 3 => .peer
  | _ => .exchange

/-- A window descriptor (R198, R199); all zero is an undescribed window. -/
def readWindow (v : Nat) : Window :=
  let sp := spaceOfCode (field v 2 0)
  if v = 0 then {}
  else
    { described := true, space := sp, rd := bitOf v 3, wr := bitOf v 4, at_ := bitOf v 5, swz := field v 7 6
      cwe := bitOf v 8, ord := bitOf v 9, lset := bitOf v 10, hv := bitOf v 11, hslot := field v 15 12
      cwn := field v 28 16, len := field v 63 32 + 1
      base := match sp with
        | .slice => field v 95 67 * 4
        | .exchange => 0
        | _ => field v 120 64
      level := if sp == .slice then field v 66 64 else 0
      dx := if sp == .exchange then signedOf 5 (field v 68 64) else 0
      dy := if sp == .exchange then signedOf 5 (field v 73 69) else 0
      peer := field v 141 128, roww := field v 167 160, rstr := field v 191 168 }

/-- A pair byte; an empty slot gives none (R338). -/
def readPair (b : Nat) : Option Pair :=
  if bitOf b 4 then none else some { cport := field b 3 0, kport := field b 6 5, result := bitOf b 7 }

/-- Byte `k` of a call-site descriptor. -/
def siteByte (v k : Nat) : Nat := field v (8 * k + 7) (8 * k)

/-- A call-site descriptor (R338). -/
def readSite (v : Nat) : Site :=
  let np := field v 19 16
  { cpid := field v 11 0
    members := (List.range (field v 14 12 + 1)).map fun j => (List.range np).filterMap fun q => readPair (siteByte v (4 + j * np + q)) }

/-- The words a node's image takes, header aside (R124). -/
def nodeWords (a : Nat) : Nat :=
  match kindOf (.panel 0 a) with
  | .nt => 46
  | .mxa => 62
  | .cv => 8
  | _ => 45

/-- The node records of a panel record from word `i` on (R124). -/
def readNodes (ws : List Word) (i : Nat) : Nat → List NodeRec
  | 0 => []
  | n + 1 =>
    let h := imgWord ws i
    { node := .panel 0 (field h 6 0), npl := bitOf h 7, words := (ws.drop (i + 1)).take (field h 15 8) }
      :: readNodes ws (i + 1 + field h 15 8) n

/-- The words that the node records of a panel record take, headers included. -/
def nodesSize (ws : List Word) (i : Nat) : Nat → Nat
  | 0 => 0
  | n + 1 => 1 + field (imgWord ws i) 15 8 + nodesSize ws (i + 1 + field (imgWord ws i) 15 8) n

/-- Word `j` of the `k`-th directory entry (R124). -/
def dirWord (ws : List Word) (k j : Nat) : Nat := imgWord ws (imgWord ws 8 / 4 + 4 * k + j)

/-- The `k`-th panel record (R124); `size` is the number of its words (R175). -/
def readPanel (ws : List Word) (k : Nat) : PanelRec :=
  let d := dirWord ws k 0
  let rtn := field d 31 16
  let nn := field (dirWord ws k 1) 15 0
  let off := dirWord ws k 2 / 4
  { dx := field d 7 0, dy := field d 15 8, routes := (ws.drop off).take rtn, nodes := readNodes ws (off + rtn) nn
    size := rtn + nodesSize ws (off + rtn) nn }

/-- The header of the `k`-th tree and port node record (R125). -/
def treeHead (ws : List Word) (k : Nat) : Nat := imgWord ws (imgWord ws 9 / 4 + 66 * k)

/-- The `k`-th tree and port node record (R125). -/
def readTree (ws : List Word) (k : Nat) : NodeRec :=
  let h := treeHead ws k
  { node := if field h 1 0 = 1 then .mg (field h 5 2) 0 (field h 7 6) else .pc (field h 5 2) (field h 7 6)
    npl := bitOf h 8, words := (ws.drop (imgWord ws 9 / 4 + 66 * k + 1)).take 65 }

/-- An image as a pattern (R123). -/
def readImage (ws : List Word) : Pattern :=
  { pid := field (imgWord ws 1) 27 16, fw := field (imgWord ws 2) 7 0, fh := field (imgWord ws 2) 15 8
    level := field (imgWord ws 2) 23 16, len := imgLen ws
    wins := (List.range (field (imgWord ws 2) 31 24)).map fun k => readWindow (imgNum ws (imgWord ws 5 / 4 + 8 * k) 8)
    sites := (List.range (field (imgWord ws 3) 7 0)).map fun k => readSite (imgNum ws (imgWord ws 6 / 4 + 16 * k) 16)
    handles := (List.range (field (imgWord ws 3) 15 8)).map fun k => imgNum ws (imgWord ws 7 / 4 + 2 * k) 2
    panels := (List.range (field (imgWord ws 3) 31 16)).map (readPanel ws)
    tnodes := (List.range (field (imgWord ws 11) 15 0)).map (readTree ws) }

/-! ### Order 1: header, directory, records (R123 to R125) -/

/-- Whether a section of `n` bytes lies at an offset: a multiple of 8, inside `LEN`, absent only when empty. -/
def sectionOk (len off n : Nat) : Bool :=
  if off = 0 then decide (n = 0) else decide (off % 8 = 0) && decide (off + n ≤ len)

/-- The header's checks (R123). -/
def headerOk (ws : List Word) (pid : Nat) : Bool :=
  let w := imgWord ws
  let nwin := field (w 2) 31 24
  let nsite := field (w 3) 7 0
  let nhdl := field (w 3) 15 8
  let npn := field (w 3) 31 16
  let ntn := field (w 11) 15 0
  let fw := field (w 2) 7 0
  let fh := field (w 2) 15 8
  decide (w 0 = 0x50374C56) && decide (field (w 1) 15 0 = 1) && decide (field (w 1) 27 16 = pid)
    && decide (1 ≤ fw) && decide (fw ≤ 16) && decide (1 ≤ fh) && decide (fh ≤ 16) && decide (field (w 2) 23 16 ≤ 6)
    && decide (nwin ≤ 16) && decide (nsite ≤ 16) && decide (nhdl ≤ 16) && decide (1 ≤ npn) && decide (npn ≤ fw * fh)
    && decide (64 ≤ w 4) && decide (w 4 ≤ 2 ^ 24) && decide (w 4 ≤ 4 * ws.length) && decide (ntn ≤ 64) && decide (field (w 11) 31 16 = 0)
    && decide (w 12 = 0) && decide (w 13 = 0) && decide (w 14 = 0) && decide (w 15 = 0)
    && sectionOk (w 4) (w 5) (32 * nwin) && sectionOk (w 4) (w 6) (64 * nsite) && sectionOk (w 4) (w 7) (8 * nhdl)
    && sectionOk (w 4) (w 8) (16 * npn) && sectionOk (w 4) (w 9) (264 * ntn)
    && (decide (w 10 = 0) || sectionOk (w 4) (w 10) 2176)

/-- The node records of a panel: addresses below 72, `NWORDS` of the kind, no node and plane twice (R124, R126). -/
def recordsOk (ns : List NodeRec) (heads : List Nat) : Bool :=
  decide ((ns.map fun r => (r.node, r.npl)).Nodup)
    && heads.all fun h => decide (field h 6 0 < 72) && decide (field h 15 8 = nodeWords (field h 6 0))

/-- The header words of the node records of a panel record. -/
def nodeHeads (ws : List Word) (i : Nat) : Nat → List Nat
  | 0 => []
  | n + 1 => imgWord ws i :: nodeHeads ws (i + 1 + field (imgWord ws i) 15 8) n

/-- One directory entry and its record (R124). -/
def panelOk (ws : List Word) (fw fh k : Nat) : Bool :=
  let r := readPanel ws k
  let rtn := field (dirWord ws k 0) 31 16
  let nn := field (dirWord ws k 1) 15 0
  decide (r.dx < fw) && decide (r.dy < fh) && decide (rtn ≤ 1024) && decide (nn ≤ 144)
    && sectionOk (imgLen ws) (dirWord ws k 2) (4 * r.size)
    && recordsOk r.nodes (nodeHeads ws (dirWord ws k 2 / 4 + rtn) nn)

/-- A tree and port record's header (R125). -/
def treeOk (h : Nat) : Bool :=
  match field h 1 0 with
  | 1 => decide (1 ≤ field h 5 2) && decide (field h 5 2 ≤ 7) && decide (field h 7 6 ≤ 1)
  | 2 => true
  | _ => false

/-- Order 1 of R126. -/
def shapeChecks (ws : List Word) (pid : Nat) (p : Pattern) : Bool :=
  headerOk ws pid && ((List.range p.panels.length).all fun k => panelOk ws p.fw p.fh k)
    && decide ((p.panels.map fun r => (r.dx, r.dy)).Nodup)
    && ((List.range p.tnodes.length).all fun k => treeOk (treeHead ws k))
    && decide ((p.tnodes.map fun r => (r.node, r.npl)).Nodup)

/-! ### Orders 2 and 3: slots and configuration words -/

/-- Every node record with the panel offset it stands at; tree and port records stand at the origin. -/
def allRecords (p : Pattern) : List (Nat × Nat × NodeRec) :=
  (p.panels.flatMap fun r => r.nodes.map fun n => (r.dx, r.dy, n)) ++ p.tnodes.map fun n => (0, 0, n)

/-- The valid slots of a record: index, T-word, A-word (R88, R90). -/
def recSlots (r : NodeRec) : List (Nat × Word × Word) :=
  if kindOf r.node == .cv then []
  else ((List.range 16).map fun k => (k, r.words.getD (2 * k) 0, r.words.getD (2 * k + 1) 0)).filter fun e => tV e.2.1

/-- Order 2 of R126: every valid slot's opcode is assigned and accepted by its node. -/
def opcodesOk (p : Pattern) : Bool :=
  (allRecords p).all fun e => (recSlots e.2.2).all fun k => decodeA (kindOf e.2.2.node) 0 k.2.2 != .error .illegalOpcode

/-- A T-word's checks (R90). -/
def tWordOk (w : Word) : Bool :=
  ((List.range 8).all fun k => tPM w k || !tPV w k) && (tTT w != 0 || tTP w == 0) && (tPE w || (tPX w == 0 && !tPVAL w))

/-- `MXC` of the matrix array of a panel offset in a letter, 0 without a record (R115). -/
def mxcAt (p : Pattern) (x y : Int) (npl : Bool) : Nat :=
  match p.panels.find? fun r => decide ((r.dx : Int) = x) && decide ((r.dy : Int) = y) with
  | some r => match r.nodes.find? fun n => n.node == .panel 0 70 && n.npl == npl with
    | some n => (n.words.getD 61 0).toNat
    | none => 0
  | none => 0

/-- Whether an edge of the matrix array at a panel offset is fed by chaining (R232). -/
def chainedEdge (p : Pattern) (x y : Int) (npl : Bool) : Edge → Bool
  | .west => bitOf (mxcAt p (x - 1) y npl) 4
  | .north => bitOf (mxcAt p x (y - 1) npl) 5

/-- What single instructions need of the words around them: a group that its panel is in, an edge that is not chained
(R114, R232). -/
def slotNeeds (p : Pattern) (x y : Nat) (r : NodeRec) : Instr → Bool
  | .nbar _ g => bitOf (r.words.getD 45 0).toNat g.toNat
  | .nred _ _ _ _ g => bitOf (r.words.getD 45 0).toNat g.toNat
  | .ldt _ e _ _ => !chainedEdge p x y r.npl e
  | .lde _ e _ _ => !chainedEdge p x y r.npl e
  | _ => true

/-- A valid slot's checks of order 3. -/
def slotOk (p : Pattern) (x y : Nat) (r : NodeRec) (k : Nat) (tw aw : Word) : Bool :=
  decide (k < slotCount r.node) && tWordOk tw && (match decodeA (kindOf r.node) 0 aw with
    | .ok i => slotNeeds p x y r i
    | .error _ => false)

/-- A cv word's checks (R117). -/
def cvWordOk (f : Nat) (w : Word) : Bool :=
  !bitOf w.toNat 0 || (decide (field w.toNat 3 1 ≠ f) && decide (field w.toNat 6 4 ≤ 4) && decide (f < 6))

/-- The configuration words of a record (R109, R113 to R117). -/
def configOk (r : NodeRec) : Bool :=
  match kindOf r.node with
  | .cv => (List.range 8).all fun f => cvWordOk f (r.words.getD f 0)
  | k =>
    ((List.range 4).all fun j => decide (iwExpect (r.words.getD (32 + j) 0) ≠ 3))
      && decide (field (r.words.getD 44 0).toNat 2 0 ≤ 4)
      && (!(k == .mg || k == .pc) || decide ((r.words.getD 46 0).toNat ≤ (r.words.getD 47 0).toNat))

/-- Order 3 of R126. -/
def wordsOk (p : Pattern) : Bool :=
  (allRecords p).all fun e => configOk e.2.2 && (recSlots e.2.2).all fun k => slotOk p e.1 e.2.1 e.2.2 k.1 k.2.1 k.2.2

/-! ### Order 4: routes (R111, R112, R115, R116, R232, R240, R340, R409) -/

/-- The route table a record's route words name. -/
def recTable (p : Pattern) (x y : Nat) (r : NodeRec) : List Word :=
  match r.node with
  | .panel _ _ => (panelRec p x y).routes
  | _ => (r.words.drop 49).take 16

/-- The panel offset that a panel entry names, from a sender at an offset or from the origin for a tree or port node
(R112). -/
def entryPanel (tree : Bool) (x y v : Nat) : Int × Int :=
  if tree then (field v 29 25, field v 24 20) else ((x : Int) + signedOf 5 (field v 29 25), (y : Int) + signedOf 5 (field v 24 20))

/-- Whether an entry names an in-port of a matrix array that chaining feeds in a letter (R232). -/
def namesChained (p : Pattern) (tree : Bool) (x y : Nat) (npl : Bool) (v : Nat) : Bool :=
  let q := entryPanel tree x y v
  decide (field v 31 30 = 0) && decide (field v 19 13 = 70) && ((decide (field v 12 11 = 0) && chainedEdge p q.1 q.2 npl .west)
    || (decide (field v 12 11 = 1) && chainedEdge p q.1 q.2 npl .north))

/-- The letters of the planes that send through entry `k` of a panel's table; both, when no wired route word names it. -/
def entryLetters (p : Pattern) (x y k : Nat) : List Bool :=
  let covers (w : Word) : Bool := rwWired w && decide (rwBase w ≤ k) && decide (k < rwBase w + rwCount w)
  let uses (npl : Bool) : Bool := (panelRec p x y).nodes.any fun r => r.npl == npl && kindOf r.node != .cv
    && (((r.words.drop 36).take 4).any covers || (kindOf r.node == .mxa && ((r.words.drop 45).take 16).any covers))
  let ls := [false, true].filter uses
  if ls.isEmpty then [false, true] else ls

/-- An image entry's own checks, for the letters that send through it (R112, R232, R409). -/
def entryOk (p : Pattern) (tree : Bool) (x y : Nat) (ls : List Bool) (e : Word) : Bool :=
  let v := e.toNat
  let q := entryPanel tree x y v
  !bitOf v 10 && !(ls.any fun l => namesChained p tree x y l v) && (match field v 31 30 with
    | 0 => decide (field v 19 13 < 72) && decide (0 ≤ q.1) && decide (q.1 < p.fw) && decide (0 ≤ q.2) && decide (q.2 < p.fh)
    | 1 => decide (field v 29 27 ≠ 0)
    | 2 => decide (field v 12 11 ≠ 3)
    | _ => false)

/-- The target of a named entry has a record in the letter of the plane that names it (R112). -/
def targetOk (p : Pattern) (tree : Bool) (x y : Nat) (npl : Bool) (e : Word) : Bool :=
  let v := e.toNat
  let q := entryPanel tree x y v
  match field v 31 30 with
  | 0 => p.panels.any fun r => decide ((r.dx : Int) = q.1) && decide ((r.dy : Int) = q.2)
        && r.nodes.any fun n => n.node == .panel 0 (field v 19 13) && n.npl == npl
  | 1 => p.tnodes.any fun n => n.node == .mg (field v 29 27) 0 (field v 26 26) && n.npl == npl
  | _ => p.tnodes.any fun n => n.node == .pc (field v 29 26) (field v 24 23) && n.npl == npl

/-- A route word's checks: unwired it is all zero, wired its entries lie in the table and their targets exist (R111). -/
def routeOk (p : Pattern) (x y : Nat) (r : NodeRec) (w : Word) : Bool :=
  let tb := recTable p x y r
  let tree := match r.node with
    | .panel _ _ => false
    | _ => true
  if !rwWired w then decide (field w.toNat 14 0 = 0)
  else decide (rwBase w + rwCount w ≤ (if tree then 16 else min tb.length 1008))
    && ((List.range (rwCount w)).all fun j => targetOk p tree x y r.npl (tb.getD (rwBase w + j) 0))

/-- A drain route's checks: unchecked when unwired, else four consumers and no scaler (R115, R240). -/
def drainOk (p : Pattern) (x y : Nat) (r : NodeRec) (w : Word) : Bool :=
  !rwWired w || (decide (rwCount w = 4) && !rwScale w && routeOk p x y r w)

/-- Whether a valid slot chains its tile (R115). -/
def chains (r : NodeRec) : Bool :=
  (recSlots r).any fun k => match decodeA .mxa 0 k.2.2 with
    | .ok (.mma _ _ _ c) => c
    | .ok (.mmas _ _ _ _ c) => c
    | _ => false

/-- The routes of one record. -/
def recRoutesOk (p : Pattern) (x y : Nat) (r : NodeRec) : Bool :=
  match kindOf r.node with
  | .cv => true
  | k =>
    ((List.range 4).all fun j => routeOk p x y r (r.words.getD (36 + j) 0))
      && (k != .mxa || (((List.range 16).all fun j => drainOk p x y r (r.words.getD (45 + j) 0))
          && (!chains r || decide (field (r.words.getD 61 0).toNat 5 4 ≠ 0))))
      && (k != .pc || !rwWired (r.words.getD 39 0))
      && (!(k == .mg || k == .pc) || ((r.words.drop 49).take 16).all fun e => entryOk p true 0 0 [r.npl] e)

/-- Order 4 of R126. -/
def routesOk (p : Pattern) : Bool :=
  (p.panels.all fun r => decide (r.routes.length ≤ 1008) && r.routes.zipIdx.all fun e => entryOk p false r.dx r.dy (entryLetters p r.dx r.dy e.2) e.1)
    && (allRecords p).all fun e => recRoutesOk p e.1 e.2.1 e.2.2

/-! ### Orders 5 to 7: windows, call sites, handles -/

/-- A window descriptor's checks (R198, R199, R267, R270). -/
def windowOk (nh v : Nat) : Bool :=
  let sp := field v 2 0
  let len := field v 63 32 + 1
  let base := field v 120 64
  decide (v = 0) ||
  (decide (sp ≤ 4) && decide (field v 7 6 ≠ 3) && (decide (field v 7 6 = 0) || decide (sp = 0))
    && (!bitOf v 8 || (decide (16 ≤ field v 28 16) && decide (field v 28 16 ≤ 4096)))
    && (if bitOf v 11 then decide (sp = 2) && !bitOf v 4 && decide (field v 15 12 < nh) else decide (field v 15 12 = 0))
    && decide (field v 31 29 = 0) && decide (field v 127 121 = 0) && decide (field v 159 142 = 0) && decide (field v 255 192 = 0)
    && (decide (sp = 3) || decide (field v 141 128 = 0))
    && (match spaceOfCode sp with
      | .scratch => decide (base % 128 = 0) && decide (base + len ≤ 2 ^ 17)
      | .slice => decide (1 ≤ base % 8) && decide (base < 2 ^ 32) && decide (base / 8 * 4 + len ≤ splitSize (base % 8))
      | .exchange => decide (base < 2 ^ 10) && decide (len ≤ 8192)
      | _ => bitOf v 11 || (decide (base % 4 = 0) && decide (base + len ≤ 2 ^ 57))))

/-- A call-site descriptor's checks (R338). -/
def siteOk (v : Nat) : Bool :=
  let np := field v 19 16
  let nm := field v 14 12 + 1
  let used := np * nm
  let ps := (readSite v).members.flatten
  decide (field v 15 15 = 0) && decide (field v 31 20 = 0) && decide (used ≤ 60)
    && ((List.range 60).all fun k => let b := siteByte v (4 + k); if k < used then !bitOf b 4 || decide (b = 16) else decide (b = 0))
    && ((List.range 4).all fun k =>
      decide ((ps.filter fun q => !q.result && q.kport == k).length ≤ 4) && decide ((ps.filter fun q => q.result && q.kport == k).length ≤ 1))

/-- A handle entry's checks (R221). -/
def handleOk (v : Nat) : Bool := decide (v < 2 ^ 57) && decide (v % 128 = 0)

/-- VALIDATION (R126): the pattern of an image, or the cause of the first check that fails. -/
def validateImage (ws : List Word) (pid : Nat) : Except Cause Pattern :=
  let p := readImage ws
  if !headerOk ws pid then .error .packetMalformed
  else if !shapeChecks ws pid p then .error .packetMalformed
  else if !opcodesOk p then .error .illegalOpcode
  else if !wordsOk p then .error .operandReserved
  else if !routesOk p then .error .portUnwired
  else if !((List.range p.wins.length).all fun k => windowOk p.handles.length (imgNum ws (imgWord ws 5 / 4 + 8 * k) 8)) then .error .windowAccess
  else if !((List.range p.sites.length).all fun k => siteOk (imgNum ws (imgWord ws 6 / 4 + 16 * k) 16)) then .error .callsiteInvalid
  else if !(p.handles.all handleOk) then .error .layerShape
  else .ok p

end Sys2Proof.Machine
end

