-- ==== Sys2Proof/Machine/Queue.lean ====
section
/-! DEFINITION. The queue unit (R309 to R327, R330, R336, R427): which queue it serves, packet checks, what each packet
does at dispatch, and completion. -/

namespace Sys2Proof.Machine
open Sys2Proof

/-! ### Packets (R313 to R315) -/

/-- `PTYPE`. -/
def pkType (v : Nat) : Nat := field v 7 0
/-- `B`. -/
def pkB (v : Nat) : Bool := bitOf v 8
/-- `AP`. -/
def pkAp (v : Nat) : Bool := bitOf v 9
/-- `PCL`. -/
def pkCls (v : Nat) : Nat := field v 11 10
/-- `CSIG`. -/
def pkCsig (v : Nat) : Nat := field v 120 64

/-- `BSIG0` to `BSIG3` of a BARRIER. -/
def pkSigs (v : Nat) : List Nat := [field v 184 128, field v 248 192, field v 312 256, field v 376 320]

/-- `FWID` of field i of a LAUNCH. -/
def pkWidth (v i : Nat) : Nat := field v (148 + 5 * (i - 1)) (144 + 5 * (i - 1))

/-- `FEXT` of field i of a LAUNCH. -/
def pkExtent (v i : Nat) : Nat := field v (287 + 32 * (i - 1)) (256 + 32 * (i - 1))

/-- Whether every named range of a packet is zero. -/
def zeros (v : Nat) (rs : List (Nat × Nat)) : Bool := rs.all fun r => field v r.1 r.2 == 0

/-- The reserved bits of a packet are zero, by type (R313, R314, R315). -/
def pkReserved (v : Nat) : Bool :=
  zeros v [(63, 12), (127, 121)] &&
  (match pkType v with
  | 0 => true
  | 2 => zeros v [(191, 185), (255, 249), (319, 313), (383, 377), (511, 416)]
  | 3 => zeros v [(191, 185), (255, 249), (319, 304), (511, 384)]
  | 4 => zeros v [(191, 185), (511, 256)]
  | 5 => zeros v [(191, 185), (511, 204)]
  | _ => zeros v [(143, 143), (191, 174), (511, 448)]
      && (List.range 6).all fun j => decide (j < field v 142 140) || (pkWidth v (j + 1) == 0 && pkExtent v (j + 1) == 0))

/-- The VAs of a packet are aligned (R314, R315); a COPY of several rows needs aligned strides. -/
def pkAligned (v : Nat) : Bool :=
  decide (pkCsig v % 8 = 0) &&
  (match pkType v with
  | 2 => (pkSigs v).all fun a => decide (a % 8 = 0)
  | 3 => decide (field v 184 128 % 4 = 0) && decide (field v 248 192 % 4 = 0)
      && (decide (field v 303 288 = 0) || (decide (field v 351 320 % 4 = 0) && decide (field v 383 352 % 4 = 0)))
  | 4 => decide (field v 184 128 % 8 = 0)
  | 5 => decide (field v 184 128 % 64 = 0)
  | _ => true)

/-- A packet's form (R315); `host` says that it stands in a host queue. -/
def pkWellFormed (host : Bool) (v : Nat) : Bool :=
  decide (pkType v ≤ 6) && !(host && pkType v == 6) && pkReserved v && pkAligned v
    && !(pkType v == 2 && (pkSigs v).all (· == 0))
    && !(pkType v == 3 && (field v 287 256 == 0 || decide (field v 287 256 % 4 ≠ 0)))

/-- The work header of a LAUNCH (R33, R34, R323), with no field fixed. Field 1 lies highest in `WID`. -/
def pkWork (v : Nat) : Work :=
  let nf := field v 142 140
  let ws := (List.range nf).map fun j => pkWidth v (j + 1) + 1
  { nf := nf, widths := ws
    origins := (List.range nf).map fun j => field v 255 192 / 2 ^ (ws.drop (j + 1)).sum % 2 ^ (ws.getD j 1)
    extents := (List.range nf).map fun j => pkExtent v (j + 1) }

/-- The header's checks, but for the pattern's level (R33). -/
def workOk (v : Nat) (w : Work) : Bool :=
  decide (1 ≤ w.nf) && decide (w.nf ≤ 6) && decide (w.widths.sum ≤ 64) && decide (field v 255 192 / 2 ^ w.widths.sum = 0)
    && (List.range w.nf).all fun j =>
      decide (1 ≤ w.extents.getD j 0) && decide (w.origins.getD j 0 + w.extents.getD j 0 ≤ 2 ^ w.widths.getD j 1)

/-- The number of instances of a launch (R34). -/
def instCount (w : Work) (k : Nat) : Nat := (w.extents.take k).foldl (· * ·) 1

/-- The faults of a packet before its work starts, in the order of R315 and R319. -/
def packetFault (s : State) (host : Bool) (c v : Nat) : Option Cause :=
  let launch := pkType v == 1 || pkType v == 6
  let w := pkWork v
  if !pkWellFormed host v then some .packetMalformed
  else if launch && !workOk v w then some .launchInvalid
  else if (s.ctx c).maxcls < pkCls v then some .priorityInvalid
  else if !launch then none
  else match mget? (s.ctx c).pats (field v 139 128) with
    | none => some .patternAbsent
    | some p =>
      match partRect (s.part (partOf s c)) with
      | none => some .launchInvalid
      | some r =>
        if w.nf < p.level ∨ 2 ^ 32 < instCount w p.level ∨ r.2.2.1 < p.fw ∨ r.2.2.2 < p.fh then some .launchInvalid else none

/-! ### Which packet is next (R316, R326, R330) -/

/-- The packet at a queue's `DISP`, if its slot can be read. -/
def nextPacket (s : State) (q : Queue) : State × Except Cause Nat :=
  match readCtx s q.ctx (slotVa q q.disp) 64 with
  | (s, .ok bs) => (s, .ok (leNat bs))
  | (s, .error e) => (s, .error e)

/-- A VF that may dispatch: valid and not descheduled (R388, R398). -/
def vfDispatches (s : State) (c : Nat) : Bool := bitOf (s.vf (s.ctx c).vf).cfg 7 && !descheduled s c

/-- Whether a packet of an aborted queue is skipped (R322). -/
def skipped (q : Queue) (v : Nat) : Bool := q.state == 2 && pkAp v

/-- A launch that a handler has ended and that has still to abort its queue (R319, R375). -/
def Run.terminated (r : Run) : Bool := decide (r.kind = .launch 0 0) && r.cause.isSome

/-- Whether a terminated launch of a queue has still to abort it. -/
def abortPending (s : State) (k : Nat) : Bool := s.runs.any fun e => e.2.terminated && (match e.2.src with
  | .queue j _ => j == k
  | .spawn _ => false)

/-- Whether a queue is ready (R316, R326). -/
def queueReady (s : State) (k : Nat) (q : Queue) : Bool :=
  q.res && !abortPending s k && !q.disabling && (q.state == 1 || q.state == 2) && decide (q.disp < q.tail) && vfDispatches s q.ctx
    && (match (nextPacket s q).2 with
      | .error _ => true
      | .ok v => (!pkB v || decide (q.prog = q.disp)) && (skipped q v || limiterOpen s q.ctx 2))

/-- The class at which a context's spawn queue takes part: its oldest packet's, or what that queue inherits (R326,
R327). -/
def spawnCls (s : State) (c : Nat) : Nat :=
  let ps := (s.ctx c).spawns
  let sigs := ps.map fun p => pkCsig (leNat p.bytes)
  let raises := (s.runs.filter fun e => decide (e.2.ctx = c) && e.2.awaits.any fun a => sigs.contains a).map fun e => runCls s e.2
  raises.foldl max ((ps.head?.map (·.cls)).getD 0)

/-- Whether a context's spawn queue is ready (R325). -/
def spawnReady (s : State) (c : Nat) : Bool :=
  match (s.ctx c).spawns with
  | [] => false
  | p :: _ =>
    vfDispatches s c && limiterOpen s c 2 && (!pkB (leNat p.bytes) || !(s.runs.any fun e => decide (e.2.src = .spawn c)))

/-- The ready queues with their effective classes; queue k is 2k, context c's spawn queue 2c + 1. -/
def readyList (s : State) : List (Nat × Nat) :=
  ((s.queues.filter fun e => queueReady s e.1 e.2).map fun e => (2 * e.1, queueCls e.2))
    ++ ((s.ctxs.filter fun e => spawnReady s e.1).map fun e => (2 * e.1 + 1, spawnCls s e.1))

/-- The highest effective class among the ready queues. -/
def topClass (s : State) : Nat := ((readyList s).map (·.2)).foldl max 0

/-- The queue served next: of the highest class, the next in turn after the last that this class served (R326). -/
def servedNext (s : State) : Option Nat :=
  let top := topClass s
  let ks := ((readyList s).filter fun e => e.2 == top).map (·.1)
  match mget? s.rr top with
  | none => leastOf ks
  | some r => (leastOf (ks.filter fun k => decide (r < k))).or (leastOf ks)

/-- A queue takes its turn in its class, and the unit's next service is 4 cycles on (R316, R326). -/
def takeTurn (s : State) (k : Nat) : State := { s with dispAt := s.cycle + slowAt s 20 4, rr := mset s.rr (topClass s) k }

/-! ### Dispatch (R316, R317) -/

/-- A dispatch slot is used: one packet in 4 cycles, and 64 bytes of the VF's dispatch limiter (R316, R330). -/
def useSlot (s : State) (c k : Nat) : State := spend (takeTurn s k) c 2 64

/-- A packet of a queue is dispatched: `DISP` advances and its run begins; the run's number. -/
def startQueue (s : State) (k v : Nat) : State × Nat :=
  let q := mget s.queues k
  let r : Run := { ctx := q.ctx, src := .queue k q.disp, csig := pkCsig v, pcl := pkCls v }
  let s := updQueue (useSlot s q.ctx (2 * k)) k fun q => { q with disp := q.disp + 1 }
  ({ s.fresh with runs := mset s.runs s.ids r }, s.ids)

/-- A packet of a spawn queue is dispatched. -/
def startSpawn (s : State) (c v : Nat) : State × Nat :=
  let r : Run := { ctx := c, src := .spawn c, csig := pkCsig v, pcl := pkCls v }
  let s := (useSlot s c (2 * c + 1)).updCtx c fun x => { x with spawns := x.spawns.tail }
  ({ s.fresh with runs := mset s.runs s.ids r }, s.ids)

/-- What a dispatched packet does, unless a check faults it (R315, R319). -/
def runPacket (host : Bool) (v : Nat) (work : State → Nat → State) (x : State × Nat) : State :=
  let (s, id) := x
  inheritAll (match packetFault s host (mget s.runs id).ctx v with
    | some e => faultRun s id e
    | none => work s id)

/-- The queue unit serves queue `k`, when it is its turn and its next packet meets `want`; a slot that cannot be read stops
the queue (R427), which the event of a NOP stands for. -/
def dispatch (want : Nat → Bool) (unread : Bool) (work : Nat → State → Nat → State) (k : Nat) (s : State) : State :=
  if s.cycle < s.dispAt ∨ servedNext s ≠ some (2 * k) then s
  else
    let q := mget s.queues k
    match nextPacket s q with
    | (t, .error e) => if unread then updQueue (takeTurn t (2 * k)) k (qError 3 e q.disp) else s
    | (t, .ok v) => if skipped q v || !want v then s else runPacket true v (work v) (startQueue t k v)

/-- A NOP, and what stands for a packet of no known type, which is malformed (R315). -/
def execNopPacket (q : Nat) (s : State) : Res :=
  .next (dispatch (fun v => pkType v == 0 || decide (5 < pkType v)) true (fun _ s id => endRun s id) q s)

/-- The values of fields 1 to k for instance j, field k varying fastest (R34, R317). -/
def fixedOf (w : Work) (k j : Nat) : List Nat :=
  (List.range k).map fun i => w.origins.getD i 0 + j / ((w.extents.take k).drop (i + 1)).foldl (· * ·) 1 % w.extents.getD i 1

/-- The placement request of instance j of a launch (R324). -/
def launchReq (s : State) (id : Nat) (p : Pattern) (w : Work) (j : Nat) : Req :=
  let c := (mget s.runs id).ctx
  let r := (partRect (s.part (partOf s c))).getD (0, 0, 1, 1)
  { ctx := c, pat := p, for_ := .launch id, anchor := rectPanel r, age := s.cycle, work := { w with fixed := fixedOf w p.level j },
    st := .search (topLevel r), at_ := s.cycle + cutTime s (topLevel r) (rectPanel r) 16, letter := newLetter s c }

/-- A LAUNCH requests its instances in order (R317, R324). -/
def launchWork (v : Nat) (s : State) (id : Nat) : State :=
  match mget? (s.ctx (mget s.runs id).ctx).pats (field v 139 128) with
  | none => s
  | some p =>
    let w := pkWork v
    let n := instCount w p.level
    let rs : Map Nat Req := (List.range n).map fun j => (s.ids + j, launchReq s id p w j)
    { s with reqs := s.reqs ++ rs, ids := s.ids + n, runs := mupd s.runs id fun r => { r with kind := .launch 0 n } }

/-- LAUNCH (R317, R323, R324). -/
def execLaunch (q : Nat) (s : State) : Res := .next (dispatch (fun v => pkType v == 1) false launchWork q s)

/-- A BARRIER waits, and its first evaluation begins (R317, R320, R321). -/
def barrierWork (v : Nat) (s : State) (id : Nat) : State :=
  let bto := field v 415 384
  let dl := if bto = 0 then none else some (s.cycle + bto * 1024)
  let s := { s with runs := mupd s.runs id fun r => { r with kind := .barrier ((pkSigs v).filter (· != 0)) dl } }
  evalBarrier s id

/-- BARRIER (R317, R321). -/
def execBarrier (q : Nat) (s : State) : Res := .next (dispatch (fun v => pkType v == 2) false barrierWork q s)

/-- The device window that a queue copy engine reads or writes at a VA. -/
def vaWindow (va : Nat) : Window := { described := true, space := .device, rd := true, wr := true, len := 2 ^ 57, base := va }

/-- A COPY goes to a queue copy engine, which moves it at the device-memory rate: its first bytes 1,024 cycles on, at the point of its
island (R219, R317, R423). -/
def copyPacketWork (v : Nat) (s : State) (id : Nat) : State :=
  let c := (mget s.runs id).ctx
  let k := s.copyNext % 4
  let j : CopyJob :=
    { op := id, run := id, issued := s.cycle + slow s (.mg 6 k 0) 1024, ctx := c, swin := vaWindow (field v 184 128), dwin := vaWindow (field v 248 192), clen := field v 287 256,
      rows := field v 303 288 + 1, sstr := field v 351 320, dstr := field v 383 352, started := true }
  { s with copyNext := (k + 1) % 4, qcopies := mupd s.qcopies k fun l => l ++ [(id, j)],
           runs := mupd s.runs id fun r => { r with kind := .copy k } }

/-- COPY (R317). -/
def execCopy (q : Nat) (s : State) : Res := .next (dispatch (fun v => pkType v == 3) false copyPacketWork q s)

/-- A SIGNAL adds and is done; a page that refuses the add faults it (R317, R427). -/
def signalWork (v : Nat) (s : State) (id : Nat) : State :=
  match signalOp s (mget s.runs id).ctx (field v 184 128) .atomic (· + signedOf 64 (field v 255 192)) with
  | (s, some e) => faultRun s id e
  | (s, none) => endRun s id

/-- SIGNAL (R317). -/
def execSignal (q : Nat) (s : State) : Res := .next (dispatch (fun v => pkType v == 4) false signalWork q s)

/-- Enters a validated pattern in a context's table in place of an earlier one, which no cache keeps (R317, R342). -/
def enterPattern (s : State) (c pid : Nat) (p : Pattern) : State :=
  let n := (s.ctx c).patVer + 1
  let s := s.updCtx c fun x => { x with patVer := n, pats := mset x.pats pid { p with ver := n } }
  { s with pcache := mmap s.pcache fun _ es => es.filter fun e => e != (c, pid)
           fetches := s.fetches.filter fun e => !(decide (e.2.1 = c) && decide (e.2.2.1 = pid)) }

/-- The bytes of an image: its header, and the rest when its length is legal (R123). -/
def readImageBytes (s : State) (c va : Nat) : State × Except Cause (List Byte) :=
  match readCtx s c va 64 with
  | (s, .error e) => (s, .error e)
  | (s, .ok h) =>
    let n := imgLen (wordsOf h)
    if n < 64 ∨ 2 ^ 24 < n then (s, .ok h) else readCtx s c va n

/-- A PATTERN validates its image and enters it (R126, R317, R427). -/
def patternWork (v : Nat) (s : State) (id : Nat) : State :=
  let c := (mget s.runs id).ctx
  let pid := field v 203 192
  match readImageBytes s c (field v 184 128) with
  | (s, .error e) => faultRun s id e
  | (s, .ok bs) =>
    match validateImage (wordsOf bs) pid with
    | .error e => faultRun s id e
    | .ok p => endRun (enterPattern s c pid p) id

/-- PATTERN (R317). -/
def execPattern (q : Nat) (s : State) : Res := .next (dispatch (fun v => pkType v == 5) false patternWork q s)

/-- SPAWNED (R325): a context's spawn queue is served. -/
def execSpawned (c : Nat) (s : State) : Res :=
  .next (if s.cycle < s.dispAt ∨ servedNext s ≠ some (2 * c + 1) then s
    else match (s.ctx c).spawns with
      | [] => s
      | p :: _ =>
        let v := leNat p.bytes
        runPacket false v (launchWork v) (startSpawn s c v))

/-! ### Skips (R322, R336) -/

/-- Whether an ended packet of a source still waits for its completion write. -/
def writesPending (s : State) (src : RunSrc) : Bool :=
  s.runs.any fun e => e.2.ended && (match e.2.src, src with
    | .queue a _, .queue b _ => a == b
    | .spawn a, .spawn b => a == b
    | _, _ => false)

/-- PACKET_SKIP (R322, R336): in an aborted queue a packet with `AP` writes −1 and counts as complete, whatever its checks
say, after the completion writes of its queue that come before it. -/
def execPacketSkip (q : Nat) (s : State) : Res :=
  .next (if s.cycle < s.dispAt ∨ servedNext s ≠ some (2 * q) ∨ writesPending s (.queue q 0) = true then s
    else
      let v := mget s.queues q
      match nextPacket s v with
      | (_, .error _) => s
      | (t, .ok w) =>
        if !skipped v w then s
        else
          let t := takeTurn t (2 * q)
          let t := if pkCsig w = 0 then t else minusOne t v.ctx (pkCsig w)
          inheritAll (updQueue t q fun x => qComplete v.disp { x with disp := v.disp + 1 }))

/-! ### Barriers (R320, R321) -/

/-- BARRIER_PERIODIC_EVALUATION (R320, R321): evaluations in progress read on; once every 65,536 cycles every waiting barrier is
evaluated anew. -/
def execBarrierPeriodicEvaluation (s : State) : Res :=
  .next (if s.cycle < s.barEval + 65536 then readAll s else evalAll { s with barEval := s.cycle })

/-- BARRIER_TIMEOUT (R321). -/
def execBarrierTimeout (run : Nat) (s : State) : Res :=
  .next (match (mget s.runs run).kind with
    | .barrier _ (some d) => if s.cycle < d || (mget s.runs run).ended then s else inheritAll (faultRun s run .barrierTimeout)
    | _ => s)

/-! ### COPY packets (R218, R317, R319) -/

/-- The copy of engine `e` moves its next chunk not before a cycle, 16 bytes in one of its island (R219, R317, R423). -/
def nextChunk (s : State) (e was : Nat) (j : CopyJob) : CopyJob := { j with issued := s.cycle + slow s (.mg 6 e 0) ((j.pos - was + 15) / 16) }

/-- A queue copy engine moves the next chunk of its oldest copy; a fault stops that copy (R317, R319, R330). -/
def queueCopyWork (s : State) (e : Nat) : State :=
  match mget s.qcopies e with
  | [] => s
  | (id, j) :: t =>
    if copyBytes j ≤ j.pos ∨ s.cycle < j.issued ∨ copyPasses s j = false
        ∨ linkServes s (copyServer s j) j.op = false then s
    else match moveChunk s (0, none) (0, none) j with
      | (r, .ok j') => useLink s (copyServer s j) { r with qcopies := mset r.qcopies e ((id, nextChunk r e j.pos j') :: t) }
      | (s, .error none) => s
      | (s, .error (some (c, _))) => faultRun { s with qcopies := mset s.qcopies e t } id c.1

/-- COPY_PACKET_COMPLETE (R317): every byte of a COPY packet has performed. -/
def execCopyPacketComplete (run : Nat) (s : State) : Res :=
  .next (match (mget s.runs run).kind with
    | .copy k =>
      match mget s.qcopies k with
      | [] => s
      | (id, j) :: t => if id = run ∧ copyBytes j ≤ j.pos then endRun { s with qcopies := mset s.qcopies k t } run else s
    | _ => s)

/-! ### Completion writes (R318, R319, R336) -/

/-- Whether an ended packet of the same queue comes before a run in the order of completion (R336). -/
def endedBefore (s : State) (r : Run) : Bool :=
  s.runs.any fun e => e.2.ended && decide (e.2.seq < r.seq) && (match e.2.src, r.src with
    | .queue a _, .queue b _ => a == b
    | .spawn a, .spawn b => a == b
    | _, _ => false)

/-- Work that a launch has placed and that has still to perform: accesses, copies with their signal adds, and presses (R318, R319,
R335). -/
def workLeft (s : State) (run : Nat) : Bool :=
  (s.accs.any fun e => decide (e.2.run = run))
    || (s.nodes.any fun e => (e.2.pa.copies ++ e.2.pb.copies).any fun j => decide (j.run = run))
    || s.presses.any fun e => e.2.any fun p => decide (p.run = run)

/-- COMPLETION_ADD (R318, R319, R325, R336): an ended packet's `CSIG` is written once all its work has performed or stopped, and the
packet counts as complete. -/
def execCompletionAdd (run : Nat) (s : State) : Res :=
  let r := mget s.runs run
  .next (if !r.ended || endedBefore s r || workLeft s run || (r.csig != 0 && !eventFree s r.ctx) then s
    else
      let s := match r.cause with
        | some c => if r.terminated then abortQueue s r.src c else s
        | none => s
      packetDone (csigWrite s r) run)

end Sys2Proof.Machine
end

