-- ==== Sys2Proof/Machine/Tenancy.lean ====
section
/-! DEFINITION. Partitions, virtual functions and rolling replacement (R387 to R399). -/

namespace Sys2Proof.Machine
open Sys2Proof

/-! ### Partition rectangles (R387 to R389) -/

/-- The fields of `PRECT` that are not reserved. -/
def prectMask (v : Nat) : Nat := v % 2 ^ 28 + (bitOf v 31).toNat * 2 ^ 31

/-- The panels of a `PRECT` value, none when it is not valid. -/
def prectPanels (v : Nat) : List Nat :=
  match partRect { prect := v } with
  | some r => rectPanels (rectPanel r) r.2.2.1 r.2.2.2
  | none => []

/-- Whether a `PRECT` value lies within the mesh. -/
def prectFits (v : Nat) : Bool :=
  !bitOf v 31 || (decide (field v 6 0 + field v 20 14 ≤ 127) && decide (field v 13 7 + field v 27 21 ≤ 127))

/-- Whether two `PRECT` values name a common panel. -/
def prectMeet (a b : Nat) : Bool :=
  match partRect { prect := a }, partRect { prect := b } with
  | some x, some y =>
    decide (x.1 < y.1 + y.2.2.1) && decide (y.1 < x.1 + x.2.2.1) && decide (x.2.1 < y.2.1 + y.2.2.2) && decide (y.2.1 < x.2.1 + x.2.2.2)
  | _, _ => false

/-- Whether a letter of a panel is held or claimed. -/
def panelHeld (s : State) (p : Nat) : Bool := (s.side p .a).hold != .free || (s.side p .b).hold != .free

/-- Whether an instance that a ring has saved into its switch area holds a panel still (R388, R393). -/
def panelSaved (s : State) (p : Nat) : Bool :=
  s.insts.any fun e => e.2.st == .saved && !(s.ctx e.2.ctx).preempt && (rectPanels e.2.origin e.2.pat.fw e.2.pat.fh).contains p

/-- Whether every panel that a change adds or removes is free (R388). -/
def changeFree (s : State) (old new : Nat) : Bool :=
  let a := prectPanels old
  let b := prectPanels new
  ((a.filter fun p => !b.contains p) ++ b.filter fun p => !a.contains p).all fun p => !panelHeld s p && !panelSaved s p

/-- The value a partition's `PRECT` has or is being given. -/
def prectNext (v : Part) : Nat := match v.rewrite with
  | some (w, _) => w
  | none => v.prect

/-- A write of `PRECT` (R388, R389): refused, with nothing changed, or taking effect once the selvage routers are rewritten. -/
def prectSet (s : State) (pt v : Nat) : Except Nat State :=
  let w := prectMask v
  let old := s.part pt
  let meets := (List.range 64).any fun q => q != pt && (prectMeet w (prectNext (s.part q)) || prectMeet w (s.part q).prect)
  if !prectFits w || meets || !changeFree s old.prect w || old.rewrite.isSome then .error 1
  else if w = old.prect then .ok s
  else .ok { s with parts := mset s.parts pt { old with rewrite := some (w, s.cycle + 256) } }

/-- Answers a register write. -/
def answerSet (s : State) (h : Flosy) (r : Except Nat State) : State :=
  match r with
  | .ok t => reply t h 2 0 []
  | .error e => reply s h 2 e []

/-- PRECT_WRITE (R388). -/
def execPrectWrite (h : Flosy) (pt : Nat) (v : BitVec 64) (s : State) : Res :=
  .next (command s (.prectWrite pt v) h 2 .other fun s => if pt < 64 then answerSet s h (prectSet s pt v.toNat) else reply s h 2 2 [])

/-- Every switch of the tree, with its level. -/
def allSwitches : List (Nat × Nat) := (List.range 7).flatMap fun j => (List.range (4 ^ (6 - j))).map fun w => (j + 1, w)

/-- Firmware splits one bank, unless a context claims it; it is then split as its last claim ends (R391). -/
def splitBank (s : State) (k : Nat × Nat) : State :=
  if (mget s.banks k).ways.toList.any (·.claim.isSome) then s
  else { s with banks := mupd s.banks k fun b => { b with split := true } }

/-- Firmware splits the banks that must be, after a change of the partitions or of a ring (R391); one partition that shares nothing
needs none. -/
def firmSplit (s : State) : State :=
  let vs := (s.parts.map (·.2)).filter fun v => (partRect v).isSome
  if vs.length < 2 ∧ vs.any ringMany = false then s
  else (allSwitches.filter fun k => mustSplit s k.1 k.2).foldl splitBank s

/-- SELVAGE_REWRITE (R389): every rewrite is complete, and the change takes effect while its panels are still free. -/
def execSelvageRewrite (pt : Nat) (s : State) : Res :=
  let v := s.part pt
  .next (match v.rewrite with
    | none => s
    | some (w, due) =>
      if s.cycle < due || !changeFree s v.prect w then s
      else firmSplit { s with parts := mset s.parts pt { v with prect := w, rewrite := none } })

/-- A write of `VFLIM` (R399): the level becomes the new burst, which is at least 1 (R387). -/
def vflimSet (s : State) (vf k v : Nat) : Except Nat State :=
  let b := field v 63 32
  if b = 0 then .error 1
  else .ok { s with vfs := mupd s.vfs vf fun x => { x with lims := x.lims.set (Fin.ofNat 3 k) { rate := v % 2 ^ 32, burst := b, level := b } } }

/-- VFLIM_WRITE (R399). -/
def execVflimWrite (h : Flosy) (vf k : Nat) (v : BitVec 64) (s : State) : Res :=
  .next (command s (.vflimWrite vf k v) h 2 .other fun s => if vf < 192 ∧ k < 3 then answerSet s h (vflimSet s vf k v.toNat) else reply s h 2 2 [])

/-! ### The ring (R393, R394) -/

/-- Whether a context belongs to a VF. -/
def ofVf (s : State) (vf c : Nat) : Bool := decide ((s.ctx c).vf = vf)

/-- The instances of a VF. -/
def instsOf (s : State) (vf : Nat) : List Nat := (s.insts.filter fun e => ofVf s vf e.2.ctx).map (·.1)

/-- Whether a queue has a packet that could be dispatched, its VF's turn apart. -/
def packetWaits (s : State) (vf : Nat) : Bool :=
  bitOf (s.vf vf).cfg 7
    && ((s.queues.any fun e => ofVf s vf e.2.ctx && e.2.res && !e.2.disabling && (e.2.state == 1 || e.2.state == 2)
          && decide (e.2.disp < e.2.tail) && (match (nextPacket s e.2).2 with
            | .error _ => true
            | .ok v => !pkB v || decide (e.2.prog = e.2.disp)))
      || s.ctxs.any fun e => ofVf s vf e.1 && !e.2.spawns.isEmpty)

/-- The instances of a VF that its slices run: those that a switch-out has saved wait for their context's switch-in (R393, R394). -/
def ringInsts (s : State) (vf : Nat) : List Nat :=
  (instsOf s vf).filter fun i => !((s.inst i).st == .saved && (s.ctx (s.inst i).ctx).preempt)

/-- A VF has work: an instance, a dispatchable packet or a withheld event (R393). -/
def vfWork (s : State) (vf : Nat) : Bool := !(ringInsts s vf).isEmpty || packetWaits s vf || !(s.vf vf).withheld.isEmpty

/-- The place of the next VF of a ring with work, after the running one; none when no other VF has work (R394). -/
def nextPlace (s : State) (v : Part) : Option Nat :=
  let r := ringOf v
  ((List.range 3).map fun j => (v.rcur + 1 + j) % 4).find? fun k =>
    r.getD k 255 != 255 && r.getD k 255 != r.getD v.rcur 255 && vfWork s (r.getD k 255)

/-- The running VF of a ring. -/
def runningVf (v : Part) : Nat := (ringOf v).getD v.rcur 255

/-- `VFSTAT` of a VF: idle, running, basted or descheduled, and how many events are withheld (R387). -/
def vfStat (s : State) (vf : Nat) : Nat :=
  let v := s.part (field (s.vf vf).cfg 5 0)
  let is := ringInsts s vf
  let st := if !bitOf (s.vf vf).cfg 7 || !vfWork s vf then 0
    else if !ringMany v || runningVf v == vf then 1
    else if !is.isEmpty && is.all fun i => (s.inst i).st == .live || (s.inst i).st == .cast then 2 else 3
  st + min (s.vf vf).withheld.length 1024 * 4

/-- A ring's slice clock has run out (R387, R394). -/
def sliceOver (s : State) (v : Part) : Bool :=
  decide (v.sliceFrom + max (field (s.vf (runningVf v)).cfg 31 8) 1 * 1024 ≤ s.cycle)

/-- SLICE_END (R394). -/
def execSliceEnd (pt : Nat) (s : State) : Res :=
  let v := s.part pt
  .next (if ringMany v && sliceOver s v then { s with parts := mset s.parts pt { v with ended := true } } else s)

/-! ### The ESL (R394, R395, R398) -/

/-- Performs a withheld event (R398); with a spawned child's completion write `SPUSED` falls (R325). -/
def releaseEvent (s : State) (w : Withheld) : State :=
  let less (s : State) (c : Nat) (sp : Bool) : State := if sp then spawnLess s c else s
  match w with
  | .add c va v sp => less (unitSignal s c va .atomic (· + v)) c sp
  | .peerAdd _ peer va v => peerSignal s peer va v
  | .minus1 c va sp => less (unitSignal s c va .write fun _ => -1) c sp
  | .trap id =>
    enqTrap s id (s.trap id)

/-- Performs every withheld event of a VF in order. -/
def releaseEvents (s : State) (vf : Nat) : State :=
  (s.vf vf).withheld.foldl releaseEvent { s with vfs := mupd s.vfs vf fun v => { v with withheld := [] } }

/-- The panels of a partition. -/
def partPanels (v : Part) : List Nat := prectPanels v.prect

/-- A plane that no ESL mark will move: halted, an ended sink, or of an instance that takes no mark (R394). -/
def deadPlane (s : State) (n : NodeId) (l : Letter) (p : Plane) : Bool :=
  savedDirect (s.inst p.inst) || (p.ops.isEmpty && (p.halted || endedSink s n l p))

/-- Whether a plane of a VF runs in a letter that is not a partition's running one: the ESL has still to reach it. -/
def sweeping (s : State) (pt : Nat) (l : Letter) (p : Plane) : Bool :=
  p.active && p.inst != 0 && decide (partOf s (s.inst p.inst).ctx = pt) && l != runLetter (s.part pt)

/-- Whether the previous ESL of a partition has emerged everywhere and every exchange is over. -/
def eslEmerged (s : State) (pt : Nat) : Bool :=
  (s.nodes.all fun e => !sweeping s pt .a e.2.pa && !sweeping s pt .b e.2.pb)
    && (partPanels (s.part pt)).all fun p => !(s.panel p).swapping

/-- Whether a VF's planes are basted in every panel it holds: none of its instances waits in its switch area (R394). -/
def vfBasted (s : State) (vf : Nat) : Bool := (ringInsts s vf).all fun i => (s.inst i).st == .live || (s.inst i).st == .cast

/-- Whether the letters of a ring's VFs other than the running one and `vf` are all saved: an earlier outgoing letter leaves before
the next ESL (R393, R394). -/
def othersSaved (s : State) (v : Part) (vf : Nat) : Bool :=
  (ringOf v).all fun w => w == 255 || w == vf || w == runningVf v || (instsOf s w).all fun i => match (s.inst i).st with
    | .saved => true
    | .cast => true
    | _ => false

/-- Makes a basted plane active where the outgoing letter has no plane that an ESL could reach (R394); it issues from the next
cycle. -/
def activateHere (s : State) (e : NodeId × Letter) : State :=
  let p := s.plane e.1 e.2
  if p.ready && !(s.plane e.1 e.2.other).active then s.setNode e.1 { swapTo e.1 s.cycle e.2 (s.node e.1) with lastIssue := some s.cycle } else s

/-- The planes of a VF's live instances. -/
def vfPlanes (s : State) (vf : Nat) : List (NodeId × Letter) :=
  s.nodes.flatMap fun e => [Letter.a, Letter.b].filterMap fun l =>
    let p := e.2.plane l
    if p.inst ≠ 0 ∧ ofVf s vf (s.inst p.inst).ctx = true then some (e.1, l) else none

/-- Takes stale ESL marks from the planes of a VF that is about to run. -/
def cleanPlanes (s : State) (vf : Nat) : State :=
  (vfPlanes s vf).foldl (fun s e => s.updPlane e.1 e.2 (planeNoMark 1)) s

/-- ESL_INJECTION (R394, R395, R398): the next VF's withheld events, then the mark at the outgoing VF's sources; what takes
no mark swaps at once. -/
def execEslInjection (pt : Nat) (s : State) : Res :=
  let v := s.part pt
  .next (match nextPlace s v with
    | none => s
    | some k =>
      let vf := (ringOf v).getD k 255
      let out := runningVf v
      let os := (instsOf s out).filter fun i => (s.inst i).st == .live
      let cutting := (instsOf s out).any fun i => match (s.inst i).st with
        | .cutting => true
        | .moving _ _ _ _ => true
        | .casting _ => true
        | _ => false
      if !v.ended || !ringMany v || !vfBasted s vf || !othersSaved s v vf || !eslEmerged s pt || cutting then s
      else
        let s := cleanPlanes (releaseEvents s vf) vf
        let s := { s with parts := mset s.parts pt { v with rcur := k, swaps := v.swaps + 1, sliceFrom := s.cycle, ended := false } }
        let t := eslMark v.swaps
        let is := os.filter fun i => !savedDirect (s.inst i)
        let s := is.foldl (fun s i => markSeams (injectInst s i t) i (fun j => !is.contains j) t) s
        let dead := (os.flatMap (activePlanes s)).filter fun e => deadPlane s e.1 e.2 (s.plane e.1 e.2)
        let s := dead.foldl (fun s e => eslSwap s e.1 e.2) s
        let s := (vfPlanes s vf).foldl activateHere s
        let held (p : Nat) : Bool := panelHeld s p
        { s with panels := mmap s.panels fun p q => if (partPanels v).contains p && held p then { q with swapping := true } else q })

/-! ### The panel exchange (R396) -/

/-- The instance that holds a letter of a panel. -/
def holderOf (s : State) (p : Nat) (l : Letter) : Option Nat := holdOf (s.side p l).hold

/-- Gives an instance units of its switch area, unless it has them; none when they do not fit (R377, R382). -/
def needUnits (s : State) (i : Nat) : Option State :=
  let v := s.inst i
  match v.cswUnit with
  | some _ => some s
  | none =>
    let u := cswNext s v.ctx
    if (s.ctx v.ctx).cswunits < u + cswNeed v then none else some (s.updInst i fun v => { v with cswUnit := some u })

/-- The VA of a panel's unit in an instance's switch area (R377). -/
def panelUnit (s : State) (i p : Nat) : Nat :=
  let v := s.inst i
  cswVa s i + unitSize * (1 + (rowOf p - rowOf v.origin) * v.pat.fw + (colOf p - colOf v.origin))

/-- The engine nodes of a panel that the exchange waits for (R396). -/
def exchNodes (p : Nat) : List NodeId := [64, 65, 66, 67, 68, 70].map fun a => .panel p a

/-- Whether a panel's engines have swapped and its banks are empty: no zeroing, access, copy or edge load of its nodes is left, nor
an STX of another panel that waits at its exchange bank (R307, R396). -/
def panelIdle (s : State) (p : Nat) (l : Letter) : Bool :=
  let m := (s.plane (.panel p 70) l).mxa
  (s.panel p).zero.isNone && m.loadW.isNone && m.loadN.isNone && ((exchNodes p).all fun n => !(s.plane n l).active && (s.plane n l).copies.isEmpty)
    && s.accs.all fun e => !(e.2.letter == l && ((exchNodes p).contains e.2.node
      || (e.2.space == .exchange && storeClass e.2.act && decide (e.2.home = p))))

/-- Planes of the outgoing letter that no mark will move swap when their panel is looked at (R394). -/
def swapDead (s : State) (pt p : Nat) (l : Letter) : State :=
  let mine (n : NodeId) : Bool := match n with
    | .panel q _ => q == p
    | n => panelOf s n l == p
  let es := (s.nodes.filter fun e => mine e.1 && sweeping s pt l (e.2.plane l) && deadPlane s e.1 l (e.2.plane l)).map (·.1)
  es.foldl (fun s n => eslSwap s n l) s

/-- The outgoing contents of a panel go to the switch area. -/
def exchOut (s : State) (p : Nat) (l : Letter) : Option State :=
  match holderOf s p l with
  | none => some s
  | some i =>
    match needUnits s i with
    | none => none
    | some s =>
      match memReads s (s.inst i).ctx p with
      | (_, some _) => none
      | (s, none) =>
        match writePieces s (s.inst i).ctx (panelUnit s i p) (memPieces s p ++ [(0x2FDC4, countBytes s p l)]) with
        | (_, .error _) => none
        | (s, .ok ()) => some s

/-- The incoming contents of a panel come back. -/
def exchIn (s : State) (p : Nat) (l : Letter) : Option State :=
  match holderOf s p l with
  | none => some s
  | some i =>
    let c := (s.inst i).ctx
    if (s.inst i).cswUnit.isNone then some s
    else match readCtx s c (panelUnit s i p) unitSize with
      | (_, .error _) => none
      | (s, .ok u) => some (((memBack s p u).updPanel p fun q => { q with lastCtx := some c, zero := none }).updInst i (countBack u p))

/-- Whether an exchange moves contents of a panel out, or back in (R396). -/
def exchMoves (s : State) (p : Nat) (l : Letter) : Bool :=
  (holderOf s p l.other).isSome || (match holderOf s p l with
    | some i => (s.inst i).cswUnit.isSome
    | none => false)

/-- The earliest end of an exchange that begins now: 144 KiB at 64 bytes a cycle (R396). -/
def exchEnd (s : State) (p : Nat) (l : Letter) : Nat := if exchMoves s p l then s.cycle + slow s (.panel p 64) 2304 else s.cycle

/-- PANEL_EXCHANGE (R396): memories of a panel change tenant through device memory: the exchange begins once the panel is idle,
and is complete after its time. -/
def execPanelExchange (p : Nat) (s : State) : Res :=
  .next (match partAt s p with
    | none => s
    | some pt =>
      let l := runLetter (s.part pt)
      let t := swapDead s pt p l.other
      if !(t.panel p).swapping || !panelIdle t p l.other then t
      else
        let due := (t.panel p).exch.getD (exchEnd t p l)
        if t.cycle < due then t.updPanel p fun q => { q with exch := some due }
        else match (exchOut t p l.other).bind fun t => exchIn t p l with
          | none => t
          | some t => t.updPanel p fun q => { q with swapping := false, exch := none })

/-! ### Rings of three or four (R393) -/

/-- Whether an instance's planes have left and their out-ports are empty (R393). -/
def letterDone (s : State) (i : Nat) : Bool :=
  (s.nodes.all fun e => [Letter.a, Letter.b].all fun l =>
    let p := e.2.plane l
    p.inst != i || (!p.active && p.outs.toList.all fun o => o.slot.isNone))
    && ((rectPanels (s.inst i).origin (s.inst i).pat.fw (s.inst i).pat.fh).all fun p => !(s.panel p).swapping)

/-- Saves the letter of an instance into its switch area, its panels' memories apart (R393, R396). -/
def saveLetter (s : State) (i : Nat) : State :=
  let v := s.inst i
  match needUnits s i with
  | none => s
  | some t =>
    match writePieces t v.ctx (cswVa t i) (trailerPieces t i) with
    | (_, .error _) => s
    | (t, .ok ()) =>
      match writeUnits false t v.ctx (cswVa t i + unitSize) v.letter (rectPanels v.origin v.pat.fw v.pat.fh) with
      | (_, .error _) => s
      | (t, .ok ()) => (clearInst (keepInst t i) i).updInst i fun v => { v with st := .saved }

/-- Whether an instance of a ring can come back into a letter: its panels' letter and its units are free. -/
def letterFree (s : State) (i : Nat) (l : Letter) : Bool :=
  let v := s.inst i
  ((rectPanels v.origin v.pat.fw v.pat.fh).all fun p => (s.side p l).hold == .free)
    && v.pat.tnodes.all fun r => decide ((s.plane (treeNode v.origin r.node) l).inst = 0)

/-- Loads the next VF's letter of an instance in place of the one that was saved; its planes stay basted (R393). -/
def loadLetter (s : State) (i : Nat) (l : Letter) : State :=
  let v := s.inst i
  let m : Move := { old := v.origin, new := v.origin, lm := decide (l ≠ v.letter) }
  match treeRead s i with
  | (_, .error _) => s
  | (t, .ok ()) =>
    match readUnits false t v.ctx (cswVa t i + unitSize) m i v.letter (rectPanels v.origin v.pat.fw v.pat.fh) with
    | (_, .error _) => s
    | (t, .ok ()) => restoreInst t m i

/-- OUTGOING_LETTER_SAVE (R393): in a ring of three or four VFs the outgoing letter of a panel goes to the switch area of its
context, and the next VF's comes in its place. An instance goes with all its panels. -/
def execOutgoingLetterSave (p : Nat) (s : State) : Res :=
  .next (match partAt s p with
    | none => s
    | some pt =>
      let v := s.part pt
      let l := (runLetter v).other
      match nextPlace s v with
      | none => s
      | some k =>
        let vf := (ringOf v).getD k 255
        if ((ringOf v).filter fun x => x != 255).length < 3 then s
        else match holderOf s p l with
          | some i =>
            if ofVf s vf (s.inst i).ctx || (s.inst i).st != .live || !letterDone s i then s else saveLetter s i
          | none =>
            match (instsOf s vf).find? fun i => (s.inst i).st == .saved && !(s.ctx (s.inst i).ctx).preempt
                && (rectPanels (s.inst i).origin (s.inst i).pat.fw (s.inst i).pat.fh).contains p && letterFree s i l with
            | some i => loadLetter s i l
            | none => s)

end Sys2Proof.Machine
end

