-- ==== Sys2Proof/Machine/Ports.lean ====
section
/-! DEFINITION. Ethernet ports, links and peers (R400 to R413): port modes, links that go up and down, connections, and
accesses of other devices. -/

namespace Sys2Proof.Machine
open Sys2Proof

/-! ### Port modes (R400, R401, R404) -/

/-- The links of a port mode. -/
def modeLinks (m : Nat) : Nat := match m with
  | 1 => 1
  | 2 => 1
  | 3 => 2
  | 4 => 4
  | _ => 0

/-- Whether `PTGEN` matches `PMODE` (R404). -/
def genOk (v : Nat) : Bool := match v % 8 with
  | 0 => true
  | 2 => !bitOf v 6
  | _ => bitOf v 6

/-- Changes a port. -/
def updPort (s : State) (q : Nat) (f : Port → Port) : State := { s with ports := mupd s.ports q f }

/-- Links of a port that are up. -/
def upLinks (s : State) (q : Nat) : List Nat := ((List.range 4).filter fun k => bitOf (s.port q).lup k).map (4 * q + ·)

/-! ### Links that go down (R412, R413) -/

/-- Whether a peer's route had a link and now has none that is up (R413). -/
def peerLost (s : State) (link p : Nat) : Bool := bitOf (mget s.peers p).1 link && (peerLinks s p).isEmpty

/-- The peers of a group's edges at a member (R410). -/
def groupPeers (s : State) (n : NodeId) (g : Nat) : List Nat :=
  let w := groupOf s n g
  (if bitOf w.1 15 then [] else [field w.1 45 32])
    ++ ((List.range (groupKids s n g)).map fun c => field (if c < 2 then w.2.1 else w.2.2.1) (13 + 32 * (c % 2)) (32 * (c % 2)))

/-- The pc units' planes whose network seam or group edge has lost its only link (R413). -/
def lostSeams (s : State) (link : Nat) : List (NodeId × Letter) :=
  s.nodes.flatMap fun e => match e.1 with
    | .pc q u =>
      let nb := (s.port q).netb.toList.getD u 0
      let net := bitOf nb 20 && peerLost s link (field nb 13 0)
      [Letter.a, Letter.b].filterMap fun l =>
        let grp := match e.2.engine with
          | some o => (o.kind == .cred || o.kind == .cbcs) && o.letter == l && (groupPeers s e.1 o.grp).any (peerLost s link)
          | none => false
        if ((e.2.plane l).active && net) || grp then some (e.1, l) else none
    | _ => []

/-- An outstanding access of a down link is sent again on the link of the new hash, ahead of what its peer's accesses are from then on,
or stalls its port when there is none (R412, R413). -/
def rehash (link : Nat) (s : State) (id : Nat) : State :=
  match mget? s.accs id with
  | none => s
  | some a =>
    if a.link ≠ some link then s
    else match peerLink s a.peer a.va with
      | some k => { s with accs := mset s.accs id { a with link := some k, resent := some (a.resent.getD s.ids) } }
      | none => if a.st = .ready then stallAccess s id a .linkDown a.va else s

/-- A link goes down (R412, R413, R418). -/
def linkFails (s : State) (link : Nat) : State :=
  let k := link % 4
  let clear (p : Port) : Port :=
    { p with lup := if bitOf p.lup k then p.lup - 2 ^ k else p.lup, ldn := if bitOf p.ldn k then p.ldn else p.ldn + 2 ^ k
             tries := p.tries.set (Fin.ofNat 4 k) 0 }
  let s := notify (updPort s (link / 4) clear) 1 link
  let s := (s.accs.map (·.1)).foldl (rehash link) s
  (lostSeams s link).foldl (fun s e => headFault s e.1 e.2 .linkDown) s

/-- LINK_DOWN (R412): a link that was up fails. -/
def execLinkDown (link : Nat) (s : State) : Res :=
  .next (if link < 64 ∧ linkUp s link = true then linkFails s link else s)

/-- Whether a link exists in its port's mode: the SerDes island runs it, or island 23 supplies link 0 (R400, R423). -/
def linkExists (s : State) (link : Nat) : Bool :=
  let c := (s.port (link / 4)).pcfg
  (islandRuns s 21 && bitOf c 3 && decide (link % 4 < modeLinks (c % 8))) || bootLink s link

/-- LINK_UP (R401, R413): a link of an enabled port comes up. -/
def execLinkUp (link : Nat) (s : State) : Res :=
  let k := link % 4
  .next (if decide (64 ≤ link) || !linkExists s link || linkUp s link then s
    else updPort s (link / 4) fun p => { p with lup := p.lup + 2 ^ k, tries := p.tries.set (Fin.ofNat 4 k) 0 })

/-- How often the flit that fails now has failed: whether it is the one that failed last is a free value (log 130). -/
def flitTries (s : State) (link : Nat) : Nat :=
  if Config.freeNat s.free % 2 = 0 then 1 else (s.port (link / 4)).tries[Fin.ofNat 4 link] + 1

/-- LINK_LEVEL_RETRY (R401, R412): a flit fails on a link whose port retries; it is sent again, and with its 64th failure the link
goes down. -/
def execLinkLevelRetry (link : Nat) (s : State) : Res :=
  .next (if 64 ≤ link ∨ linkUp s link = false ∨ bitOf (s.port (link / 4)).pcfg 4 = false then s
    else
      let n := flitTries s link
      let s := { s with free := s.free + 1 }
      if 64 ≤ n then linkFails s link
      else updPort s (link / 4) fun p => { p with llrc := min (p.llrc + 1) (2 ^ 24 - 1), tries := p.tries.set (Fin.ofNat 4 link) n })

/-- MEMORY_LINK_DOWN (R272): a memory link fails, which the host hears of (R418). -/
def execMemoryLinkDown (link : Nat) (s : State) : Res :=
  .next (if 48 ≤ link ∨ s.dev.linksDown.contains link = true then s
    else notify (s.updDev fun d => { d with linksDown := d.linksDown ++ [link] }) 2 link)

/-- A write of `PCFG` (R400, R401, R404); clearing `PEN` takes the port's links down. -/
def pcfgSet (s : State) (q v : Nat) : Except Nat State :=
  let old := (s.port q).pcfg
  let w := v % 2 ^ 8
  let moves := decide (w % 8 ≠ old % 8) || bitOf w 6 != bitOf old 6
  if 5 ≤ w % 8 ∨ (bitOf old 3 && moves) = true ∨ genOk w = false then .error 1
  else
    let ls := upLinks s q
    let s := updPort s q fun p => { p with pcfg := w }
    .ok (if bitOf old 3 && !bitOf w 3 then ls.foldl linkFails s else s)

/-- PCFG_WRITE (R400, R401, R404). -/
def execPcfgWrite (h : Flosy) (q : Nat) (v : BitVec 64) (s : State) : Res :=
  .next (command s (.pcfgWrite q v) h 2 .other fun s => if q < 16 then answerSet s h (pcfgSet s q v.toNat) else reply s h 2 2 [])

/-! ### Connections (R402, R403) -/

/-- CONNECTION_SET_UP (R402, R403): the port's next packet delivery context, in its mode, or its next queue pair, refused where it is
not supported or none is left. -/
def execConnectionSetUp (port : Nat) (k : ConnKind) (s : State) : Res :=
  let p := s.port port
  let uet := decide (p.pdcs.length < 16384)
  .next (if 16 ≤ port then s
    else match k with
      | .rud => if uet then updPort s port fun p => { p with pdcs := p.pdcs ++ [.rud] } else s
      | .rod => if uet then updPort s port fun p => { p with pdcs := p.pdcs ++ [.rod] } else s
      | .uud => if uet then updPort s port fun p => { p with pdcs := p.pdcs ++ [.uud] } else s
      | .rudi => s
      | .roceRc => if bitOf p.pcfg 7 ∧ p.qps < 1024 then updPort s port fun p => { p with qps := p.qps + 1 } else s
      | .roceOther => s)

/-! ### Accesses of other devices (R405 to R408) -/

/-- What a peer's operation does here. -/
def peerAct (op : PeerOp) : AccAct :=
  match op with
  | .load => .load
  | .store v => .store v
  | .atomic o f b c => .atomic o f b c
  | .sigw v => .sigw v

/-- Whether a peer's operation only writes; an atomic and a signal add read first. -/
def peerWrites : PeerOp → Bool
  | .store _ => true
  | _ => false

/-- PEER_ACCESS_ARRIVAL (R272, R405 to R408): an access of another device is translated in its context and performed once; a copy
whose number has been served is discarded. Behind a memory link that is down a read faults, and a write is neither performed
nor acknowledged. -/
def execPeerAccessArrival (src seq c va : Nat) (op : PeerOp) (s : State) : Res :=
  .next (if 9216 ≤ src || !s.dev.domen || decide (mget s.served (src, seq) ≠ 0) then s
    else
      let act := peerAct op
      let s := { s with served := mset s.served (src, seq) 1 }
      let answer (s : State) (r : Except Cause Word) : State :=
        { s with peerOut := s.peerOut ++ [match r with
          | .ok v => { src := src, seq := seq, val := v }
          | .error e => { src := src, seq := seq, fault := some e }] }
      let (s, p) := translate s c va
      match p, pageFault p (actRight act) with
      | some q, none =>
        let a : Access := { ctx := c, space := .device, act := act, va := va, home := pageHome q va }
        if inDevice s .device 0 && homeDown s a.home then (if peerWrites op then s else answer s (.error .eccUncorrectable))
        else match pathFault s a with
          | some e => answer s (.error e)
          | none => let (t, r) := actAt s a; answer t r
      | _, some e => answer s (.error e)
      | none, none => answer s (.error .pageNotPresent))

end Sys2Proof.Machine
end

