-- ==== Sys2Proof/Machine/Host.lean ====
section
/-! DEFINITION. The host's commands, boot, attestation, power and the thermal trip (R272, R387, R401, R405, R408, R410,
R414 to R427). -/

namespace Sys2Proof.Machine
open Sys2Proof

/-! ### The device register window (R5, R414) -/

/-- A register write's outcome: the state, or the status of a refusal. -/
abbrev RegSet := Except Nat State

/-- The bits of a value that lie in named ranges; the others are reserved (R5). -/
def maskOf (v : Nat) (rs : List (Nat × Nat)) : Nat := (rs.map fun r => field v r.1 r.2 * 2 ^ r.2).foldl (· + ·) 0

/-- `ISLST` of an island (R419). -/
def islandStatus (s : State) (i : Nat) : Nat :=
  mget s.dev.islands i + (match s.dev.power with
    | some p => if p.1 = i then 16 else 0
    | none => 0)

/-- A register of the device control block (R419). -/
def dcbGet (s : State) (o : Nat) : Option Nat :=
  if o = 0x000 then some s.dev.devid
  else if o = 0x008 then some s.dev.bootst
  else if o = 0x010 then some s.dev.hostconn
  else if o = 0x018 then some s.dev.cecnt
  else if o = 0x020 then some s.dev.uecnt
  else if o = 0x028 then some s.dev.parcnt
  else if o = 0x030 then some s.dev.temp
  else if o = 0x038 then some s.dev.ttrip
  else if 0x100 ≤ o ∧ o < 0x1C0 then some (islandStatus s ((o - 0x100) / 8))
  else none

/-- A write of the device control block (R419). -/
def dcbSet (s : State) (o v : Nat) : RegSet :=
  if o = 0x010 then .ok (s.updDev fun d => { d with hostconn := v % 2 ^ 18 })
  else if o = 0x018 then .ok (s.updDev fun d => { d with cecnt := v })
  else if o = 0x020 then .ok (s.updDev fun d => { d with uecnt := v })
  else if o = 0x028 then .ok (s.updDev fun d => { d with parcnt := v })
  else if o = 0x038 then (if 0x6E0 < v then .error 1 else .ok (s.updDev fun d => { d with ttrip := v }))
  else .ok s

/-- A register of the memory-management block (R272); 0x100 to 0x17F are refused before. -/
def mmGet (s : State) (o : Nat) : Option Nat :=
  let x := s.ctx s.dev.ctxsel
  if o = 0x000 then some s.dev.ctxsel
  else if o = 0x008 then some x.ptroot
  else if o = 0x010 then some x.sdva
  else if o = 0x018 then some x.sdlen
  else if o = 0x020 then some x.sdgo.toNat
  else if o = 0x028 then some x.sdsig
  else if o = 0x030 then some x.lwqva
  else if o = 0x038 then some x.lwqlen
  else if o = 0x040 then some x.lwqgo.toNat
  else if o = 0x048 then some x.lwqres
  else if o = 0x050 then some x.rcva
  else if o = 0x058 then some (x.rcgo.toNat + 2 * x.rcres)
  else none

/-- A write of the memory-management block (R272): of the context that `CTXSEL` names. -/
def mmSet (s : State) (o v : Nat) : RegSet :=
  let upd (f : Ctx → Ctx) : RegSet := .ok (s.updCtx s.dev.ctxsel f)
  if o = 0x000 then .ok (s.updDev fun d => { d with ctxsel := v % 2 ^ 16 })
  else if o = 0x008 then upd fun x => { x with ptroot := maskOf v [(51, 12), (0, 0)] }
  else if o = 0x010 then upd fun x => { x with sdva := maskOf v [(56, 16)] }
  else if o = 0x018 then upd fun x => { x with sdlen := v }
  else if o = 0x020 then upd fun x => { x with sdgo := x.sdgo || bitOf v 0 }
  else if o = 0x028 then upd fun x => { x with sdsig := v }
  else if o = 0x030 then upd fun x => { x with lwqva := maskOf v [(56, 16)] }
  else if o = 0x038 then upd fun x => { x with lwqlen := v }
  else if o = 0x040 then upd fun x => { x with lwqgo := x.lwqgo || bitOf v 0 }
  else if o = 0x050 then upd fun x => { x with rcva := maskOf v [(56, 16)] }
  else if o = 0x058 then upd fun x => if bitOf v 0 && !x.rcgo then { x with rcgo := true, rcres := 0 } else x
  else .ok s

/-- The slice bank that `SHSEL` names, if there is one (R387). -/
def shBank (s : State) : Option (Nat × Nat) :=
  let l := s.dev.shsel % 8
  let w := field s.dev.shsel 14 3
  if 1 ≤ l ∧ w < 4 ^ (7 - l) then some (l, w) else none

/-- A register of the tenancy block (R387). -/
def tenGet (s : State) (o : Nat) : Option Nat :=
  if o < 0x200 then some (prectNext (s.part (o / 8)))
  else if o < 0x400 then
    let p := s.part ((o - 0x200) / 8)
    some (p.pring + p.rcur * 2 ^ 32)
  else if o < 0x1000 then
    let v := (o - 0x400) / 16
    if o % 16 = 0 then some (s.vf v).cfg else some (vfStat s v)
  else if o < 0x2800 then
    let k := (o - 0x1000) / 8 % 4
    if k = 3 then none
    else
      let x := (s.vf ((o - 0x1000) / 32)).lims.toList.getD k {}
      some (x.rate + x.burst * 2 ^ 32)
  else if o = 0x2800 then some s.dev.shsel
  else if o = 0x2808 then
    let b := (shBank s).elim {} fun k => mget s.banks k
    some (b.sw + b.split.toNat * 2 ^ 32)
  else none

/-- A write of the tenancy block (R387, R388, R393, R399). A ring that is written starts a new slice. -/
def tenSet (s : State) (o v : Nat) : RegSet :=
  if o < 0x200 then prectSet s (o / 8) v
  else if o < 0x400 then
    .ok (firmSplit { s with parts := mupd s.parts ((o - 0x200) / 8) fun p => { p with pring := v % 2 ^ 32, sliceFrom := s.cycle, ended := false } })
  else if o < 0x1000 then
    (if o % 16 = 0 then
      .ok { s with vfs := mupd s.vfs ((o - 0x400) / 16) fun x => { x with cfg := maskOf v [(39, 32), (31, 8), (7, 7), (5, 0)] } }
    else .ok s)
  else if o < 0x2800 then vflimSet s ((o - 0x1000) / 32) ((o - 0x1000) / 8 % 4) v
  else if o = 0x2800 then .ok (s.updDev fun d => { d with shsel := v % 2 ^ 15 })
  else match shBank s with
    | some k => .ok { s with banks := mupd s.banks k fun b => { b with sw := v % 2 ^ 32, split := bitOf v 32 || mustSplit s k.1 k.2 } }
    | none => .ok s

/-- `PSTAT` of a port (R401). -/
def pstat (p : Port) : Nat := p.lup + p.ldn * 16 + p.llrc * 256

/-- A register of the port block (R401, R405, R408, R410). -/
def portGet (s : State) (o : Nat) : Option Nat :=
  if o < 0x400 then
    let p := s.port (o / 64)
    let k := o / 8 % 8
    if k = 0 then some p.pcfg
    else if k = 1 then some (pstat p)
    else if k < 6 then some (p.netb.toList.getD (k - 2) 0)
    else none
  else if o = 0x400 then some (s.dev.devnum + s.dev.domen.toNat * 2 ^ 14)
  else if 0x1000 ≤ o ∧ o < 0x3000 then
    let w := groupOf s (.pc ((o - 0x1000) / 512) 0) ((o - 0x1000) / 32 % 16)
    some (match (o - 0x1000) / 8 % 4 with
      | 0 => w.1
      | 1 => w.2.1
      | 2 => w.2.2.1
      | _ => w.2.2.2)
  else if 0x4000 ≤ o ∧ o < 0x28000 then
    let e := mget s.peers ((o - 0x4000) / 16)
    some (if o % 16 = 0 then e.1 else e.2.toNat)
  else if 0x30000 ≤ o ∧ o < 0x40000 then
    let e := mget s.ends ((o - 0x30000) / 16)
    some (if o % 16 = 0 then e.1 else e.2)
  else none

/-- The fields of a child word of a group entry, two children a word (R410). -/
def childMask (v : Nat) : Nat := maskOf v [(51, 32), (19, 0)]

/-- A group entry with word `k` written (R410). -/
def groupSet (w : Nat × Nat × Nat × Nat) (k v : Nat) : Nat × Nat × Nat × Nat :=
  match k with
  | 0 => (maskOf v [(54, 32), (29, 0)], w.2.1, w.2.2.1, w.2.2.2)
  | 1 => (w.1, childMask v, w.2.2.1, w.2.2.2)
  | 2 => (w.1, w.2.1, childMask v, w.2.2.2)
  | _ => w

/-- A write of the port block (R401, R405, R408, R410). -/
def portSet (s : State) (o v : Nat) : RegSet :=
  if o < 0x400 then
    let q := o / 64
    let k := o / 8 % 8
    if k = 0 then pcfgSet s q v
    else if k = 1 then
      .ok (updPort s q fun p => { p with ldn := ((List.range 4).filter fun j => bitOf p.ldn j && !bitOf v (4 + j)).foldl (fun a j => a + 2 ^ j) 0 })
    else .ok (updPort s q fun p => { p with netb := p.netb.set (Fin.ofNat 4 (k - 2)) (v % 2 ^ 21) })
  else if o = 0x400 then .ok (s.updDev fun d => { d with devnum := v % 2 ^ 14, domen := bitOf v 14 })
  else if o < 0x3000 then
    let q := (o - 0x1000) / 512
    let g := (o - 0x1000) / 32 % 16
    let w := groupSet (groupOf s (.pc q 0) g) ((o - 0x1000) / 8 % 4) v
    .ok (updPort s q fun p => { p with groups := mset p.groups g w })
  else if o < 0x28000 then
    .ok { s with peers := mupd s.peers ((o - 0x4000) / 16) fun e => if o % 16 = 0 then (v, e.2) else (e.1, bitOf v 0) }
  else
    .ok { s with ends := mupd s.ends ((o - 0x30000) / 16) fun e =>
      if o % 16 = 0 then (maskOf v [(43, 32), (14, 8), (6, 0)], e.2) else e }

/-- A register of the window by its offset, or the status of a refusal (R414). -/
def regGet (s : State) (o : Nat) : Except Nat Nat :=
  let ans (x : Option Nat) : Except Nat Nat := match x with
    | some v => .ok v
    | none => .error 2
  if o % 8 ≠ 0 ∨ 2 ^ 22 ≤ o then .error 2
  else if o < 0x10000 then ans (dcbGet s o)
  else if o < 0x20000 then (if 0x10100 ≤ o ∧ o < 0x10180 then .error 3 else ans (mmGet s (o - 0x10000)))
  else if o < 0x100000 then ans (tenGet s (o - 0x20000))
  else ans (portGet s (o - 0x100000))

/-- A write of a register that `regGet` finds (R5, R414). -/
def regSet (s : State) (o v : Nat) : RegSet :=
  if o < 0x10000 then dcbSet s o v
  else if o < 0x20000 then mmSet s (o - 0x10000) v
  else if o < 0x100000 then tenSet s (o - 0x20000) v
  else portSet s (o - 0x100000) v

/-- REG_RD (R414 to R417). -/
def execRegRd (h : Flosy) (off len : Nat) (s : State) : Res :=
  .next (command s (.regRd off len) h 1 .regRd fun s =>
    if len ≠ 4 ∧ len ≠ 8 then reply s h 1 1 []
    else match regGet s off with
      | .ok v => reply s h 1 0 (leBytes v len)
      | .error e => reply s h 1 e [])

/-- REG_WR (R5, R414 to R417): four bytes write the low half of a register. -/
def execRegWr (h : Flosy) (off len : Nat) (v : BitVec 64) (s : State) : Res :=
  .next (command s (.regWr off len v) h 2 .other fun s =>
    if len ≠ 4 ∧ len ≠ 8 then reply s h 2 1 []
    else match regGet s off with
      | .error e => reply s h 2 e []
      | .ok old => answerSet s h (regSet s off (if len = 8 then v.toNat else old / 2 ^ 32 * 2 ^ 32 + v.toNat % 2 ^ 32)))

/-! ### Device memory (R272, R416, R417) -/

/-- Whether a byte of a range that translates lies on a memory link that is down (R272). -/
def rangeDown (s : State) (c va n : Nat) : Bool :=
  (List.range (n / 256 + 2)).any fun j =>
    let a := min (va + 256 * j) (va + n - 1)
    match (translate s c a).2 with
    | some p => decide (p.loc ≠ 1) && paDown s (pageHome p a)
    | none => false

/-- MEM_RD (R416, R417). -/
def execMemRd (h : Flosy) (c va len : Nat) (s : State) : Res :=
  .next (command s (.memRd c va len) h 3 .other fun s =>
    if 8192 < len then reply s h 3 1 []
    else match readCtx s c va len with
      | (s, .error _) => reply s h 3 4 []
      | (s, .ok bs) => if rangeDown s c va len then reply s h 3 4 [] else reply s h 3 0 bs)

/-- MEM_WR (R416, R417): nothing is written when a page does not translate. -/
def execMemWr (h : Flosy) (c va : Nat) (data : List Byte) (s : State) : Res :=
  .next (command s (.memWr c va data) h 4 .other fun s =>
    if 8192 < data.length then reply s h 4 1 []
    else match checkCtx s c .write va data.length with
      | (s, some _) => reply s h 4 4 []
      | (s, none) =>
        if rangeDown s c va data.length then reply s h 4 4 [] else reply (writeCtx s c va data).1 h 4 0 [])

/-- SIGWR (R320, R416): a signal's value is replaced, as a signal operation. -/
def execSigwr (h : Flosy) (c va : Nat) (v : BitVec 64) (s : State) : Res :=
  .next (command s (.sigwr c va v) h 7 .other fun s =>
    if va % 8 ≠ 0 then reply s h 7 2 []
    else match signalOp s c va .write fun _ => signedOf 64 v.toNat with
      | (s, some _) => reply s h 7 4 []
      | (s, none) => reply s h 7 0 [])

/-! ### Queues (R309 to R312, R322, R416) -/

/-- The record of a queue control block. -/
def queueRec (s : State) (c qcb : Nat) : Option Nat := (s.queues.find? fun e => e.2.ctx == c && e.2.qcb == qcb).map (·.1)

/-- The resident queue of a queue control block. -/
def resident? (s : State) (c qcb : Nat) : Option Nat :=
  (queueRec s c qcb).filter fun k => (mget s.queues k).res

/-- QUEUE_OVERRUN of a queue whose `TAIL` has run too far ahead (R312). -/
def overrun (q : Queue) : Queue :=
  if q.prog + 2 ^ q.log2 < q.tail then qError 3 .queueOverrun (q.prog + 2 ^ q.log2) q else q

/-- DOORBELL (R311, R312): raises the tail of a resident queue, or the stored tail of another. -/
def execDoorbell (h : Flosy) (c qcb : Nat) (tail : BitVec 64) (s : State) : Res :=
  .next (command s (.doorbell c qcb tail) h 5 .other fun s =>
    match resident? s c qcb with
    | some k =>
      let q := mget s.queues k
      let n := overrun { q with tail := max q.tail tail.toNat }
      let s := { s with queues := mset s.queues k n }
      reply (inheritAll (if n.state = q.state then s else writeQcb s n false true)) h 5 0 []
    | none =>
      match readCtx s c (qcb + 16) 8, checkCtx s c .write (qcb + 16) 8 with
      | (s, .ok bs), (_, none) => reply (writeCtx s c (qcb + 16) (leBytes (max (leNat bs) tail.toNat) 8)).1 h 5 0 []
      | (s, _), _ => reply s h 5 4 [])

/-- The queue that a control block describes (R310). -/
def queueOf (c qcb v : Nat) : Queue :=
  { ctx := c, qcb := qcb, base := field v 56 0, log2 := field v 68 64, cls := field v 73 72, state := field v 75 74,
    errc := field v 83 78, tail := field v 191 128, prog := field v 255 192, disp := field v 319 256, erridx := field v 383 320 }

/-- A control block that can be made resident (R416). -/
def qcbLegal (v : Nat) : Bool :=
  decide (4 ≤ field v 68 64) && decide (field v 68 64 ≤ 20) && decide (field v 56 0 % 64 = 0)
    && ([(63, 57), (71, 69), (127, 84), (1023, 384)].all fun r => field v r.1 r.2 == 0)

/-- The record of a switched-out queue as it comes back: the ring and class of memory, the greater tail (R311). -/
def switchedIn (q m : Queue) : Queue :=
  { q with base := m.base, log2 := m.log2, cls := m.cls, tail := max q.tail m.tail, res := true }

/-- The least number that names no queue. -/
def freeQueue (s : State) : Nat :=
  ((List.range (s.queues.length + 1)).find? fun k => (mget? s.queues k).isNone).getD s.queues.length

/-- How many queues are resident (R309). -/
def residentCount (s : State) : Nat := (s.queues.filter fun e => e.2.res).length

/-- MAKE_RESIDENT (R311, R312, R416, R427): an overrun is checked against the saved `PROG`, which then passes what has completed
meanwhile. -/
def execMakeResident (h : Flosy) (c qcb : Nat) (s : State) : Res :=
  .next (command s (.makeResident c qcb) h 6 .other fun s =>
    if qcb % 128 ≠ 0 then reply s h 6 1 []
    else if (resident? s c qcb).isSome then reply s h 6 0 []
    else if 512 ≤ residentCount s then reply s h 6 1 []
    else match readCtx s c qcb 128 with
      | (s, .error _) => reply s h 6 4 []
      | (s, .ok bs) =>
        let v := leNat bs
        if !qcbLegal v then reply s h 6 1 []
        else
          let m := queueOf c qcb v
          let (k, q) := match queueRec s c qcb with
            | some k => (k, switchedIn (mget s.queues k) m)
            | none => (freeQueue s, m)
          let q := qAdvance (overrun q)
          reply (inheritAll (writeQcb { s with queues := mset s.queues k q } q false true)) h 6 0 [])

/-- SWITCH_OUT (R311): the final values go to memory with `STALE` 1 and `RES` 0. -/
def execSwitchOut (h : Flosy) (c qcb : Nat) (s : State) : Res :=
  .next (command s (.switchOut c qcb) h 6 .other fun s =>
    match resident? s c qcb with
    | none => reply s h 6 1 []
    | some k =>
      let q := { mget s.queues k with res := false }
      reply (inheritAll (writeQcb { s with queues := mset s.queues k q } q true false)) h 6 0 [])

/-- A queue command on a resident queue. -/
def queueCommand (s : State) (h : Flosy) (c qcb : Nat) (f : Queue → Queue) : State :=
  match resident? s c qcb with
  | none => reply s h 6 1 []
  | some k => reply (inheritAll (if f (mget s.queues k) = mget s.queues k then s else updQueue s k f)) h 6 0 []

/-- ENABLE (R322, R416): a queue that is not disabled stays as it is. -/
def execEnable (h : Flosy) (c qcb : Nat) (s : State) : Res :=
  .next (command s (.enable c qcb) h 6 .other fun s => queueCommand s h c qcb fun q => if q.state = 0 then { q with state := 1 } else q)

/-- RESUME (R312, R322): an aborted or stopped queue is active, unless its tail still overruns its ring. -/
def execResume (h : Flosy) (c qcb : Nat) (s : State) : Res :=
  .next (command s (.resume c qcb) h 6 .other fun s =>
    queueCommand s h c qcb fun q => if 2 ≤ q.state then overrun { q with state := 1, errc := 0 } else q)

/-- DISABLE (R322): nothing more is dispatched, and the answer follows once the running packets have completed. -/
def execDisable (h : Flosy) (c qcb : Nat) (s : State) : Res :=
  .next (command s (.disable c qcb) h 6 .other fun s =>
    match resident? s c qcb with
    | none => reply s h 6 1 []
    | some k => { s with queues := mupd s.queues k fun q => { q with disabling := true, waiters := q.waiters ++ [h] } })

/-- Whether a packet of a queue has been dispatched and has not completed. -/
def queueRuns (s : State) (k : Nat) : Bool := s.runs.any fun e => match e.2.src with
  | .queue j _ => j == k
  | .spawn _ => false

/-- QUEUE_DISABLED (R322). -/
def execQueueDisabled (q : Nat) (s : State) : Res :=
  .next (if !(mget s.queues q).disabling || queueRuns s q then s
    else
      let ws := (mget s.queues q).waiters
      let s := updQueue s q fun x => { x with state := 0, disabling := false, waiters := [] }
      ws.foldl (fun s h => reply s h 6 0 []) s)

/-! ### Power (R423, R424) -/

/-- The power island of the tree and slice of a fabric quadrant's die (R423). -/
def dieIsland (i : Nat) : Nat := 16 + i / 8 * 2 + i % 4 / 2

/-- Whether a panel of a fabric quadrant lies in a valid partition (R388). -/
def quadrantUsed (s : State) (i : Nat) : Bool :=
  s.parts.any fun e => (prectPanels e.2.prect).any fun p => switchOf 5 p == i

/-- Whether an island may not stop its clocks (R424). -/
def stopRefused (s : State) (i : Nat) : Bool :=
  if i < 16 then quadrantUsed s i
  else if i ≤ 19 ∨ i = 22 then (List.range 16).any fun q => decide (8 ≤ mget s.dev.islands q)
  else true

/-- Whether a POWER command is refused (R424, R426). -/
def powerRefused (s : State) (i st : Nat) : Bool :=
  decide (24 ≤ i) || (s.dev.bootst == 3 && decide (s.dev.ttrip ≤ s.dev.temp + 160))
    || (if 8 ≤ st ∧ st ≤ 15 then decide (i < 16) && mget s.dev.islands i == 0 && mget s.dev.islands (dieIsland i) == 0
        else if st = 1 then stopRefused s i
        else if st = 0 then stopRefused s i || (i == 22 && s.queues.any fun e => e.2.res)
        else true)

/-- The time of a transition (R424). -/
def powerTime (old st : Nat) : Nat := if st < 8 then 10000 else if old = 0 then 2000000 else 20000

/-- Starts the first POWER command of a list that is not refused (R424). -/
def powerNext (s : State) : List (Nat × Nat × Flosy) → State
  | [] => s.updDev fun d => { d with power := none, powerq := [] }
  | (i, st, h) :: t =>
    if powerRefused s i st then powerNext (reply s h 8 1 []) t
    else s.updDev fun d => { d with power := some (i, st, s.cycle + powerTime (mget d.islands i) st, h), powerq := t }

/-- POWER (R424, R426): one at a time, in arrival order. -/
def execPower (h : Flosy) (island st : Nat) (s : State) : Res :=
  .next (command s (.power island st) h 8 .power fun s =>
    if s.dev.power.isSome then s.updDev fun d => { d with powerq := d.powerq ++ [(island, st, h)] }
    else powerNext s [(island, st, h)])

/-- The island that holds a memory byte, by its home (R265, R423). -/
def homeIsland (a : Nat) : Nat :=
  if a < 2 ^ 53 then 22
  else if a < 2 ^ 54 then islandOf (.panel ((a - 2 ^ 53) / 2 ^ 17) 0)
  else if a < 2 ^ 55 then islandOf (.panel ((a - 2 ^ 54) / 2 ^ 14) 0)
  else if a < 2 ^ 57 then islandOf (.mg ((a - 2 ^ 55) / 2 ^ 40) ((a - 2 ^ 55) / 2 ^ 28 % 4096) 0)
  else if a < 2 ^ 60 then islandOf (.mg 3 ((a - 2 ^ 57) / 2 ^ 16) 0)
  else 24

/-- The island of a word that can hold a bit error: that of its memory, or of the matrix array, bespoke store or node it belongs to
(R266, R381, R424). -/
def upsetIsland (a : Nat) : Nat :=
  if a < 2 ^ 80 then homeIsland a
  else if a < 2 ^ 81 then islandOf (.panel ((a - 2 ^ 80) / 16384) 0)
  else if a < 2 ^ 82 then islandOf (.panel ((a - 2 ^ 81) / 4096) 0)
  else if a < 2 ^ 83 then islandOf (nodeOf ((a - 2 ^ 82) / 1024))
  else islandOf (nodeOf ((a - 2 ^ 83) / 1024))

/-- An island loses its state: nodes, panels, cores, banks, tiles, layer units, presses, caches and memory (R424). -/
def eraseIsland (s : State) (i : Nat) : State :=
  { s with
    mem := s.mem.filter fun c => homeIsland c.1 != i
    upsets := s.upsets.filter fun e => upsetIsland e.1 != i
    nodes := s.nodes.filter fun e => islandOf e.1 != i
    panels := s.panels.filter fun e => islandOf (.panel e.1 0) != i
    cores := s.cores.filter fun e => islandOf (.panel (e.1 / 32 * 512 + e.1 % 32 * 4) 0) != i
    banks := s.banks.filter fun e => islandOf (.mg e.1.1 e.1.2 0) != i
    tiles := s.tiles.filter fun e => islandOf (.mg 3 e.1 0) != i
    walks := s.walks.filter fun e => islandOf (.mg 3 e.1 0) != i
    lunits := s.lunits.filter fun e => islandOf (.mg 3 e.1 0) != i
    presses := s.presses.filter fun e => 16 + e.1 != i
    pcache := s.pcache.filter fun e => 16 + e.1 != i
    fetches := s.fetches.filter fun e => 16 + e.1 != i }

/-- POWER_TRANSITION_COMPLETE (R424): the island has its new state, and the next command starts. SRAM is zero on the way
to a point from OFF, and what an island that goes OFF held is lost. -/
def execPowerTransitionComplete (island : Nat) (s : State) : Res :=
  .next (match s.dev.power with
    | none => s
    | some (i, st, due, h) =>
      if i ≠ island ∨ s.cycle < due then s
      else
        let s := if st = 0 ∨ (8 ≤ st ∧ mget s.dev.islands i = 0) then eraseIsland s i else s
        let s := s.updDev fun d => { d with islands := mset d.islands i st, power := none }
        powerNext (reply s h 8 0 []) s.dev.powerq)

/-! ### Boot and attestation (R420 to R422) -/

/-- ATTEST (R416, R422): the nonce, `DEVID`, `DEVNUM`, the accepted images and the rollback counter, signed by both identity
keys. -/
def execAttest (h : Flosy) (nonce : List Byte) (s : State) : Res :=
  .next (command s (.attest nonce) h 9 .attest fun s =>
    if nonce.length ≠ 64 then reply s h 9 1 []
    else
      let d := s.dev
      let r := nonce ++ leBytes d.devid 4 ++ leBytes d.devnum 2
        ++ (d.images.flatMap fun (x : Accepted) => x.digest ++ leBytes x.version 8) ++ leBytes d.rollback 8
      reply s h 9 0 (r ++ Config.edSign d.ident.edPriv r ++ Config.mlSign d.ident.mlPriv r))

/-- Whether a firmware image is accepted: its digest is its own, both signatures of the root keys over it verify, and its version
is not rolled back (R421). -/
def imageAccepted (rollback : Nat) (f : FwImage) : Bool :=
  f.digest == Config.sha512 f.bytes && Config.edVerify Config.rootKeys.1 f.digest f.sigE
    && Config.mlVerify Config.rootKeys.2 f.digest f.sigM && decide (rollback ≤ f.version)

/-- The die's identity, derived from its fuses (R422). -/
def bootIdentity : Identity :=
  let e := Config.edDerive Config.fusedSecret
  let m := Config.mlDerive Config.fusedSecret
  let r := Config.rootSigs e.2 m.2
  { edPriv := e.1, edPub := e.2, mlPriv := m.1, mlPub := m.2, cert := { edPub := e.2, mlPub := m.2, sigE := r.1, sigM := r.2 } }

/-- Every island in one state, and island 23 at point 7. -/
def islandsAs (f : Nat → Nat) : Map Nat Nat := (List.range 23).map (fun k => (k, f k)) ++ [(23, 15)]

/-- Port 0 under firmware control: `PMODE` 1, with the `PEN` and the `PTGEN` that go with it (R400, R404, R420, R423; log 131), and link 0
up. -/
def bootPort (p : Port) : Port := { p with pcfg := 0x49, lup := 1 }

/-- POWER_ON_RESET (R420 to R422): reset, the identity derived, the images verified, and the firmware's bring-up or recovery over link 0. The
fuses and the model's own order of turns stay. -/
def execPowerOnReset (imgs : List FwImage) (s : State) : Res :=
  let r : State := { State.reset with turns := s.turns, turnNo := s.turnNo, free := s.free }
  let ok := imgs.filter (imageAccepted s.dev.rollback)
  let acc : List Accepted := ok.map fun f => { digest := f.digest, version := f.version }
  let r := r.updDev fun d => { d with rollback := s.dev.rollback, ident := bootIdentity, images := acc }
  let map : Map Nat (Nat × Nat) := Config.bootMap.zipIdx.map fun e => (e.2, e.1)
  .next (if imgs.isEmpty || decide (ok.length < imgs.length) then
      updPort (r.updDev fun d => { d with bootst := 2 }) 0 bootPort
    else r.updDev fun d => { d with bootst := 1, irmap := map, irboot := map, islands := islandsAs fun k => if 20 ≤ k then 15 else 0 })

/-! ### A command from its message, or in its turn (R415, R417) -/

/-- What a command does. -/
def runCommand (h : Flosy) (c : HostCmd) : State → Res :=
  match c with
  | .regRd off len => execRegRd h off len
  | .regWr off len v => execRegWr h off len v
  | .prectWrite pt v => execPrectWrite h pt v
  | .vflimWrite vf k v => execVflimWrite h vf k v
  | .pcfgWrite q v => execPcfgWrite h q v
  | .memRd c va len => execMemRd h c va len
  | .memWr c va data => execMemWr h c va data
  | .doorbell c qcb tail => execDoorbell h c qcb tail
  | .makeResident c qcb => execMakeResident h c qcb
  | .switchOut c qcb => execSwitchOut h c qcb
  | .enable c qcb => execEnable h c qcb
  | .resume c qcb => execResume h c qcb
  | .disable c qcb => execDisable h c qcb
  | .sigwr c va v => execSigwr h c va v
  | .power island st => execPower h island st
  | .attest nonce => execAttest h nonce

/-! ### Thermal trip (R426) -/

/-- Answers a list of POWER commands with status 1. -/
def refusePower (s : State) (l : List Flosy) : State := l.foldl (fun s h => reply s h 8 1 []) s

/-- The device after a trip: islands 0 to 22 are OFF and hold nothing, island 23 keeps its own and the connections of the link it holds
up. -/
def tripped (s : State) : State :=
  let d := s.dev
  let e : Dev :=
    { devid := d.devid, bootst := 3, hostconn := d.hostconn, cecnt := d.cecnt, uecnt := d.uecnt, parcnt := d.parcnt,
      temp := d.temp, ttrip := d.ttrip, islands := islandsAs fun _ => 0, hostq := d.hostq, lastLink0 := d.lastLink0, images := d.images, ident := d.ident,
      rollback := d.rollback, irboot := d.irboot, linksDown := d.linksDown }
  let e : State :=
    { turns := s.turns, turnNo := s.turnNo, free := s.free, ids := s.ids, cycle := s.cycle, netOut := s.netOut,
      peerOut := s.peerOut, replies := s.replies, notes := s.notes, dev := e,
      mem := s.mem.filter fun c => homeIsland c.1 == 24 }
  updPort e 0 fun p => bootPort { p with pdcs := (s.port 0).pdcs }

/-- Whether a reading reaches `TTRIP`: in a device that has tripped, once more or with an island that is not OFF or has been asked to
change (R426). -/
def trips (s : State) (temp : Nat) : Bool :=
  let d := s.dev
  decide (d.ttrip ≤ temp) && (d.bootst != 3 || decide (d.temp < d.ttrip) || d.power.isSome
    || (List.range 23).any fun k => decide (mget d.islands k ≠ 0))

/-- THERMAL_TRIP (R419, R426): the sensor's reading, and the trip when it reaches `TTRIP`. -/
def execThermalTrip (temp : Nat) (s : State) : Res :=
  let hot := trips s temp
  let s := s.updDev fun d => { d with temp := temp }
  let d := s.dev
  .next (if !hot then s
    else
      let t := refusePower (tripped s) ((d.power.map fun p => p.2.2.2).toList ++ d.powerq.map fun e => e.2.2)
      let conn := if field d.hostconn 17 12 = 0 then d.hostconn else d.lastLink0
      { t with notes := t.notes ++ [{ event := 3, detail := temp % 2 ^ 24, conn := conn }] })

/-- TRIP_RECOVERY (R426): island 22 has reached a point, and firmware rewrites the map that it verified at boot. -/
def execTripRecovery (s : State) : Res :=
  .next (if s.dev.bootst = 3 ∧ 8 ≤ mget s.dev.islands 22 then s.updDev fun d => { d with bootst := 1, irmap := d.irboot } else s)

end Sys2Proof.Machine
end

