-- ==== Sys2Proof/Machine/Matrix.lean ====
section
/-! DEFINITION. The matrix array, group 0xB (R228 to R242): the distributors, chaining, tile operations, drains, loaders
and the compressor. Each row and column takes its tokens on its own, and each element steps as its tokens reach it
(R231, log 18). -/

namespace Sys2Proof.Machine
open Sys2Proof

/-! ### Lanes (R51, R229, R230) -/

/-- Takes `n` DATA tokens of a lane in a cycle: the tokens, the lane afterwards, and whether its new head breaks the block
structure, which ends the taking (R51, R230); none when the lane holds too few. -/
def takeLane (cyc : Nat) (ts : List Token) (b : BlkSt) : Nat → Option (List Taken × List Token × BlkSt × Bool)
  | 0 => some ([], ts, b, false)
  | n + 1 =>
    match ts with
    | [] => none
    | t :: r =>
      let x : Taken := { at_ := cyc, tok := t, hdr := b.hdr, first := isBlk t.fmt && b.used == 0 }
      let (r', b', bad) := laneHead r (useBlk t.fmt b)
      if bad then some ([x], r', b', true) else (takeLane cyc r' b' n).map fun y => (x :: y.1, y.2)

/-- LANE_DISTRIBUTE (R229): a distributor moves its port's DATA or BLKH head into the next lane, one in a cycle, while
no loader of its edge runs. -/
def execLaneDistribute (p : Nat) (l : Letter) (e : Edge) (s : State) : Res :=
  let n := mxaNode p
  let q := s.plane n l
  let m := q.mxa
  let (k, j, at_) : Fin 4 × Nat × Nat := match e with
    | .west => (0, m.jw, m.dw)
    | .north => (1, m.jn, m.dn)
  let i := laneIx e (j % 16)
  .next (match headTok n q k with
    | none => s
    | some t =>
      if !(q.active && q.stop == .run && q.parity.isNone && (t.kind == .data || t.kind == .blkh)) || (m.loader e).isSome || !laneFree m i
          || decide (s.cycle < at_) then s
      else
        let s := consume s n l k
        let s := updMxa s n l fun m => match e with
          | .west => { m with jw := m.jw + 1, dw := s.cycle + 1 }
          | .north => { m with jn := m.jn + 1, dn := s.cycle + 1 }
        pushLane s n l i t)

/-! ### Chaining (R232) -/

/-- The array that a panel's east or south output feeds, if it lies in the gusset. -/
def chainTo (s : State) (p : Nat) (l : Letter) (e : Edge) : Option NodeId :=
  let v := s.inst (instOf s (mxaNode p) l)
  let q := match e with
    | .west => p + 1
    | .north => p + 128
  if inGusset v q && (e == .north || decide (colOf p + 1 < 128)) then some (mxaNode q) else none

/-- Whether an edge of a panel's array is fed by chaining (R232). -/
def chainFed (s : State) (p : Nat) (l : Letter) (e : Edge) : Bool :=
  let v := s.inst (instOf s (mxaNode p) l)
  match e with
  | .west => decide (0 < colOf p) && inGusset v (p - 1) && cheOf (s.plane (mxaNode (p - 1)) l)
  | .north => decide (128 ≤ p) && inGusset v (p - 128) && chsOf (s.plane (mxaNode (p - 128)) l)

/-- Moves the tokens that stand at an array's outputs into the neighbour's lanes, each lane's in order, a cycle after they
have left the grid; what does not fit stays. -/
def chainList (s : State) (dest : Option NodeId) (l : Letter) (e : Edge) (stuck : List Nat) :
    List (Nat × Nat × Token) → State × List (Nat × Nat × Token)
  | [] => (s, [])
  | x :: t =>
    match dest with
    | none => (s, [])
    | some m =>
      if stuck.contains x.1 || decide (s.cycle ≤ x.2.1) || !laneFree (s.plane m l).mxa (laneIx e x.1) then
        let (s, r) := chainList s dest l e (x.1 :: stuck) t
        (s, x :: r)
      else chainList (pushLane s m l (laneIx e x.1) x.2.2) dest l e stuck t

/-- Whether a chain carries tokens over the border of the window region (R369). -/
def chainLeaves (s : State) (n : NodeId) (l : Letter) (dest : Option NodeId) : Bool :=
  let r := (s.inst (instOf s n l)).region
  dest.any fun m => r.contains (n, l) != r.contains (m, l)

/-- CHAIN_TRANSFER (R232): one cycle of an array's outputs. -/
def chainWork (s : State) (p : Nat) (l : Letter) : State :=
  let n := mxaNode p
  let m := (s.plane n l).mxa
  let east := chainTo s p l .west
  let south := chainTo s p l .north
  let (s, e) := chainList s east l .west [] m.east
  let (s, o) := chainList s south l .north [] m.south
  let s := if decide (e.length < m.east.length) && chainLeaves s n l east || decide (o.length < m.south.length) && chainLeaves s n l south
    then imprecise s (instOf s n l) else s
  updMxa s n l fun m => { m with east := e, south := o }

/-- A tile whose tokens a chained edge will bring is announced to the next array (R232). -/
def announce (s : State) (dest : Option NodeId) (l : Letter) (e : Edge) (c : ChainTile) : State :=
  match dest with
  | none => s
  | some m => updMxa s m l fun v => match e with
      | .west => { v with cw := v.cw ++ [c] }
      | .north => { v with cn := v.cn ++ [c] }

/-! ### Tile operations (R230, R231, R236, R237) -/

/-- The lanes of a tile's format. -/
def TileOp.g (t : TileOp) : Nat := t.fmt.lanes

/-- 4:8 at g = 2, where a group of dense values feeds two steps (R236). -/
def TileOp.wide (t : TileOp) : Bool := t.spar == .s48 && t.g == 2

/-- The north tokens that step j uses: how many, and the first of them (R236). -/
def northOf (t : TileOp) (j : Nat) : Nat × Nat :=
  if t.spar == .dense then (1, j) else if t.wide then (4, 4 * (j / 2)) else (2, 2 * j)

/-- What a tile takes of a lane of an edge: the tokens of one taking, the cycles between two, and the tokens in all (R236). -/
def takesOf (t : TileOp) : Edge → Nat × Nat × Nat
  | .west => (1, 1, t.k)
  | .north => if t.spar == .dense then (1, 1, t.k) else if t.wide then (4, 2, 4 * ((t.k + 1) / 2)) else (2, 1, 2 * t.k)

/-- The position of the n-th set bit of a bitmap, from 0. -/
def nthBit (b n : Nat) : Nat := (setBits b 8).getD n 0

/-- The dense index of kept element p of a row (R237). -/
def kidx (sp : Spar) (m : Word) (p : Nat) : Nat :=
  match sp with
  | .s24 => 4 * (p / 2) + field m.toNat (2 * p + 1) (2 * p)
  | .s48 => 8 * (p / 4) + nthBit (field m.toNat (8 * (p / 4) + 7) (8 * (p / 4))) (p % 4)
  | .dense => p

/-- Whether the used part of a row's metadata is invalid for a tile of `k` steps of `g` (R237). -/
def metaBad (sp : Spar) (g k : Nat) (m : Word) : Bool :=
  let used := k * g
  match sp with
  | .dense => false
  | .s24 => (List.range ((used + 1) / 2)).any fun q =>
      decide (2 * q + 1 < used) && decide (field m.toNat (4 * q + 3) (4 * q + 2) ≤ field m.toNat (4 * q + 1) (4 * q))
  | .s48 => (List.range ((used + 3) / 4)).any fun q =>
      let c := (setBits (field m.toNat (8 * q + 7) (8 * q)) 8).length
      if 4 * q + 4 ≤ used then c != 4 else decide (c < 2)

/-- The check of one element's operands of a step (R236). -/
def elemCheck (f : Fmt) (bs : Option Bool) (a : Token) (b : List Token) : Option Cause :=
  if a.kind != .data || a.fmt != f || b.any (fun t => t.kind != .data || t.fmt != f) then some .tagMismatch
  else
    let clash := match bs with
      | some v => a.s != v || b.any fun t => t.s != v
      | none => false
    if clash || b.any (fun t => t.s != a.s) then some .scaleMismatch else none

/-- The exact value of a tile's element under its block header (R50, R66). -/
def tileVal (f : Fmt) (hdr : Word) (x : Nat) : XVal := if isBlk f then blkVal f hdr x else fval f x

/-- The values of a token's lanes. -/
def tokVals (f : Fmt) (t : Taken) : List XVal := (lanesOf f t.tok.payload).map (tileVal f t.hdr)

/-- The pairs of one element in step j: each kept element of A with the element of B at its dense index, B's first being that of
dense index `base` (R236). -/
def pairsOf {α : Type} (z : α) (t : TileOp) (m : Word) (j base : Nat) (a b : List α) : List (α × α) :=
  match t.spar with
  | .dense => List.zip a b
  | sp => a.zipIdx.map fun e => (e.1, b.getD (kidx sp m (j * t.g + e.2) - base) z)

/-- One update of an F32 accumulator: exact, rounded once (R66). DESIGN CHOICE (log 36): the exact zero that elements removed
by compression contribute is +0; the spec names no sign. -/
def accF32 (sparse : Bool) (acc : Word) (ps : List (XVal × XVal)) : LaneR :=
  let qs := ps.map fun e => xmul e.1 e.2
  let (v, iv) := xsum .rne (fval .f32 acc.toNat :: (qs.map (·.1) ++ (if sparse then [.zero false] else [])))
  invalidIf (iv || qs.any (·.2)) (roundX .f32 .rne false v)

/-- One update of an INT32 accumulator (R45, R66). -/
def accInt (acc : Word) (ps : List (Int × Int)) : LaneR :=
  intLane 32 (.wrap true) (ps.foldl (fun v e => v + e.1 * e.2) acc.toInt)

/-- One element's accumulator after step j over its tokens, with the conditions raised (R66). -/
def elemAcc (t : TileOp) (int : Bool) (m : Word) (j : Nat) (a : Taken) (bs : List Taken) (acc : Word) : LaneR :=
  let f := t.fmt
  let base := (northOf t j).2 * t.g
  if int then
    let v (x : Taken) : List Int := (lanesOf f x.tok.payload).map (signedOf (laneW f))
    accInt acc (pairsOf 0 t m j base (v a) (bs.flatMap v))
  else accF32 (t.spar != .dense) acc (pairsOf (.zero false) t m j base (tokVals f a) (bs.flatMap (tokVals f)))

/-! ### The grid (R231, R236) -/

/-- The tokens that a tile has taken of lane k of an edge. -/
def TileOp.took (t : TileOp) (e : Edge) (k : Nat) : List Taken :=
  match e with
  | .west => t.rows.toList.getD k []
  | .north => t.cols.toList.getD k []

/-- A tile after its lane k of an edge has taken more tokens. -/
def TileOp.take (t : TileOp) (e : Edge) (k : Nat) (xs : List Taken) : TileOp :=
  match e with
  | .west => { t with rows := t.rows.set (Fin.ofNat 16 k) (t.took .west k ++ xs) }
  | .north => { t with cols := t.cols.set (Fin.ofNat 16 k) (t.took .north k ++ xs) }

/-- The tokens that each of the 32 lanes has given a tile (R236). -/
def TileOp.consumed (t : TileOp) : List Nat := (t.rows.toList ++ t.cols.toList).map (·.length)

/-- A tile is in the grid: its issue is past, and the other plane's older tiles have left (R228, R231). -/
def tileOn (s : State) (n : NodeId) (l : Letter) (t : TileOp) : Bool :=
  decide (t.issued < s.cycle) && (s.plane n l.other).mxa.tiles.all fun u => decide (t.op < u.op)

/-- A token stands in an output of lane k, which the neighbour has not taken (R231). -/
def outStuck (s : State) (q : Plane) (e : Edge) (k : Nat) : Bool :=
  (match e with
    | .west => q.mxa.east
    | .north => q.mxa.south).any fun x => x.1 == k && decide (x.2.1 < s.cycle)

/-- Lane k of an edge takes tokens for the first tile that lacks some: one taking in a cycle, its first not before the skew of
the lane, and while its output is free (R231). The fault is one of block structure, or of the lane's memory (R51, R252). -/
def laneTake (s : State) (n : NodeId) (l : Letter) (e : Edge) (m : Mxa) (k : Nat) : Mxa × Option Cause :=
  let i := laneIx e k
  match m.tiles.find? fun t => decide ((t.took e k).length < (takesOf t e).2.2) with
  | none => (m, none)
  | some t =>
    let (need, pace, _) := takesOf t e
    let last := ((t.took e k).getLast?.map fun x => x.at_ + pace).getD 0
    let busy := m.tiles.any fun u => (u.took e k).any fun x => x.at_ == s.cycle
    if !tileOn s n l t || busy || decide (s.cycle < max last (t.issued + 1 + k)) || outStuck s (s.plane n l) e k then (m, none)
    else
      match takeLane s.cycle m.lanes[i] m.blks[i] (need - (t.took e k).length % need) with
      | none => (m, none)
      | some (xs, r, b, bad) =>
        if wordFails s (laneHome (panelOf s n l) l i.val) then (m, some .eccUncorrectable) else
        ({ m with lanes := m.lanes.set i r, blks := m.blks.set i b
                  tiles := m.tiles.map fun u => if u.op = t.op then u.take e k xs else u },
          if bad then some .blockExponent else none)

/-- The 32 lanes of an array in a cycle. -/
def lanesTake (s : State) (n : NodeId) (l : Letter) (m : Mxa) : Mxa × Option Cause :=
  [Edge.west, Edge.north].foldl (fun x e => (List.range 16).foldl (fun x k =>
    let (m, b) := laneTake s n l e x.1 k
    (m, x.2.or b)) x) (m, none)

/-- The operands of an element's next step, once its west token has come n columns east and its north tokens m rows south, and
the element has done every step of the tiles before (R231). -/
def TileOp.elem (t : TileOp) (cyc : Nat) (prior : List TileOp) (e : Fin 256) : Option (Taken × List Taken) :=
  let (m, n) := (e.val / 16, e.val % 16)
  let j := t.steps[e]
  if t.k ≤ j || prior.any (fun u => decide (u.steps[e] < u.k)) then none
  else
    match (t.took .west m)[j]? with
    | none => none
    | some a =>
      let (need, first) := northOf t j
      let bs := ((t.took .north n).drop first).take need
      if bs.length < need || decide (cyc < a.at_ + n) || bs.any (fun b => decide (cyc < b.at_ + m)) then none else some (a, bs)

/-- What an element's step gives: its accumulator, or the fault it meets (R61, R236). -/
def elemStep (t : TileOp) (pcw : Word) (int : Bool) (bs : Option Bool) (m : Word) (j : Nat) (acc : Word) (x : Taken × List Taken) :
    Except Cause Word :=
  match elemCheck t.fmt bs x.1.tok (x.2.map (·.tok)) with
  | some c => .error c
  | none =>
    let r := elemAcc t int m j x.1 x.2 acc
    match condCause pcw (condsOf [r]) with
    | some c => .error c
    | none => .ok (BitVec.ofNat 32 r.1)

/-- The scale state that a cycle's steps are checked against: the bank's, or that of the first element that sets it (R236). -/
def scaleOf (f : Fmt) (bs : Option Bool) (xs : List (Option (Taken × List Taken))) : Option Bool :=
  bs.or (xs.findSome? fun x => x.bind fun y =>
    if (elemCheck f none y.1.tok (y.2.map (·.tok))).isNone then some y.1.tok.s else none)

/-- What the elements of a tile do in a cycle: nothing, a step, or a fault; `fails` says of which accumulators the protection
code cannot correct the read (R252). -/
def tileSteps (cyc : Nat) (pcw : Word) (ms : Vector Word 16) (b : Bank) (fails : Nat → Bool) (prior : List TileOp) (t : TileOp) :
    List (Option (Except Cause Word)) :=
  let xs := (List.finRange 256).map (t.elem cyc prior)
  let sc := scaleOf t.fmt b.s xs
  (List.finRange 256).zipWith (fun e x => x.map fun y => if fails e.val then .error .eccUncorrectable else
    elemStep t pcw b.int sc (ms.toList.getD (e.val / 16) 0) t.steps[e] b.acc[e] y) xs

/-- The elements that step. -/
def stepped (rs : List (Option (Except Cause Word))) (e : Nat) : Option Word :=
  match rs.getD e none with
  | some (.ok v) => some v
  | _ => none

/-- The bank after a cycle's steps (R66, R236). -/
def bankStep (f : Fmt) (b : Bank) (xs : List (Option (Taken × List Taken))) (rs : List (Option (Except Cause Word))) : Bank :=
  { b with acc := Vector.ofFn fun e => (stepped rs e.val).getD b.acc[e]
           s := if (List.range 256).any fun e => (stepped rs e).isSome then scaleOf f b.s xs else b.s }

/-- The tile after a cycle's steps: after the last step of its last element its completion is fixed (R231). -/
def stepTile (cyc : Nat) (t : TileOp) (rs : List (Option (Except Cause Word))) : TileOp :=
  let st : Vector Nat 256 := Vector.ofFn fun e => t.steps[e] + (if (stepped rs e.val).isSome then 1 else 0)
  { t with steps := st, fin := if t.fin.isNone && st.toList.all (· == t.k) then some (cyc + 1) else t.fin }

/-- The token that a chained tile passes on, its block's header ahead of its first element. -/
def passOn (cyc k : Nat) (x : Taken) : List (Nat × Nat × Token) :=
  (if x.first then [(k, cyc + 1, { kind := .blkh, fmt := x.tok.fmt, s := x.tok.s, payload := x.hdr })] else []) ++ [(k, cyc + 1, x.tok)]

/-- The tokens that leave a chained tile's last column (R232). -/
def eastOut (cyc : Nat) (t : TileOp) (rs : List (Option (Except Cause Word))) : List (Nat × Nat × Token) :=
  (List.range 16).flatMap fun m =>
    if (stepped rs (16 * m + 15)).isSome then ((t.took .west m)[t.steps.toList.getD (16 * m + 15) 0]?.map (passOn cyc m)).getD [] else []

/-- How many north tokens have had their last use after j steps (R236). -/
def northDone (t : TileOp) (j : Nat) : Nat :=
  if t.spar == .dense then j else if t.wide then 4 * ((j + (if j = t.k then 1 else 0)) / 2) else 2 * j

/-- The tokens that leave a chained tile's last row (R232). -/
def southOut (cyc : Nat) (t : TileOp) (rs : List (Option (Except Cause Word))) : List (Nat × Nat × Token) :=
  (List.range 16).flatMap fun n =>
    let j := t.steps.toList.getD (240 + n) 0
    if (stepped rs (240 + n)).isSome then
      (((t.took .north n).drop (northDone t j)).take (northDone t (j + 1) - northDone t j)).flatMap (passOn cyc n)
    else []

/-- Whether a chained edge brings a tile of other fields than the operation that takes it (R232). -/
def chainClash (fed : Bool) (c : Option ChainTile) (t : TileOp) : Bool :=
  fed && (match c with
    | some c => c.fmt != t.fmt || c.spar != t.spar || c.k != t.k
    | none => false)

/-- The tile whose fields differ from those of the tokens it has taken from a chained edge: its place and number (R232). -/
def clashing (m : Mxa) (fedW fedN : Bool) : Option (Nat × Nat) :=
  m.tiles.zipIdx.findSome? fun x =>
    let takes (e : Edge) : Bool := (List.range 16).any fun k => !(x.1.took e k).isEmpty
    if (takes .west && chainClash fedW m.cw[x.2]? x.1) || (takes .north && chainClash fedN m.cn[x.2]? x.1) then some (x.2, x.1.op) else none

/-- The metadata of the i-th tile: the sender's when the west edge is chained, else the array's own (R232). -/
def tileMeta (m : Mxa) (fedW : Bool) (i : Nat) : Vector Word 16 := if fedW then (m.cw.getD i {}).m else m.m

/-- One cycle of an array's tiles from the i-th on, those before as they stood; it ends at a tile that faults. -/
def tilesStep (s : State) (p : Nat) (l : Letter) (prior : List TileOp) (i : Nat) : List TileOp → State × Option (Nat × Nat × Cause)
  | [] => (s, none)
  | t :: r =>
    let n := mxaNode p
    let q := s.plane n l
    let m := q.mxa
    let ms := tileMeta m (chainFed s p l .west) i
    let b := m.bank t.bank
    let rs := tileSteps s.cycle q.pcw ms b (fun e => !s.upsets.isEmpty && wordFails s (accHome (panelOf s n l) l t.bank e)) prior t
    let u := stepTile s.cycle t rs
    let che := t.chn && cheOf q
    let chs := t.chn && chsOf q
    let east := if che then eastOut s.cycle t rs else []
    let south := if chs then southOut s.cycle t rs else []
    let none15 (col : Bool) : Bool := (List.range 16).all fun k => t.steps.toList.getD (if col then 16 * k + 15 else 240 + k) 0 == 0
    let s := updMxa s n l fun m =>
      { m.setBank t.bank (bankStep t.fmt b ((List.finRange 256).map (t.elem s.cycle prior)) rs) with
        tiles := m.tiles.map fun v => if v.op = t.op then u else v, east := m.east ++ east, south := m.south ++ south }
    let c : ChainTile := { fmt := t.fmt, spar := t.spar, k := t.k, m := ms }
    let s := if !east.isEmpty && none15 true then announce s (chainTo s p l .west) l .west c else s
    let s := if (List.range 16).any (fun k => (stepped rs (240 + k)).isSome) && chs && none15 false then
        announce s (chainTo s p l .north) l .north c else s
    match rs.findSome? fun x => x.bind fun y => (match y with
      | .error c => some c
      | .ok _ => none) with
    | some c => (s, some (i, t.op, c))
    | none => tilesStep s p l (prior ++ [t]) (i + 1) r

/-- A list without its element at a place. -/
def dropAt {α : Type} (xs : List α) (i : Nat) : List α := xs.take i ++ xs.drop (i + 1)

/-- A tile leaves the grid, and with it what chaining announced of its tokens. -/
def dropTile (s : State) (n : NodeId) (l : Letter) (i op : Nat) : State :=
  updMxa s n l fun m => { m with tiles := m.tiles.filter fun t => !decide (t.op = op), cw := dropAt m.cw i, cn := dropAt m.cn i }

/-- A fault of a tile: its elements keep the steps they have taken, and the record holds what each lane has consumed (R236). -/
def tileFault (s : State) (n : NodeId) (l : Letter) (i op : Nat) (c : Cause) : State :=
  match s.op? n l op, (s.plane n l).mxa.tiles.find? fun t => decide (t.op = op) with
  | some o, some t => takeTrap (abandonOp (dropTile s n l i op) n l op 0) { opTrap s n l o c with lanes := t.consumed }
  | _, _ => s

/-- The words of an array's own memory that a cycle of its grid has read: those of the lanes that gave tokens, and the
accumulators of the elements that step. -/
def gridReads (s : State) (n : NodeId) (l : Letter) (ts : List TileOp) : List Nat :=
  ts.flatMap fun t =>
    ([(Edge.west, 0), (Edge.north, 16)].flatMap fun e => (List.range 16).filterMap fun k =>
      if (t.took e.1 k).any (fun x => x.at_ == s.cycle) then some (laneHome (panelOf s n l) l (e.2 + k)) else none)
      ++ (List.finRange 256).filterMap fun e => if (t.elem s.cycle [] e).isSome then some (accHome (panelOf s n l) l t.bank e.val) else none

/-- One cycle of the grid: the lanes give their tokens, then the elements step (R231). -/
def gridWork (s : State) (p : Nat) (l : Letter) : State :=
  let n := mxaNode p
  let m := (s.plane n l).mxa
  if m.tiles.isEmpty then s
  else
    let (m, bad) := lanesTake s n l m
    let s := updMxa s n l fun _ => m
    let s := if s.upsets.isEmpty then s else (readWords s (ctxOf s n l) (gridReads s n l m.tiles)).1
    match clashing m (chainFed s p l .west) (chainFed s p l .north) with
    | some (i, op) => tileFault s n l i op .tagMismatch
    | none =>
      match tilesStep s p l [] 0 m.tiles with
      | (s, some (i, op, c)) => tileFault s n l i op c
      | (s, none) => match bad with
        | some c => headFault s n l c
        | none => s

/-- MMA and MMAS at issue (R236, R237): the bank's kind, and for MMAS the array's own metadata. -/
def tileIssue (f : Fmt) (sp : Spar) (b : Bool) (kcnt : BitVec 8) (chn : Bool) (s : State) : State :=
  let n := actNode s
  let l := actLetter s
  let m := (s.plane n l).mxa
  let k := kcnt.toNat + 1
  let own := !chainFed s (panelOf s n l) l .west
  let chk := if (m.bank b).int != (f == .i8) then some Cause.tagMismatch
    else if own && m.m.toList.any (metaBad sp f.lanes k) then some .metadataInvalid else none
  launch s 1 .disc [] chk (fun o => { o with kind := .mxa, ready := false }) fun o t =>
    updMxa t n l fun m => { m with tiles := m.tiles ++ [{ op := o.id, fmt := f, bank := b, k := k, spar := sp, chn := chn, issued := s.cycle }] }

/-- MMA (R236). -/
def execMma (f : Fmt) (bank : Bool) (kcnt : BitVec 8) (chn : Bool) (s : State) : Res := .next (tileIssue f .dense bank kcnt chn s)
/-- MMAS (R236, R237). -/
def execMmas (f : Fmt) (sp : Spar) (bank : Bool) (kcnt : BitVec 8) (chn : Bool) (s : State) : Res :=
  .next (tileIssue f sp bank kcnt chn s)

/-- A token that the oldest tile passes on still stands at an output: more tokens than the chained tiles behind it have passed on. -/
def tileOuts (m : Mxa) : Bool :=
  let later := (m.tiles.drop 1).filter (·.chn)
  let datas (xs : List (Nat × Nat × Token)) (k : Nat) : Nat := (xs.filter fun x => x.1 == k && x.2.2.kind == .data).length
  (List.range 16).any fun k =>
    decide ((later.map fun t => t.steps.toList.getD (16 * k + 15) 0).sum < datas m.east k)
      || decide ((later.map fun t => northDone t (t.steps.toList.getD (240 + k) 0)).sum < datas m.south k)

/-- TILE_COMPLETE (R231, R232): the oldest tile's last step has been performed at its last element and, chained, every token it
passes on has left. -/
def execTileComplete (p : Nat) (l : Letter) (s : State) : Res :=
  let n := mxaNode p
  let m := (s.plane n l).mxa
  .next (match m.tiles with
    | [] => s
    | t :: _ =>
      match t.fin with
      | none => s
      | some d => if s.cycle < d || (t.chn && tileOuts m) then s else opDone (dropTile s n l 0 t.op) n l t.op)

/-! ### ZAC, ACCL, DRN (R239, R240) -/

/-- ZAC (R239). -/
def execZac (f : Fmt) (bank : Bool) (s : State) : Res :=
  let n := actNode s
  let l := actLetter s
  .next (launch s 1 .disc [] none (fun o => { o with kind := .mxa }) fun _ t =>
    updMxa t n l fun m => m.setBank bank { int := f == .w32 })

/-- ACCL (R239): the values then come from i2. -/
def execAccl (f : Fmt) (bank : Bool) (s : State) : Res :=
  let n := actNode s
  let l := actLetter s
  .next (launch s 1 .disc [] none (fun o => { o with kind := .mxa, ready := false }) fun o t =>
    updMxa t n l fun m => { m.setBank bank { m.bank bank with int := f == .w32, s := none } with
      drain := some { op := o.id, fmt := f, bank := bank, acc := true, since := s.cycle } })

/-- One value of an accumulator load (R239). -/
def acclWork (s : State) (n : NodeId) (l : Letter) (d : DrainOp) : State :=
  match headTok n (s.plane n l) 2 with
  | none => s
  | some t =>
    if 256 ≤ d.pos then s
    else
      let b := (s.plane n l).mxa.bank d.bank
      let s := consume s n l 2
      if t.kind != .data || t.fmt != d.fmt then unitFault s n l d.op d.pos .tagMismatch
      else if b.s.isSome && b.s != some t.s then unitFault s n l d.op d.pos .scaleMismatch
      else updMxa s n l fun m => { m.setBank d.bank { b with acc := b.acc.set (Fin.ofNat 256 d.pos) t.payload, s := some t.s } with
        drain := some { d with pos := d.pos + 1 } }

/-- The drain route of a DRN: the STEER head of i3 when the slot tests for it, else `DDEF` (R240). -/
def drainRoute (s : State) (n : NodeId) (l : Letter) (k : Nat) : List Src × Nat :=
  let p := s.plane n l
  let tw := (actWords s n l k).1
  if tTP tw == 3 && tTT tw == 14 then ([.inC 3], field (readPort s 3).payload.toNat 7 0) else ([], field (mxcOf p) 3 0)

/-- DRN (R240). -/
def execDrn (f : Fmt) (bank : Bool) (s : State) : Res :=
  let n := actNode s
  let l := actLetter s
  let p := s.plane n l
  .next (match s.cur with
    | .slot _ _ k =>
      let (srcs, r) := drainRoute s n l k
      let chk := if (p.mxa.bank bank).int != (f == .w32 || f == .i8) then some Cause.tagMismatch
        else if 15 < r || !rwWired (p.ext.getD r 0) then some .portUnwired else none
      launch s 1 .disc srcs chk (fun o => { o with kind := .mxa, ready := false }) fun o t =>
        updMxa t n l fun m => { m with drain := some { op := o.id, fmt := f, bank := bank, route := r, since := s.cycle } }
    | _ => s)

/-- An accumulator as a lane of a drained token (R240). -/
def drainLane (f : Fmt) (x : Word) : Nat :=
  match f with
  | .i8 => codeOf 8 (clampI x.toInt (smin 8) (smax 8))
  | .f32 => x.toNat
  | .w32 => x.toNat
  | _ => (fCvt .f32 f .rne false x.toNat).1

/-- The tokens of one row of a drain, with their ports (R240). -/
def drainRow (f : Fmt) (sb : Bool) (row : List Word) : List (Nat × Token) :=
  let g := f.lanes
  (List.range (4 / g)).flatMap fun t => (List.range 4).map fun q =>
    (q, { fmt := f, s := sb, payload := packLanes f ((List.range g).map fun i => drainLane f (row.getD (4 * q + g * t + i) 0)) })

/-- A drain port's consumer asks for a token, a lazy one by a request that has come over the return wire (R24, R164, R240). -/
def drainAsked (s : State) (n : NodeId) (l : Letter) (port : Nat) : Target → Bool
  | .port m ml k _ =>
    let p := s.plane m ml
    seenRoom s n m ml k && (!iwLazy p.inw[k] || !p.active
      || (s.plane n l).mxa.reqs.any fun r => r.1 == port && decide (r.2 ≤ s.cycle))
  | .spill i _ => decide ((s.inst i).spill < spillCap)
  | .net m => netLinked s m && decide (netUsed s m < netCap)
  | .unwritten => false

/-- Sends the first waiting token of each of a list of ports of drain route `r` whose consumer asks for it; the request that it meets
is withdrawn. -/
def drainSend (s : State) (n : NodeId) (l : Letter) (r : Nat) (out : List (Nat × Token)) : List Nat → State × List (Nat × Token)
  | [] => (s, out)
  | q :: qs =>
    let tg := drainTarget s n l ((s.plane n l).ext.getD r 0) q
    match out.find? fun e => e.1 == q with
    | none => drainSend s n l r out qs
    | some e =>
      if drainAsked s n l (4 * r + q) tg then
        let s := updMxa (deliver s n l e.2 tg) n l fun m => { m with reqs := m.reqs.filter fun x => x.1 != 4 * r + q }
        drainSend s n l r (out.erase e) qs
      else drainSend s n l r out qs

/-- One cycle of a drain: tokens that wait go out, then the next row is read and zeroed in its cycle (R240). -/
def drnWork (s : State) (n : NodeId) (l : Letter) (d : DrainOp) : State :=
  let p := s.plane n l
  let b := p.mxa.bank d.bank
  let reads := d.out.isEmpty && decide (d.pos < 16) && decide (d.since + slow s n (1 + 4 * d.pos) ≤ s.cycle)
  let (s, c) := if reads && !s.upsets.isEmpty then
      readWords s (ctxOf s n l) ((List.range 16).map fun c => accHome (panelOf s n l) l d.bank (16 * d.pos + c)) else (s, none)
  match c with
  | some c => unitFault s n l d.op d.pos c
  | none =>
  let (d, b) := if reads then
      let row := (List.range 16).map fun c => b.acc.toList.getD (16 * d.pos + c) 0
      ({ d with out := drainRow d.fmt (b.s.getD false) row, pos := d.pos + 1 },
       { b with acc := Vector.ofFn fun e => if e.val / 16 = d.pos then 0 else b.acc[e] })
    else (d, b)
  let (s, out) := drainSend s n l d.route d.out [0, 1, 2, 3]
  updMxa s n l fun m => { m.setBank d.bank b with drain := some { d with out := out } }

/-- The drain unit's cycle. -/
def drainWork (s : State) (n : NodeId) (l : Letter) : State :=
  match (s.plane n l).mxa.drain with
  | none => s
  | some d => if d.acc then acclWork s n l d else drnWork s n l d

/-- DRAIN_COMPLETE (R239, R240): 64 cycles after a DRN at the earliest, and 256 after an ACCL; a drain leaves the scale
state unset. -/
def execDrainComplete (p : Nat) (l : Letter) (s : State) : Res :=
  let n := mxaNode p
  let m := (s.plane n l).mxa
  .next (match m.drain with
    | none => s
    | some d =>
      let done := if d.acc then decide (256 ≤ d.pos) && decide (d.since + slow s n 256 ≤ s.cycle)
        else decide (16 ≤ d.pos) && d.out.isEmpty && decide (d.since + slow s n 64 ≤ s.cycle)
      if !done then s
      else opDone (updMxa s n l fun m =>
        { (if d.acc then m else m.setBank d.bank { m.bank d.bank with s := none }) with drain := none }) n l d.op)

/-! ### LDE and LDT (R201, R241) -/

/-- The end of a load's extent: the last line's last word, as a byte address (R241). -/
def loadEnd (trans : Bool) (g k a : Nat) : Nat :=
  let (l0, w0) := loadLine a
  if trans then (l0 + g * k - 1) * 128 + (w0 + 16 / g) * 4 else (l0 + 15) * 128 + (w0 + k) * 4

/-- The checks of LDE and LDT (R36, R241). -/
def loadCheck (x : Window) (trans : Bool) (g k off : Nat) : Option Cause :=
  let a := x.base + off
  let (_, w0) := loadLine a
  let wide := if trans then decide (32 < w0 + 16 / g) else decide (32 < w0 + k)
  (winExtent x [.scratch] .read 4 0 off).or
    (if wide then some .windowBounds else winExtent x [.scratch] .read 4 (loadEnd trans g k a - a) off)

/-- LDE and LDT at issue: the offset token of i2 is consumed (R241). -/
def loadIssue (trans : Bool) (f : Fmt) (e : Edge) (w : BitVec 4) (kcnt : BitVec 8) (s : State) : State :=
  let n := actNode s
  let l := actLetter s
  let y := readSrc s .w32 (.inC 2)
  let x := winOf s (actInst s) w.toNat
  let off := y.tok.payload.toNat
  let k := kcnt.toNat + 1
  let chk := (checkOpds f [(y, .w32)]).or (loadCheck x trans f.lanes k off)
  launch s 1 .disc [.inC 2] chk (fun o => { o with kind := .mxa, ready := false, win := w.toNat }) fun o t =>
    updMxa t n l fun m => m.setLoader e (some
      { op := o.id, trans := trans, fmt := f, win := w.toNat, addr := x.base + off, k := k, next := s.cycle + 1 })

/-- LDT (R241). -/
def execLdt (f : Fmt) (e : Edge) (w : BitVec 4) (kcnt : BitVec 8) (s : State) : Res := .next (loadIssue true f e w kcnt s)
/-- LDE (R241). -/
def execLde (f : Fmt) (e : Edge) (w : BitVec 4) (kcnt : BitVec 8) (s : State) : Res := .next (loadIssue false f e w kcnt s)

/-- A word of a scratchpad line under a window's swizzle (R201). -/
def lineWord (s : State) (p : Nat) (x : Window) (line word : Nat) : Word :=
  memWord s.mem (homeScratch p (swizzle x.swz (128 * line + 4 * word)))

/-- The tokens that a load makes of what it reads in its next cycle, with their lanes (R241): an LDE a k-group for every lane, an LDT
the k-groups of its slab for the lanes whose columns the word holds, element i of each from the i-th of its lines. -/
def readTokens (s : State) (p : Nat) (x : Window) (d : LoadOp) : List (Nat × Token) :=
  let (line, word) := readAt d
  let g := d.fmt.lanes
  let tok (v : Word) : Token := { fmt := d.fmt, s := x.lset, payload := v }
  if d.trans then
    (slabLanes d).zipIdx.flatMap fun k => (List.range (slabLen d)).map fun q =>
      (k.1, tok (packLanes d.fmt ((List.range g).map fun i => lane d.fmt (lineWord s p x (line + g * q + i) word) k.2)))
  else (List.range 16).map fun k => (k, tok (lineWord s p x (line + k) word))

/-- Gives lanes of an edge the tokens that they have room for, each lane's in order; the others stay. -/
def giveLanes (s : State) (p : Nat) (l : Letter) (e : Edge) (stuck : List Nat) : List (Nat × Token) → State × List (Nat × Token)
  | [] => (s, [])
  | x :: t =>
    if stuck.contains x.1 || !laneFree (s.plane (mxaNode p) l).mxa (laneIx e x.1) then
      let (s, r) := giveLanes s p l e (x.1 :: stuck) t
      (s, x :: r)
    else giveLanes (pushLane s (mxaNode p) l (laneIx e x.1) x.2) p l e stuck t

/-- Gives lanes what a loader has assembled for them. -/
def flushSlab (s : State) (p : Nat) (l : Letter) (e : Edge) (d : LoadOp) (ts : List (Nat × Token)) : State :=
  let (s, r) := giveLanes s p l e [] (d.slab ++ ts)
  updMxa s (mxaNode p) l fun m => if (m.loader e).isSome then m.setLoader e (some { d with slab := r }) else m

/-- One cycle of a loader: what lanes have still to take, then a block header of i2, or a read (R241). -/
def loaderWork (s : State) (p : Nat) (l : Letter) (e : Edge) : State :=
  let n := mxaNode p
  let q := s.plane n l
  match q.mxa.loader e with
  | none => s
  | some d =>
    let x := winOf s q.inst d.win
    let s := if d.slab.isEmpty then s else flushSlab s p l e d []
    let d := (((s.plane n l).mxa.loader e)).getD d
    let m := (s.plane n l).mxa
    if d.k ≤ d.pos || decide (s.cycle < d.next) then s
    else if d.blk < (headersOf d).2 then
      let k := d.blk % 16
      match headTok n (s.plane n l) 2 with
      | none => s
      | some t =>
        if headersAhead m e d || !laneFree m (laneIx e k) || d.slab.any (fun y => y.1 == k) then s
        else if t.kind != .blkh || t.fmt != d.fmt then unitFault s n l d.op d.pos .tagMismatch
        else
          let s := updMxa (consume s n l 2) n l fun m => m.setLoader e (some { d with blk := d.blk + 1 })
          pushLane s n l (laneIx e k) t
    else if groupNext s m e d then
      let hs := groupHomes p x d
      let c := ctxOf s n l
      let op := (s.op? n l d.op).getD {}
      let read (h : Nat) : Access := { node := n, letter := l, op := d.op, inst := q.inst, ctx := c, home := h, opAt := op.issued }
      if phaseHeld s n l op.issued true || hs.any (fun h => promiseHeld s (read h)) || !served s (loaderRanks s p l e) then s
      else
        match readWords s c hs with
        | (s, some f) => unitFault s n l d.op d.pos f
        | (s, none) =>
          let ts := readTokens s p x d
          let bs := (loaderRanks s p l e).map (·.2)
          useBanks (flushSlab s p l e { d with pos := d.pos + 1, next := s.cycle + slow s n (if x.swz = 0 then 16 else 1) } ts) bs
    else s

/-- EDGE_LOAD_COMPLETE (R241). -/
def execEdgeLoadComplete (p : Nat) (l : Letter) (e : Edge) (s : State) : Res :=
  let n := mxaNode p
  .next (match (s.plane n l).mxa.loader e with
    | none => s
    | some d =>
      if d.pos < d.k || decide (s.cycle < d.next) || !d.slab.isEmpty then s
      else opDone (updMxa s n l fun m => m.setLoader e none) n l d.op)

/-! ### MDL (R238) -/

/-- MDL (R238). -/
def execMdl (mreg : BitVec 4) (kcnt : BitVec 8) (s : State) : Res :=
  let n := actNode s
  let l := actLetter s
  .next (launch s 1 .disc [] none (fun o => { o with kind := .mxa, ready := false }) fun o t =>
    updMxa t n l fun m => { m with mdl := some { op := o.id, reg := mreg.toNat, left := kcnt.toNat + 1 } })

/-- One word of a metadata load, from the cycle after its issue on (R235, R238). -/
def mdlWork (s : State) (n : NodeId) (l : Letter) : State :=
  match (s.plane n l).mxa.mdl, headTok n (s.plane n l) 3 with
  | some d, some t =>
    if d.left = 0 ∨ s.cycle ≤ ((s.op? n l d.op).getD {}).issued then s
    else
      let s := consume s n l 3
      if t.kind != .data || t.fmt != .w32 then unitFault s n l d.op 0 .tagMismatch
      else updMxa s n l fun m =>
        { m with m := m.m.set (Fin.ofNat 16 d.reg) t.payload, mdl := some { d with reg := d.reg + 1, left := d.left - 1 } }
  | _, _ => s

/-- METADATA_LOAD_COMPLETE (R238). -/
def execMetadataLoadComplete (p : Nat) (l : Letter) (s : State) : Res :=
  let n := mxaNode p
  .next (match (s.plane n l).mxa.mdl with
    | none => s
    | some d => if d.left = 0 then opDone (updMxa s n l fun m => { m with mdl := none }) n l d.op else s)

/-! ### CMPR (R242) -/

/-- CMPR (R242): both destinations are wired and held. -/
def execCmpr (f : Fmt) (sp : Spar) (kcnt : BitVec 8) (s : State) : Res :=
  let n := actNode s
  let l := actLetter s
  let chk := if outWired s n l 0 && outWired s n l 1 then none else some Cause.portUnwired
  .next (launch s 1 .disc [] chk (fun o => { o with kind := .mxa, ready := false }) fun o t =>
    let t := (t.updOut n l 0 fun x => { x with res := some o.id }).updOut n l 1 fun x => { x with res := some o.id }
    updMxa t n l fun m => { m with cmpr := some { op := o.id, fmt := f, spar := sp, k := kcnt.toNat + 1 } })

/-- The magnitude by which CMPR ranks an element: a NaN above every number (R242). -/
def rankMag (f : Fmt) (x : Nat) : Nat :=
  if f == .i8 then (signedOf 8 x).natAbs
  else match fval f x with
    | .nan => 2 ^ 32
    | _ => x % signBit f

/-- The positions of a group that are kept: the larger half, ties to the lower position (R242). -/
def keptOf (f : Fmt) (xs : List Nat) : List Nat :=
  let ms := xs.map (rankMag f)
  (List.range xs.length).filter fun i =>
    let beats := (List.range xs.length).filter fun j =>
      decide (ms.getD i 0 < ms.getD j 0) || (ms.getD j 0 == ms.getD i 0 && decide (j < i))
    decide (beats.length < xs.length / 2)

/-- The metadata bits of a group's kept positions, placed after `n` kept elements of its word (R237, R242). -/
def metaBits (sp : Spar) (n : Nat) (ps : List Nat) : Nat :=
  match sp with
  | .s48 => (ps.foldl (fun v p => v + 2 ^ p) 0) * 2 ^ (8 * (n / 4))
  | _ => ps.zipIdx.foldl (fun v e => v + e.1 * 2 ^ (2 * (n + e.2))) 0

/-- Compresses the next group of the values taken (R242). -/
def cmprGroup (size : Nat) (c : CmprOp) : CmprOp :=
  let xs := c.vals.take size
  let ps := keptOf c.fmt (xs.map (·.toNat))
  let meta_ := c.meta_ + metaBits c.spar (c.nkept % 16) ps
  let n := c.nkept + ps.length
  let full := n % 16 == 0
  { c with vals := c.vals.drop size, kept := c.kept ++ ps.map fun p => xs.getD p 0, nkept := n
           meta_ := if full then 0 else meta_, metas := if full then c.metas ++ [BitVec.ofNat 32 meta_] else c.metas }

/-- Compresses what can be compressed: whole groups, and the half group that ends an odd 4:8 (R242). -/
def cmprReduce (c : CmprOp) : CmprOp :=
  let size := if c.spar == .s48 then 8 else 4
  if size ≤ c.vals.length then cmprGroup size c
  else if c.taken = 2 * c.k ∧ c.vals.length = 4 then cmprGroup 4 c
  else c

/-- The last metadata word, once the last element is kept (R242). -/
def cmprLast (c : CmprOp) : CmprOp :=
  if c.taken = 2 * c.k ∧ c.vals.isEmpty ∧ c.nkept % 16 ≠ 0 ∧ c.nkept = c.k * c.fmt.lanes ∧ c.meta_ ≠ 0 then
    { c with metas := c.metas ++ [BitVec.ofNat 32 c.meta_], meta_ := 0 }
  else c

/-- One input token of a compressor (R242). -/
def cmprTake (s : State) (n : NodeId) (l : Letter) : State :=
  match (s.plane n l).mxa.cmpr, headTok n (s.plane n l) 2 with
  | some c, some t =>
    if 2 * c.k ≤ c.taken || decide (16 ≤ c.kept.length) then s
    else
      let s := consume s n l 2
      if t.kind != .data || t.fmt != c.fmt then unitFault s n l c.op c.taken .tagMismatch
      else if c.s.isSome && c.s != some t.s then unitFault s n l c.op c.taken .scaleMismatch
      else
        let c := { c with taken := c.taken + 1, s := some t.s, vals := c.vals ++ (lanesOf c.fmt t.payload).map (BitVec.ofNat 32 ·) }
        updMxa s n l fun m => { m with cmpr := some (cmprLast (cmprReduce c)) }
  | _, _ => s

/-- Places a compressor's next tokens into o0 and o1 (R242). -/
def cmprPlace (s : State) (n : NodeId) (l : Letter) : State :=
  let p := s.plane n l
  match p.mxa.cmpr with
  | none => s
  | some c =>
    let g := c.fmt.lanes
    let at_ := match s.op? n l c.op with
      | some o => o.issued
      | none => 0
    let go := decide (g ≤ c.kept.length) && p.outs[0].slot.isNone && p.outs[0].left != some s.cycle && decide (at_ + slow s n (3 + c.placed) ≤ s.cycle)
    let s := if go then s.updOut n l 0 fun o =>
        { o with slot := some { fmt := c.fmt, s := c.s.getD false, payload := packLanes c.fmt ((c.kept.take g).map (·.toNat)) } } else s
    let c := if go then { c with kept := c.kept.drop g, placed := c.placed + 1 } else c
    match c.metas, p.outs[1].slot.isNone && p.outs[1].left != some s.cycle with
    | m :: ms, true =>
      updMxa (s.updOut n l 1 fun o => { o with slot := some { payload := m } }) n l fun x => { x with cmpr := some { c with metas := ms } }
    | _, _ => updMxa s n l fun x => { x with cmpr := some c }

/-- One cycle of the compressor: two tokens in, one out. -/
def cmprWork (s : State) (n : NodeId) (l : Letter) : State := cmprPlace (cmprTake (cmprTake s n l) n l) n l

/-- CMPR_COMPLETE (R242): k + 3 cycles after issue at the earliest. -/
def execCmprComplete (p : Nat) (l : Letter) (s : State) : Res :=
  let n := mxaNode p
  .next (match (s.plane n l).mxa.cmpr with
    | none => s
    | some c =>
      let at_ := match s.op? n l c.op with
        | some o => o.issued
        | none => 0
      if c.placed < c.k || !c.metas.isEmpty || decide (s.cycle < at_ + slow s n (c.k + 3)) then s
      else
        let s := (s.updOut n l 0 fun o => { o with res := none }).updOut n l 1 fun o => { o with res := none }
        opDone (updMxa s n l fun m => { m with cmpr := none }) n l c.op)

/-! ### A cycle of an array -/

/-- One cycle of a plane's array: its outputs, drain, loaders, metadata, compressor and grid. -/
def mxaWork (s : State) (p : Nat) (l : Letter) : State :=
  let n := mxaNode p
  let go (f : State → State) (s : State) : State := if engineOn (s.plane n l) then f s else s
  let s := go (fun s => chainWork s p l) s
  let s := go (fun s => drainWork s n l) s
  let s := go (fun s => loaderWork s p l .west) s
  let s := go (fun s => loaderWork s p l .north) s
  let s := go (fun s => mdlWork s n l) s
  let s := go (fun s => cmprWork s n l) s
  go (fun s => gridWork s p l) s

end Sys2Proof.Machine
end

