-- ==== Sys2Proof/Machine/Dispatch.lean ====
section
/-! DEFINITION. The one match from an instruction to its meaning. -/

namespace Sys2Proof.Machine
open Sys2Proof

/-- The meaning of an instruction: one arm for each constructor, each a direct call of its own meaning. -/
def exec (i : Instr) (s : State) : Host.Outcome State Fault Refusal :=
  match i with
  | .add f d a b sat => Sys2Proof.Machine.execAdd f d a b sat s
  | .sub f d a b sat => Sys2Proof.Machine.execSub f d a b sat s
  | .addi d a imm => Sys2Proof.Machine.execAddi d a imm s
  | .mul f d a b sat => Sys2Proof.Machine.execMul f d a b sat s
  | .mulh f d a b => Sys2Proof.Machine.execMulh f d a b s
  | .mulhu f d a b => Sys2Proof.Machine.execMulhu f d a b s
  | .and d a b => Sys2Proof.Machine.execAnd d a b s
  | .or d a b => Sys2Proof.Machine.execOr d a b s
  | .xor d a b => Sys2Proof.Machine.execXor d a b s
  | .andn d a b => Sys2Proof.Machine.execAndn d a b s
  | .shl d a b => Sys2Proof.Machine.execShl d a b s
  | .shr d a b => Sys2Proof.Machine.execShr d a b s
  | .sar d a b => Sys2Proof.Machine.execSar d a b s
  | .rol d a b => Sys2Proof.Machine.execRol d a b s
  | .andi d a imm => Sys2Proof.Machine.execAndi d a imm s
  | .ori d a imm => Sys2Proof.Machine.execOri d a imm s
  | .min f d a b => Sys2Proof.Machine.execMin f d a b s
  | .max f d a b => Sys2Proof.Machine.execMax f d a b s
  | .minu f d a b => Sys2Proof.Machine.execMinu f d a b s
  | .maxu f d a b => Sys2Proof.Machine.execMaxu f d a b s
  | .abs f d a sat => Sys2Proof.Machine.execAbs f d a sat s
  | .neg f d a sat => Sys2Proof.Machine.execNeg f d a sat s
  | .clz d a => Sys2Proof.Machine.execClz d a s
  | .popc d a => Sys2Proof.Machine.execPopc d a s
  | .ext d a b c => Sys2Proof.Machine.execExt d a b c s
  | .ins d a b c => Sys2Proof.Machine.execIns d a b c s
  | .sel d a b c => Sys2Proof.Machine.execSel d a b c s
  | .cmp f cc d a b => Sys2Proof.Machine.execCmp f cc d a b s
  | .cmpi f cc d a imm => Sys2Proof.Machine.execCmpi f cc d a imm s
  | .adds f d a b => Sys2Proof.Machine.execAdds f d a b s
  | .subs f d a b => Sys2Proof.Machine.execSubs f d a b s
  | .mad f d a b c sat => Sys2Proof.Machine.execMad f d a b c sat s
  | .fadd f d a b rm => Sys2Proof.Machine.execFadd f d a b rm s
  | .fsub f d a b rm => Sys2Proof.Machine.execFsub f d a b rm s
  | .fmul f d a b rm => Sys2Proof.Machine.execFmul f d a b rm s
  | .fma f d a b c => Sys2Proof.Machine.execFma f d a b c s
  | .fmin f d a b => Sys2Proof.Machine.execFmin f d a b s
  | .fmax f d a b => Sys2Proof.Machine.execFmax f d a b s
  | .fabs f d a => Sys2Proof.Machine.execFabs f d a s
  | .fneg f d a => Sys2Proof.Machine.execFneg f d a s
  | .fcmp f cc d a b => Sys2Proof.Machine.execFcmp f cc d a b s
  | .fhsum f d a rm => Sys2Proof.Machine.execFhsum f d a rm s
  | .fdot f d a b c => Sys2Proof.Machine.execFdot f d a b c s
  | .fcls f d a => Sys2Proof.Machine.execFcls f d a s
  | .fclp f d a b c => Sys2Proof.Machine.execFclp f d a b c s
  | .frcp f d a rm => Sys2Proof.Machine.execFrcp f d a rm s
  | .frsq f d a rm => Sys2Proof.Machine.execFrsq f d a rm s
  | .fsqrt f d a rm => Sys2Proof.Machine.execFsqrt f d a rm s
  | .fex2 f d a rm => Sys2Proof.Machine.execFex2 f d a rm s
  | .flg2 f d a rm => Sys2Proof.Machine.execFlg2 f d a rm s
  | .ftnh f d a rm => Sys2Proof.Machine.execFtnh f d a rm s
  | .cvt f d a rm nanov => Sys2Proof.Machine.execCvt f d a rm nanov s
  | .pack f d a b => Sys2Proof.Machine.execPack f d a b s
  | .unpk f d a hi => Sys2Proof.Machine.execUnpk f d a hi s
  | .scl f d a b rm clr => Sys2Proof.Machine.execScl f d a b rm clr s
  | .itof f d a rm u => Sys2Proof.Machine.execItof f d a rm u s
  | .ftoi f d a rm sat u => Sys2Proof.Machine.execFtoi f d a rm sat u s
  | .rndi f d a rm => Sys2Proof.Machine.execRndi f d a rm s
  | .mov f d a => Sys2Proof.Machine.execMov f d a s
  | .movi d imm => Sys2Proof.Machine.execMovi d imm s
  | .movhi d imm => Sys2Proof.Machine.execMovhi d imm s
  | .mktag d a hdr => Sys2Proof.Machine.execMktag d a hdr s
  | .gtag d a => Sys2Proof.Machine.execGtag d a s
  | .plog pd pa pb lut => Sys2Proof.Machine.execPlog pd pa pb lut s
  | .pmov pd pa => Sys2Proof.Machine.execPmov pd pa s
  | .pseti mask vals => Sys2Proof.Machine.execPseti mask vals s
  | .wid d n => Sys2Proof.Machine.execWid d n s
  | .clk d half => Sys2Proof.Machine.execClk d half s
  | .iid d sel => Sys2Proof.Machine.execIid d sel s
  | .emit d a => Sys2Proof.Machine.execEmit d a s
  | .drop a => Sys2Proof.Machine.execDrop a s
  | .fwd d a => Sys2Proof.Machine.execFwd d a s
  | .steer d a k => Sys2Proof.Machine.execSteer d a k s
  | .swpt d a => Sys2Proof.Machine.execSwpt d a s
  | .stky a n => Sys2Proof.Machine.execStky a n s
  | .dmnd a n => Sys2Proof.Machine.execDmnd a n s
  | .halt => Sys2Proof.Machine.execHalt s
  | .nop => Sys2Proof.Machine.execNop s
  | .waitt d a => Sys2Proof.Machine.execWaitt d a s
  | .call d site pat => Sys2Proof.Machine.execCall d site pat s
  | .callb d n site pat => Sys2Proof.Machine.execCallb d n site pat s
  | .ret => Sys2Proof.Machine.execRet s
  | .spwn d a b => Sys2Proof.Machine.execSpwn d a b s
  | .spwnt pd a b => Sys2Proof.Machine.execSpwnt pd a b s
  | .plt d a => Sys2Proof.Machine.execPlt d a s
  | .csto d a => Sys2Proof.Machine.execCsto d a s
  | .csti d a => Sys2Proof.Machine.execCsti d a s
  | .prio c => Sys2Proof.Machine.execPrio c s
  | .trap arg => Sys2Proof.Machine.execTrap arg s
  | .brk arg => Sys2Proof.Machine.execBrk arg s
  | .rdsr d sr => Sys2Proof.Machine.execRdsr d sr s
  | .wrsr a sr => Sys2Proof.Machine.execWrsr a sr s
  | .pload d pat => Sys2Proof.Machine.execPload d pat s
  | .arm d a => Sys2Proof.Machine.execArm d a s
  | .rlat d w => Sys2Proof.Machine.execRlat d w s
  | .bsld a j => Sys2Proof.Machine.execBsld a j s
  | .bsbd a k => Sys2Proof.Machine.execBsbd a k s
  | .eretContinue => Sys2Proof.Machine.execEretContinue s
  | .eretReplay => Sys2Proof.Machine.execEretReplay s
  | .eretRetire => Sys2Proof.Machine.execEretRetire s
  | .eretTerminate => Sys2Proof.Machine.execEretTerminate s
  | .jmpr a => Sys2Proof.Machine.execJmpr a s
  | .lnk d off => Sys2Proof.Machine.execLnk d off s
  | .emul d a => Sys2Proof.Machine.execEmul d a s
  | .bsp n f d a b c sat => Sys2Proof.Machine.execBsp n f d a b c sat s
  | .mbr a off => Sys2Proof.Machine.execMbr a off s
  | .mlp h off => Sys2Proof.Machine.execMlp h off s
  | .mend a => Sys2Proof.Machine.execMend a s
  | .lds f d w a acq rel => Sys2Proof.Machine.execLds f d w a acq rel s
  | .ldl f d w a acq rel => Sys2Proof.Machine.execLdl f d w a acq rel s
  | .ldd f d w a acq rel => Sys2Proof.Machine.execLdd f d w a acq rel s
  | .ldp f d w a acq rel => Sys2Proof.Machine.execLdp f d w a acq rel s
  | .ldx f d w a acq rel => Sys2Proof.Machine.execLdx f d w a acq rel s
  | .sts f d w a b acq rel => Sys2Proof.Machine.execSts f d w a b acq rel s
  | .stl f d w a b acq rel => Sys2Proof.Machine.execStl f d w a b acq rel s
  | .std f d w a b acq rel => Sys2Proof.Machine.execStd f d w a b acq rel s
  | .stp f d w a b acq rel => Sys2Proof.Machine.execStp f d w a b acq rel s
  | .stx f d w a b acq rel => Sys2Proof.Machine.execStx f d w a b acq rel s
  | .fen d scope => Sys2Proof.Machine.execFen d scope s
  | .ldv f d w a acq rel => Sys2Proof.Machine.execLdv f d w a acq rel s
  | .stv f d w a b acq rel => Sys2Proof.Machine.execStv f d w a b acq rel s
  | .xbar d => Sys2Proof.Machine.execXbar d s
  | .pfd w a => Sys2Proof.Machine.execPfd w a s
  | .aadd d w a b acq rel => Sys2Proof.Machine.execAadd d w a b acq rel s
  | .afadd f d w a b acq rel => Sys2Proof.Machine.execAfadd f d w a b acq rel s
  | .amin d w a b acq rel => Sys2Proof.Machine.execAmin d w a b acq rel s
  | .amax d w a b acq rel => Sys2Proof.Machine.execAmax d w a b acq rel s
  | .aand d w a b acq rel => Sys2Proof.Machine.execAand d w a b acq rel s
  | .aor d w a b acq rel => Sys2Proof.Machine.execAor d w a b acq rel s
  | .axor d w a b acq rel => Sys2Proof.Machine.execAxor d w a b acq rel s
  | .axch d w a b acq rel => Sys2Proof.Machine.execAxch d w a b acq rel s
  | .acas d w a b acq rel => Sys2Proof.Machine.execAcas d w a b acq rel s
  | .sigw d w a b acq rel => Sys2Proof.Machine.execSigw d w a b acq rel s
  | .bupd f d w a b acq rel => Sys2Proof.Machine.execBupd f d w a b acq rel s
  | .bred f d w a b acq rel => Sys2Proof.Machine.execBred f d w a b acq rel s
  | .cpy d w a acq rel => Sys2Proof.Machine.execCpy d w a acq rel s
  | .cpys d w a acq rel => Sys2Proof.Machine.execCpys d w a acq rel s
  | .gth f d w a acq rel => Sys2Proof.Machine.execGth f d w a acq rel s
  | .sct f d w a b acq rel => Sys2Proof.Machine.execSct f d w a b acq rel s
  | .ltb d w a b acq rel => Sys2Proof.Machine.execLtb d w a b acq rel s
  | .lta d w a b acq rel => Sys2Proof.Machine.execLta d w a b acq rel s
  | .ltd d w a b acq rel => Sys2Proof.Machine.execLtd d w a b acq rel s
  | .ltp d w a b acq rel => Sys2Proof.Machine.execLtp d w a b acq rel s
  | .ltq d w a acq rel => Sys2Proof.Machine.execLtq d w a acq rel s
  | .dsc d w a acq rel => Sys2Proof.Machine.execDsc d w a acq rel s
  | .mma f bank kcnt chn => Sys2Proof.Machine.execMma f bank kcnt chn s
  | .mmas f sp bank kcnt chn => Sys2Proof.Machine.execMmas f sp bank kcnt chn s
  | .ldt f e w kcnt => Sys2Proof.Machine.execLdt f e w kcnt s
  | .mdl mreg kcnt => Sys2Proof.Machine.execMdl mreg kcnt s
  | .drn f bank => Sys2Proof.Machine.execDrn f bank s
  | .zac f bank => Sys2Proof.Machine.execZac f bank s
  | .cmpr f sp kcnt => Sys2Proof.Machine.execCmpr f sp kcnt s
  | .accl f bank => Sys2Proof.Machine.execAccl f bank s
  | .lde f e w kcnt => Sys2Proof.Machine.execLde f e w kcnt s
  | .mrg f r d a b => Sys2Proof.Machine.execMrg f r d a b s
  | .dns f d a => Sys2Proof.Machine.execDns f d a s
  | .sps f d a => Sys2Proof.Machine.execSps f d a s
  | .cred f r d a grp => Sys2Proof.Machine.execCred f r d a grp s
  | .cbcs f d a grp => Sys2Proof.Machine.execCbcs f d a grp s
  | .nbar d grp => Sys2Proof.Machine.execNbar d grp s
  | .nred f r d a grp => Sys2Proof.Machine.execNred f r d a grp s
  | .tokenArrival n l port => Sys2Proof.Machine.execTokenArrival n l port s
  | .cvConversion n l port => Sys2Proof.Machine.execCvConversion n l port s
  | .lazyRequest n l out k => Sys2Proof.Machine.execLazyRequest n l out k s
  | .outPortSend n l out => Sys2Proof.Machine.execOutPortSend n l out s
  | .writeBack n l op => Sys2Proof.Machine.execWriteBack n l op s
  | .microOperationStart n => Sys2Proof.Machine.execMicroOperationStart n s
  | .autoEosForward n l => Sys2Proof.Machine.execAutoEosForward n l s
  | .markAction n l => Sys2Proof.Machine.execMarkAction n l s
  | .markTimeout n l port => Sys2Proof.Machine.execMarkTimeout n l port s
  | .poisonForward n l => Sys2Proof.Machine.execPoisonForward n l s
  | .planeLoadComplete p l => Sys2Proof.Machine.execPlaneLoadComplete p l s
  | .scratchpadZeroing p => Sys2Proof.Machine.execScratchpadZeroing p s
  | .accessPerform acc ecc => Sys2Proof.Machine.execAccessPerform acc ecc s
  | .windowRelease inst => Sys2Proof.Machine.execWindowRelease inst s
  | .exchangeSwap inst => Sys2Proof.Machine.execExchangeSwap inst s
  | .nbarRelease inst grp => Sys2Proof.Machine.execNbarRelease inst grp s
  | .nredDelivery inst grp => Sys2Proof.Machine.execNredDelivery inst grp s
  | .translationAnswer acc => Sys2Proof.Machine.execTranslationAnswer acc s
  | .shootdown c => Sys2Proof.Machine.execShootdown c s
  | .rltMarkEmerge c n => Sys2Proof.Machine.execRltMarkEmerge c n s
  | .lowWaterQuery c => Sys2Proof.Machine.execLowWaterQuery c s
  | .lowWaterResult c => Sys2Proof.Machine.execLowWaterResult c s
  | .reclaim c => Sys2Proof.Machine.execReclaim c s
  | .reclaimAnswer c => Sys2Proof.Machine.execReclaimAnswer c s
  | .ltSerialisation acc => Sys2Proof.Machine.execLtSerialisation acc s
  | .layerUnitLoad acc => Sys2Proof.Machine.execLayerUnitLoad acc s
  | .pressAccept die => Sys2Proof.Machine.execPressAccept die s
  | .pressComplete die => Sys2Proof.Machine.execPressComplete die s
  | .pressFail die => Sys2Proof.Machine.execPressFail die s
  | .copyStart n => Sys2Proof.Machine.execCopyStart n s
  | .copyComplete n => Sys2Proof.Machine.execCopyComplete n s
  | .promiseMissed n => Sys2Proof.Machine.execPromiseMissed n s
  | .sliceBankZeroing level sw way => Sys2Proof.Machine.execSliceBankZeroing level sw way s
  | .laneDistribute p l e => Sys2Proof.Machine.execLaneDistribute p l e s
  | .tileComplete p l => Sys2Proof.Machine.execTileComplete p l s
  | .drainComplete p l => Sys2Proof.Machine.execDrainComplete p l s
  | .edgeLoadComplete p l e => Sys2Proof.Machine.execEdgeLoadComplete p l e s
  | .metadataLoadComplete p l => Sys2Proof.Machine.execMetadataLoadComplete p l s
  | .cmprComplete p l => Sys2Proof.Machine.execCmprComplete p l s
  | .streamOperationEnd n => Sys2Proof.Machine.execStreamOperationEnd n s
  | .collectiveResult n parts => Sys2Proof.Machine.execCollectiveResult n parts s
  | .patternFetch c pat => Sys2Proof.Machine.execPatternFetch c pat s
  | .cutterSearch req => Sys2Proof.Machine.execCutterSearch req s
  | .memberPlaced req => Sys2Proof.Machine.execMemberPlaced req s
  | .bundleWaitBound b => Sys2Proof.Machine.execBundleWaitBound b s
  | .castComplete inst => Sys2Proof.Machine.execCastComplete inst s
  | .placementTimeout b => Sys2Proof.Machine.execPlacementTimeout b s
  | .castResume inst => Sys2Proof.Machine.execCastResume inst s
  | .spillWrite n l out => Sys2Proof.Machine.execSpillWrite n l out s
  | .spillStall n l out => Sys2Proof.Machine.execSpillStall n l out s
  | .instanceEnd inst => Sys2Proof.Machine.execInstanceEnd inst s
  | .nopPacket q => Sys2Proof.Machine.execNopPacket q s
  | .launch q => Sys2Proof.Machine.execLaunch q s
  | .barrier q => Sys2Proof.Machine.execBarrier q s
  | .copy q => Sys2Proof.Machine.execCopy q s
  | .signal q => Sys2Proof.Machine.execSignal q s
  | .pattern q => Sys2Proof.Machine.execPattern q s
  | .spawned c => Sys2Proof.Machine.execSpawned c s
  | .packetSkip q => Sys2Proof.Machine.execPacketSkip q s
  | .barrierPeriodicEvaluation => Sys2Proof.Machine.execBarrierPeriodicEvaluation s
  | .barrierTimeout run => Sys2Proof.Machine.execBarrierTimeout run s
  | .copyPacketComplete run => Sys2Proof.Machine.execCopyPacketComplete run s
  | .completionAdd run => Sys2Proof.Machine.execCompletionAdd run s
  | .trapDelivery core => Sys2Proof.Machine.execTrapDelivery core s
  | .replayHold inst => Sys2Proof.Machine.execReplayHold inst s
  | .replayDivergence inst => Sys2Proof.Machine.execReplayDivergence inst s
  | .watchdog inst => Sys2Proof.Machine.execWatchdog inst s
  | .quiescence inst => Sys2Proof.Machine.execQuiescence inst s
  | .pmkInjection c => Sys2Proof.Machine.execPmkInjection c s
  | .switchOutSave inst => Sys2Proof.Machine.execSwitchOutSave inst s
  | .switchIn inst => Sys2Proof.Machine.execSwitchIn inst s
  | .tstep core n => Sys2Proof.Machine.execTstep core n s
  | .dbgcmdFreeze c => Sys2Proof.Machine.execDbgcmdFreeze c s
  | .dbgcmdStep c => Sys2Proof.Machine.execDbgcmdStep c s
  | .dbgcmdResume c => Sys2Proof.Machine.execDbgcmdResume c s
  | .stepReport c => Sys2Proof.Machine.execStepReport c s
  | .planeParity n l => Sys2Proof.Machine.execPlaneParity n l s
  | .sliceEnd pt => Sys2Proof.Machine.execSliceEnd pt s
  | .eslInjection pt => Sys2Proof.Machine.execEslInjection pt s
  | .outgoingLetterSave p => Sys2Proof.Machine.execOutgoingLetterSave p s
  | .panelExchange p => Sys2Proof.Machine.execPanelExchange p s
  | .prectWrite h pt v => Sys2Proof.Machine.execPrectWrite h pt v s
  | .selvageRewrite pt => Sys2Proof.Machine.execSelvageRewrite pt s
  | .vflimWrite h vf k v => Sys2Proof.Machine.execVflimWrite h vf k v s
  | .pcfgWrite h q v => Sys2Proof.Machine.execPcfgWrite h q v s
  | .linkDown link => Sys2Proof.Machine.execLinkDown link s
  | .peerAccessArrival src seq c va op => Sys2Proof.Machine.execPeerAccessArrival src seq c va op s
  | .regRd h off len => Sys2Proof.Machine.execRegRd h off len s
  | .regWr h off len v => Sys2Proof.Machine.execRegWr h off len v s
  | .memRd h c va len => Sys2Proof.Machine.execMemRd h c va len s
  | .memWr h c va data => Sys2Proof.Machine.execMemWr h c va data s
  | .doorbell h c qcb tail => Sys2Proof.Machine.execDoorbell h c qcb tail s
  | .makeResident h c qcb => Sys2Proof.Machine.execMakeResident h c qcb s
  | .switchOut h c qcb => Sys2Proof.Machine.execSwitchOut h c qcb s
  | .enable h c qcb => Sys2Proof.Machine.execEnable h c qcb s
  | .resume h c qcb => Sys2Proof.Machine.execResume h c qcb s
  | .disable h c qcb => Sys2Proof.Machine.execDisable h c qcb s
  | .queueDisabled q => Sys2Proof.Machine.execQueueDisabled q s
  | .sigwr h c va v => Sys2Proof.Machine.execSigwr h c va v s
  | .power h island st => Sys2Proof.Machine.execPower h island st s
  | .powerTransitionComplete island => Sys2Proof.Machine.execPowerTransitionComplete island s
  | .attest h nonce => Sys2Proof.Machine.execAttest h nonce s
  | .powerOnReset imgs => Sys2Proof.Machine.execPowerOnReset imgs s
  | .thermalTrip temp => Sys2Proof.Machine.execThermalTrip temp s
  | .tripRecovery => Sys2Proof.Machine.execTripRecovery s
  | .linkUp link => Sys2Proof.Machine.execLinkUp link s
  | .memoryLinkDown link => Sys2Proof.Machine.execMemoryLinkDown link s
  | .linkLevelRetry link => Sys2Proof.Machine.execLinkLevelRetry link s
  | .connectionSetUp port k => Sys2Proof.Machine.execConnectionSetUp port k s

end Sys2Proof.Machine
end

