-- ==== Sys2Proof/Machine/Work.lean ====
section
/-! DEFINITION. One cycle of work of a plane's engine: a memory port, a copy node, a matrix array, a stream engine. -/

namespace Sys2Proof.Machine
open Sys2Proof

/-- The work of a node's copy engine, when the running copy is the plane's (R218). -/
def planeCopies (s : State) (n : NodeId) (l : Letter) : State := if copyLetter s n = some l then copyWork s n else s

/-- The stream engine's work, when its operation is the plane's (R245). -/
def planeStream (s : State) (n : NodeId) (l : Letter) : State :=
  match (s.node n).engine with
  | some e => if e.letter = l then streamWork s n else s
  | none => s

/-- One cycle of a plane's engine; an engine works at most once in a cycle of its clock (R207, R218, R229, R245, R423;
log 1). -/
def engineWork (s : State) (n : NodeId) (l : Letter) : State :=
  if engineRests s n l then s
  else
    let s := s.updPlane n l fun p => { p with worked := some s.cycle }
    match kindOf n, n with
    | .mp, _ => planeCopies (portWork s n l) n l
    | .cp, _ => planeCopies s n l
    | .mxa, .panel p _ => mxaWork s p l
    | .mg, _ => planeStream s n l
    | .pc, _ => planeStream s n l
    | _, _ => s

end Sys2Proof.Machine
end

