-- ==== Sys2Proof/Machine/Turns.lean ====
section
/-! DEFINITION. What a unit does in its turn: issue from a slot, a micro-operation, a core's position, a cycle of
an engine's work, an event (log 1). -/

namespace Sys2Proof.Machine
open Sys2Proof

/-- Continues after a step that gives a next state. -/
def andThen (r : Res) (f : State → State) : Res :=
  match r with
  | .next s => .next (f s)
  | .fault e => .fault e
  | .refused e => .refused e

/-- A slot's firing: its word decoded and run, or its decoding fault (R107, R135). -/
def fireSlot (s : State) (n : NodeId) (l : Letter) (k : Nat) : Res :=
  match slotInstr n (actWords s n l k).2 with
  | .error e => .next (slotFault { s with cur := .slot n l k } n l k e.cause [])
  | .ok i => exec i { s with cur := .slot n l k }

/-- A node's issue (R15, R28, R168, R169, R328). -/
def issueTurn (s : State) (n : NodeId) : Res :=
  if !nodeExists n then .fault .noSuchUnit
  else if !powered s n then .next s
  else
    match choose s n with
    | none => .next s
    | some (d, l, c) =>
      let s := if c == .mark && arrives s n l then countArrival s n l d else countIssue s n l d c
      match c with
      | .mark => exec (.markAction n l) { s with cur := .device }
      | .eos => exec (.autoEosForward n l) { s with cur := .device }
      | .slot k => fireSlot s n l k

/-- A sequencer's micro-operation (R192 to R195). -/
def microTurn (s : State) (n : NodeId) : Res :=
  if !nodeExists n then .fault .noSuchUnit
  else if !powered s n then .next s
  else
    match microRead s n with
    | (s, some e) => .next (bspFault { s with cur := .micro n (((s.node n).seqr.map (·.letter)).getD .a) } n e)
    | (s, none) => match microFetch s n with
    | none => .next s
    | some (l, .error _) => .next (bspFault { s with cur := .micro n l } n .bespokeIllegal)
    | some (l, .ok i) => andThen (exec i { s with cur := .micro n l }) fun t => microAdvance t n

/-- A core's next position (R91, R189, R364). -/
def coreTurn (s : State) (c : Nat) : Res :=
  if 1024 ≤ c then .fault .noSuchUnit
  else if !powered s (.panel (corePanel c) 0) then .next s
  else
    match coreFetch s c with
    | (s, .idle) => .next s
    | (s, .fault e) => .next (handlerFault { s with cur := .core c } c e)
    | (s, .skip) => .next (coreSkip s c)
    | (s, .run sw i) => andThen (exec i { s with cur := .core c }) fun t => coreAdvance t c (s.core c).serving sw

/-- An event of the device or an input. A word is no event; the EOS and mark actions are issues of their node (R15). -/
def eventTurn (s : State) (i : Instr) : Res :=
  if isWord i then .next s
  else if !eventExists i then .fault .noSuchUnit
  else if !eventPowered s i then .next s
  else match i with
    | .markAction n _ => issueTurn s n
    | .autoEosForward n _ => issueTurn s n
    | i => exec i { s with cur := .device }

/-- A command that waited for an earlier one of its connection is performed once that is finished (R417). -/
def hostTurn (s : State) : Res :=
  match s.dev.hostq.find? fun e => !connBusy (s.updDev fun d => { d with hostq := [] }) e.1 with
  | none => .next s
  | some e =>
    andThen (runCommand e.1 e.2 { (s.updDev fun d => { d with hostq := [] }) with cur := .device }) fun t =>
      t.updDev fun d => { d with hostq := s.dev.hostq.erase e ++ d.hostq, lastLink0 := s.dev.lastLink0 }

/-- A Flosy message arrives (R415, R416): its command, or the refusal of a message that is none. One without a whole header is lost. -/
def messageTurn (s : State) (h : Flosy) (bs : List Byte) : Res :=
  let v := leNat (bs.take 32)
  let h := { h with tag := BitVec.ofNat 16 (v / 2 ^ 16) }
  if bs.length < 32 ∨ carriesFlosy s h = false then .next s
  else match (headerOf v).bind fun x => commandOf x (bs.drop 32) with
    | some c => runCommand h c { s with cur := .device }
    | none => .next (reply (noteLink0 s h) h (v % 2 ^ 8) 1 [])

/-- A bit error appears in a word of memory; a second one in the same word is beyond correction (R266). -/
def addUpset (s : State) (a : Nat) (double : Bool) : State :=
  { s with upsets := mset s.upsets (codeWord a) (double || (mget? s.upsets (codeWord a)).isSome) }

/-- A turn (log 1). -/
def turnStep (t : Turn) (s : State) : Res :=
  match t with
  | .issue n => issueTurn s n
  | .micro n => microTurn s n
  | .core c => coreTurn s c
  | .work n l => if !nodeExists n then .fault .noSuchUnit else .next (if powered s n then engineWork s n l else s)
  | .qcopy e => .next (if islandRuns s 20 then queueCopyWork s e else s)
  | .press die => .next (if islandRuns s (16 + die % 4) then pressWork s (die % 4) else s)
  | .upset a d => .next (addUpset s a d)
  | .event i => eventTurn s i
  | .message h bs => messageTurn s h bs
  | .tick => andThen (hostTurn s) tick

end Sys2Proof.Machine
end

