-- ==== Sys2Proof/Machine/Step.lean ====
section
/-! DEFINITION. One step of the device: the next turn, and what the unit whose turn it is does (log 1). -/

namespace Sys2Proof.Machine
open Sys2Proof

/-- One step: the next turn and what it does. -/
def step (s : State) : Host.Outcome State Fault Refusal := turnStep (nextTurn s).1 (nextTurn s).2

/-- The state with a table row's word stored where the next step fetches it. -/
def State.withFetchWord (s : State) (nbits w : Nat) : State := placeWord s nbits w

end Sys2Proof.Machine
end

