-- ==== Sys2Proof/Safety.lean ====
section
/-! DEFINITION. What a safe state and a safe step are, and what an instruction leaves alone, in the terms the
statements use. -/

namespace Sys2Proof.Machine
open Sys2Proof

/-- The memory of a state is in its canonical form (log 4). -/
def State.memOk (s : State) : Prop := Memory.wf s.mem = true

/-- A step that gives a next state keeps a property. -/
def StepKeeps (inv : State → Prop) : Prop :=
  ∀ s t, inv s → step s = .next t → inv t

/-- What neither a firing nor a trap touches: all memory, the panels' route tables, bespoke stores and exchange banks,
the slice banks, accesses, requests, bundles, packets, queues, virtual functions' partitions, ports, messages,
and the device control block. Left out are the nodes, which `SameRegs` speaks of, and what taking a trap writes:
contexts, instances, traps, cores, withheld events, and the model's counters (R364, R366, R380, R398). -/
def State.rest (s : State) : State :=
  { s with nodes := [], ctxs := [], insts := [], traps := [], cores := [], vfs := [], ids := 0, free := 0 }

/-- Every register and predicate of every plane is unchanged (R14). -/
def SameRegs (s t : State) : Prop :=
  ∀ n l, (t.plane n l).g = (s.plane n l).g ∧ (t.plane n l).h = (s.plane n l).h ∧ (t.plane n l).p = (s.plane n l).p

/-- The frame of an instruction that writes no register and no memory as it issues. -/
def Framed (s t : State) : Prop := t.rest = s.rest ∧ SameRegs s t

end Sys2Proof.Machine
end

