-- ==== Sys2Proof/Certificates/Slice0/Obligations.lean ====
section
/-! DEFINITION. The statements for the provers, in the order of OBLIGATIONS.json. The terms they share stand
first, in `Sys2Proof.Said`. -/

namespace Sys2Proof.Said
open Sys2Proof Sys2Proof.Machine

/-! ### Shared terms -/

/-- The handler action under which a decoder reads the one ERET word as this instruction (R372). -/
def readsUnder (tact : Nat) : Instr → Prop
  | .eretContinue => tact = 0
  | .eretReplay => tact = 1
  | .eretRetire => tact = 2
  | .eretTerminate => 3 ≤ tact
  | _ => True

/-- The acting unit can take a result for `d`: a slot whose destination, if an out-port, is wired (R25), a bespoke
sequence that runs, a core, or an EMUL whose destination is wired in the image's plane (R190). -/
def CanDeliver (s : State) (d : Dst) : Prop :=
  match s.cur with
  | .slot n l _ => dstUnwired s n l d = false
  | .micro n _ => (s.node n).seqr.isSome = true
  | .core _ => True
  | .emul c => dstUnwired s (s.core c).tselNode (s.core c).tselLetter d = false
  | .device => False

/-- Ending the issue of an instruction with the result `tok` (R17, R18, R25, R91, R106, R133 to R138, R190, R193,
R260): in a slot one more operation is in flight, due `lat` cycles of its island on (R423), with nothing else written but a second
operation that a node off the stitches keeps for its predicate update; in a micro-word, a handler and an EMUL the
destination is written there and then, and nothing else. -/
def Delivers (s t : State) (lat : Nat) (d : Dst) (srcs : List Src) (tok : Token) : Prop :=
  match s.cur with
  | .slot n l k =>
    Framed s t ∧ ∃ o more, (t.plane n l).ops = (s.plane n l).ops ++ o :: more
      ∧ (kindOf n = .stitch → more = []) ∧ (∀ q ∈ more, q.toks = [] ∧ q.dst = .disc)
      ∧ o.toks = [tok] ∧ o.fault = none ∧ o.ready = true ∧ o.dst = d ∧ o.slot = k
      ∧ o.issued = s.cycle ∧ o.due = s.cycle + slow s n lat ∧ o.ops = consumedOps s (srcPorts srcs)
  | .micro n _ =>
    t = s.setNode n { s.node n with seqr := (s.node n).seqr.map fun q => writeMicro q d tok (s.cycle + slow s n lat) }
  | .core c => t = s.updCore c fun k => writeCore k d tok
  | .emul c =>
    let n := (s.core c).tselNode
    let l := (s.core c).tselLetter
    t = setImage s c n l (writeImage (consumeImage (stickies s n l) (imageOf s c n l) (srcPorts srcs)) d tok)
  | .device => False

/-- An instruction completes with the result `tok`. -/
def Results (s : State) (i : Instr) (lat : Nat) (d : Dst) (srcs : List Src) (tok : Token) : Prop :=
  ∃ t, exec i s = .next t ∧ Delivers s t lat d srcs tok

/-- An instruction completes with a DATA token of format `f` and `S` bit `b`, whose lanes are `v` and whose other
bits are zero (R134). -/
def LaneResults (s : State) (i : Instr) (lat : Nat) (d : Dst) (srcs : List Src) (f : Fmt) (b : Bool) (v : Nat → Nat) :
    Prop :=
  ∃ p : Word, (∀ j, j < f.lanes → lane f p j = v j) ∧ Results s i lat d srcs { fmt := f, s := b, payload := p }

/-- The token an operand supplies. -/
def tokAt (s : State) (f : Fmt) (a : Src) : Token := (readSrc s f a).tok

/-- Lane j of an operand. -/
def laneAt (s : State) (f : Fmt) (a : Src) (j : Nat) : Nat := lane f (tokAt s f a).payload j

/-- Lane j of an operand read as signed. -/
def intAt (s : State) (f : Fmt) (a : Src) (j : Nat) : Int := signedOf (laneW f) (laneAt s f a j)

/-- An operand of class "=": DATA of the instruction's format (R132). -/
def IsSame (s : State) (f : Fmt) (a : Src) : Prop := (tokAt s f a).kind = .data ∧ (tokAt s f a).fmt = f

/-- An operand of class raw: DATA of any format (R132). -/
def IsRaw (s : State) (a : Src) : Prop := (tokAt s .w32 a).kind = .data

/-- The scale check of R62 passes: only W32 instructions admit operands of different `S`. -/
def ScaleOk (s : State) (f : Fmt) (as : List Src) : Prop := f = .w32 ∨ scaleClash (as.map (readSrc s f)) = false

/-- The `S` of a result: that of sA, taken from the other operands when sA is a constant (R62). -/
def sOf (s : State) (f : Fmt) (a : Src) (rest : List Src) : Bool := sOfA (readSrc s f a) (rest.map (readSrc s f))

end Sys2Proof.Said

open Sys2Proof Sys2Proof.Machine Sys2Proof.Said

/-! ### Encoding and decoding -/

/-- The words that the spec writes out in its encoding examples, and others written out field by field from R93,
R97 to R102 and R119, decode to the instructions they stand for. -/
def Obligations.SpelledWordsDecode : Prop :=
  decodeA .stitch 0 0b01010010_000_01000_01000_10000_000000 = .ok (.fwd (.out 0) (.inC 0))
  ∧ decodeA .stitch 0 0b00100010_010_01000_01000_00001_000000 = .ok (.fmul .b16 (.out 0) (.inC 0) (.g 1) .dflt)
  ∧ decodeA .stitch 0 0b00001010_000_01000_01000_00010_100000 = .ok (.shl (.out 0) (.inC 0) (.imm 2))
  ∧ decodeA .mp 0 0b10000000_0010_01000_01000_10000_00010 = .ok (.lds .b16 (.out 0) 2 (.inC 0) false false)
  ∧ decodeA .stitch 0 0b01100001_00011_001_0101_000100101100 = .ok (.callb (.g 3) 1 5 300)
  ∧ decodeA .stitch 0 0b01000101_011_001_010_1000_00000000000 = .ok (.plog 3 1 2 8)
  ∧ decodeA .mxa 0 0b10110001_100_1_0000_00000111_01_0_1_0000 = .error .operandReserved
  ∧ decodeA .mxa 0 0b10110000_100_1_0000_00000111_00_0_1_0000 = .ok (.mma .q8 true 7 true)
  ∧ decodeA .mg 0 0b11000000_001_01000_01000_01001_01_0000 = .ok (.mrg .f32 .max (.out 0) (.inC 0) (.inC 1))
  ∧ decodeA .bespoke 0 0b11010000_000_01100_11000_11111111111 = .ok (.mbr (.t 0) (BitVec.ofInt 11 (-1)))
  ∧ decodeA .core 2 0b01111001_01100_000_0000000000000000 = .ok .eretRetire
  ∧ decodeA .stitch 0 0b00000000_001_00000_00000_00000_000000 = .error .operandReserved
  ∧ decodeA .stitch 0 0b00000000_000_00000_00000_00000_000001 = .error .operandReserved
  ∧ decodeA .stitch 0 0b00101101_001_00000_00000_00000_000000 = .error .illegalOpcode
  ∧ decodeA .stitch 0 0b10000000_0000_00000_00000_10000_00000 = .error .illegalOpcode

/-- Decoding the encoding of a well-formed instruction gives it back, with every operand at every value the encoding
admits, on every kind of unit that accepts its opcode (R93 to R107, R127). -/
def Obligations.DecodeOfEncode : Prop :=
  ∀ (k : NodeKind) (tact : Nat) (i : Instr), i.wf k.setting = true → acceptsOp k (encodeNat i / 16777216) = true →
    readsUnder tact i → decodeA k tact (encode i) = .ok i

/-- A word decodes to an instruction only if it is that instruction's encoding, the unit accepts its opcode, and the
instruction is well formed there; so no bit of a word is ignored and no two words name one instruction (R94 to R103,
R107, R127). -/
def Obligations.EncodeOfDecode : Prop :=
  (∀ (k : NodeKind) (tact : Nat) (w : Word) (i : Instr), decodeA k tact w = .ok i →
    encode i = w ∧ i.wf k.setting = true ∧ acceptsOp k (w.toNat / 16777216) = true ∧ isWord i = true)
  ∧ ∀ (k : NodeKind) (tact : Nat) (w v : Word) (i : Instr), decodeA k tact w = .ok i → decodeA k tact v = .ok i → w = v

/-- A word whose opcode is unassigned, or assigned but not accepted by the unit, is refused with ILLEGAL_OPCODE, and a
slot that fires with one takes that trap and has no effect of its own (R107, R127). -/
def Obligations.UnassignedOpcodesFault : Prop :=
  (∀ (k : NodeKind) (tact : Nat) (w : Word), acceptsOp k (w.toNat / 16777216) = false →
    decodeA k tact w = .error .illegalOpcode)
  ∧ (∀ (k : NodeKind) (tact : Nat) (w : Word), (w.toNat / 16777216) ∈ [0x2D, 0x2E, 0x2F, 0x3D, 0x3E, 0x3F, 0x4B, 0x4F,
      0x5A, 0x5F, 0x69, 0x6F, 0x7D, 0x7F, 0x8F, 0x9C, 0x9F, 0xAA, 0xAF, 0xB9, 0xBF, 0xC7, 0xCF, 0xD3, 0xDF] →
    decodeA k tact w = .error .illegalOpcode)
  ∧ ∀ (s : State) (n : NodeId) (l : Letter) (k : Nat) (e : DecErr), slotInstr n (actWords s n l k).2 = .error e →
    fireSlot s n l k = .next (takeTrap { s with cur := .slot n l k }
      (slotTrap { s with cur := .slot n l k } n l k e.cause []))

/-! ### Lane instructions -/

namespace Sys2Proof.Said
open Sys2Proof Sys2Proof.Machine

/-- The smallest and the largest signed value of a lane (R45). -/
def lo (f : Fmt) : Int := -(2 ^ (laneW f - 1) : Nat)
/-- The largest signed value of a lane. -/
def hi (f : Fmt) : Int := (2 ^ (laneW f - 1) : Nat) - 1

/-- A lane of R139: x mod 2^w, or x clamped to the signed range under `SAT`. -/
def intLaneOf (f : Fmt) (sat : Bool) (x : Int) : Nat :=
  ((if sat then max (lo f) (min x (hi f)) else x) % (2 ^ laneW f : Nat)).toNat

/-- A lane of ADDS and SUBS (R139): x clamped to 0 … 2^w − 1. -/
def uintLaneOf (f : Fmt) (x : Int) : Nat := (max 0 (min x ((2 ^ laneW f : Nat) - 1))).toNat

/-- No lane overflows with the trap on: under `SAT` nothing is reported, and with `IOV` 0 nothing is raised (R139). -/
def NoIntTrap (s : State) (f : Fmt) (sat : Bool) (x : Nat → Int) : Prop :=
  sat = true ∨ bitOf (actPcw s).toNat 3 = false ∨ ∀ j, j < f.lanes → lo f ≤ x j ∧ x j ≤ hi f

/-- Two operands of class "=" whose scale check passes, and a destination that can be written. -/
def Two (s : State) (f : Fmt) (d : Dst) (a b : Src) : Prop :=
  IsSame s f a ∧ IsSame s f b ∧ ScaleOk s f [a, b] ∧ CanDeliver s d

/-- One operand of class "=". -/
def One (s : State) (f : Fmt) (d : Dst) (a : Src) : Prop := IsSame s f a ∧ CanDeliver s d

/-- Three operands of class "=". -/
def Three (s : State) (f : Fmt) (d : Dst) (a b c : Src) : Prop :=
  IsSame s f a ∧ IsSame s f b ∧ IsSame s f c ∧ ScaleOk s f [a, b, c] ∧ CanDeliver s d

end Sys2Proof.Said

/-- R139: the exact value of each lane and what is delivered of it, for every integer arithmetic instruction, in every
setting, with every operand form; the frame is that of `Delivers`. -/
def Obligations.IntegerArithmetic : Prop :=
  ∀ (s : State) (f : Fmt) (d : Dst) (a b c : Src) (sat : Bool), f.isInt = true →
    (Two s f d a b →
      (NoIntTrap s f sat (fun j => intAt s f a j + intAt s f b j) →
        LaneResults s (.add f d a b sat) 1 d [a, b] f (sOf s f a [b]) fun j => intLaneOf f sat (intAt s f a j + intAt s f b j))
      ∧ (NoIntTrap s f sat (fun j => intAt s f a j - intAt s f b j) →
        LaneResults s (.sub f d a b sat) 1 d [a, b] f (sOf s f a [b]) fun j => intLaneOf f sat (intAt s f a j - intAt s f b j))
      ∧ (NoIntTrap s f sat (fun j => intAt s f a j * intAt s f b j) →
        LaneResults s (.mul f d a b sat) 2 d [a, b] f (sOf s f a [b]) fun j => intLaneOf f sat (intAt s f a j * intAt s f b j))
      ∧ LaneResults s (.mulh f d a b) 2 d [a, b] f (sOf s f a [b])
          (fun j => intLaneOf f false (intAt s f a j * intAt s f b j / (2 ^ laneW f : Nat)))
      ∧ LaneResults s (.mulhu f d a b) 2 d [a, b] f (sOf s f a [b])
          (fun j => laneAt s f a j * laneAt s f b j / 2 ^ laneW f)
      ∧ LaneResults s (.min f d a b) 1 d [a, b] f (sOf s f a [b])
          (fun j => if intAt s f a j ≤ intAt s f b j then laneAt s f a j else laneAt s f b j)
      ∧ LaneResults s (.max f d a b) 1 d [a, b] f (sOf s f a [b])
          (fun j => if intAt s f a j ≤ intAt s f b j then laneAt s f b j else laneAt s f a j)
      ∧ LaneResults s (.minu f d a b) 1 d [a, b] f (sOf s f a [b]) (fun j => min (laneAt s f a j) (laneAt s f b j))
      ∧ LaneResults s (.maxu f d a b) 1 d [a, b] f (sOf s f a [b]) (fun j => max (laneAt s f a j) (laneAt s f b j))
      ∧ LaneResults s (.adds f d a b) 1 d [a, b] f (sOf s f a [b])
          (fun j => uintLaneOf f ((laneAt s f a j : Int) + laneAt s f b j))
      ∧ LaneResults s (.subs f d a b) 1 d [a, b] f (sOf s f a [b])
          (fun j => uintLaneOf f ((laneAt s f a j : Int) - laneAt s f b j)))
    ∧ (Three s f d a b c → NoIntTrap s f sat (fun j => intAt s f a j * intAt s f b j + intAt s f c j) →
        LaneResults s (.mad f d a b c sat) 2 d [a, b, c] f (sOf s f a [b, c])
          (fun j => intLaneOf f sat (intAt s f a j * intAt s f b j + intAt s f c j)))
    ∧ (One s f d a →
      (NoIntTrap s f sat (fun j => |intAt s f a j|) →
        LaneResults s (.abs f d a sat) 1 d [a] f (sOf s f a []) fun j => intLaneOf f sat |intAt s f a j|)
      ∧ (NoIntTrap s f sat (fun j => -intAt s f a j) →
        LaneResults s (.neg f d a sat) 1 d [a] f (sOf s f a []) fun j => intLaneOf f sat (-intAt s f a j))
      ∧ ∀ imm : BitVec 11, f = .w32 → NoIntTrap s f false (fun j => intAt s f a j + imm.toInt) →
        LaneResults s (.addi d a imm) 1 d [a] f (sOf s f a []) fun j => intLaneOf f false (intAt s f a j + imm.toInt))

/-- R139, R60, R135, R190, R193: a signed-overflowing instruction without `SAT`, and ADDI, whose lane leaves the signed range with
`IOV` 1 ends with INT_OVERFLOW: in a slot the operation in flight carries that cause to its write-back, with no register, predicate or
memory written; a micro-operation's write-back raises it in place of its result; a handler ends with it; EMUL applies nothing and
reports its code. -/
def Obligations.IntegerOverflowTraps : Prop :=
  ∀ (s : State) (f : Fmt) (d : Dst) (a b c : Src) (imm : BitVec 11), f.isInt = true → bitOf (actPcw s).toNat 3 = true →
    let ends (i : Instr) (lat : Nat) (x : Nat → Int) : Prop :=
      (∃ j, j < f.lanes ∧ (x j < lo f ∨ hi f < x j)) →
        (∀ n l k, s.cur = .slot n l k → ∃ t o more, exec i s = .next t ∧ Framed s t
          ∧ (t.plane n l).ops = (s.plane n l).ops ++ o :: more ∧ o.fault = some .intOverflow ∧ o.due = s.cycle + slow s n lat)
        ∧ (∀ n l, s.cur = .micro n l → exec i s = .next (s.setNode n { s.node n with
            seqr := (s.node n).seqr.map (lateMicro .intOverflow d (s.cycle + slow s n lat)) }))
        ∧ (∀ k, s.cur = .core k → exec i s = .next (handlerFault s k .intOverflow))
        ∧ ∀ k, s.cur = .emul k → exec i s = .next (s.updCore k fun q => { q with emst := Cause.intOverflow.code })
    (Two s f d a b →
      ends (.add f d a b false) 1 (fun j => intAt s f a j + intAt s f b j)
      ∧ ends (.sub f d a b false) 1 (fun j => intAt s f a j - intAt s f b j)
      ∧ ends (.mul f d a b false) 2 (fun j => intAt s f a j * intAt s f b j))
    ∧ (Three s f d a b c → ends (.mad f d a b c false) 2 (fun j => intAt s f a j * intAt s f b j + intAt s f c j))
    ∧ (One s f d a →
      ends (.abs f d a false) 1 (fun j => |intAt s f a j|)
      ∧ ends (.neg f d a false) 1 (fun j => -intAt s f a j)
      ∧ (f = .w32 → ends (.addi d a imm) 1 (fun j => intAt s f a j + imm.toInt)))

/-- R140: the payload each bit operation gives, with sA's format, or W32 for CLZ, POPC and EXT, and sA's `S`; operands
of any format, and no check of their `S`. -/
def Obligations.BitOperations : Prop :=
  ∀ (s : State) (d : Dst) (a b c : Src), CanDeliver s d → IsRaw s a → 
    let x := (tokAt s .w32 a).payload
    let y := (tokAt s .w32 b).payload
    let z := (tokAt s .w32 c).payload
    let keep (rest : List Src) (p : Word) : Token := { fmt := (tokAt s .w32 a).fmt, s := sOf s .w32 a rest, payload := p }
    let word (rest : List Src) (p : Word) : Token := { s := sOf s .w32 a rest, payload := p }
    (IsRaw s b →
      Results s (.and d a b) 1 d [a, b] (keep [b] (x &&& y))
      ∧ Results s (.or d a b) 1 d [a, b] (keep [b] (x ||| y))
      ∧ Results s (.xor d a b) 1 d [a, b] (keep [b] (x ^^^ y))
      ∧ Results s (.andn d a b) 1 d [a, b] (keep [b] (x &&& ~~~y))
      ∧ Results s (.shl d a b) 1 d [a, b] (keep [b] (x <<< (y.toNat % 32)))
      ∧ Results s (.shr d a b) 1 d [a, b] (keep [b] (x >>> (y.toNat % 32)))
      ∧ Results s (.sar d a b) 1 d [a, b] (keep [b] (x.sshiftRight (y.toNat % 32)))
      ∧ Results s (.rol d a b) 1 d [a, b] (keep [b] (x.rotateLeft (y.toNat % 32))))
    ∧ (∀ imm : BitVec 11, Results s (.andi d a imm) 1 d [a] (keep [] (x &&& imm.signExtend 32))
        ∧ Results s (.ori d a imm) 1 d [a] (keep [] (x ||| imm.signExtend 32)))
    ∧ (∃ k : Nat, k ≤ 32 ∧ (∀ j, 32 - k ≤ j → j < 32 → x.getLsbD j = false) ∧ (k < 32 → x.getLsbD (31 - k) = true)
        ∧ Results s (.clz d a) 1 d [a] (word [] (BitVec.ofNat 32 k)))
    ∧ Results s (.popc d a) 1 d [a] (word [] (BitVec.ofNat 32 ((List.range 32).countP fun j => x.getLsbD j)))
    ∧ (IsRaw s b → IsRaw s c →
      (∃ p : Word, (∀ j, p.getLsbD j = (decide (j < min (z.toNat % 64) 32) && x.getLsbD (j + y.toNat % 32)))
        ∧ Results s (.ext d a b c) 1 d [a, b, c] (word [b, c] p))
      ∧ ∃ p : Word, (∀ j, j < 32 → p.getLsbD j =
          (if z.toNat % 32 ≤ j ∧ j < z.toNat % 32 + min (z.toNat / 256 % 64) 32 then y.getLsbD (j - z.toNat % 32)
           else x.getLsbD j))
        ∧ Results s (.ins d a b c) 1 d [a, b, c] (keep [b, c] p))

/-- R141, R142, R62: the outcome bits of CMP and CMPI, and SEL's choice of a whole token, with neither operand's `S`
checked; all three of SEL's operands are consumed. A constant that SEL chooses carries the `S` of the first other
operand that is none. -/
def Obligations.CompareAndSelect : Prop :=
  ∀ (s : State) (f : Fmt) (d : Dst) (a b c : Src) (cc : Cc) (imm : BitVec 8), CanDeliver s d → f.isInt = true →
    let holds (u v : Nat) : Bool := match cc with
      | .eq => u == v
      | .ne => u != v
      | .lt => decide (signedOf (laneW f) u < signedOf (laneW f) v)
      | .le => decide (signedOf (laneW f) u ≤ signedOf (laneW f) v)
      | .gt => decide (signedOf (laneW f) v < signedOf (laneW f) u)
      | .ge => decide (signedOf (laneW f) v ≤ signedOf (laneW f) u)
      | .ltu => decide (u < v)
      | .geu => decide (v ≤ u)
    (IsSame s f a → IsSame s f b → ScaleOk s f [a, b] →
      ∃ p : Word, (∀ j, p.getLsbD j = (decide (j < f.lanes) && holds (laneAt s f a j) (laneAt s f b j)))
        ∧ Results s (.cmp f cc d a b) 1 d [a, b] { s := sOf s f a [b], payload := p })
    ∧ (IsSame s f a →
      ∃ p : Word, (∀ j, p.getLsbD j =
          (decide (j < f.lanes) && holds (laneAt s f a j) (imm.toInt % (2 ^ laneW f : Nat)).toNat))
        ∧ Results s (.cmpi f cc d a imm) 1 d [a] { s := sOf s f a [], payload := p })
    ∧ (IsRaw s a → IsRaw s b → IsRaw s c →
      ((tokAt s .w32 c).payload ≠ 0 → Results s (.sel d a b c) 1 d [a, b, c]
        { tokAt s .w32 a with s := sOf s .w32 a [b, c], l := false })
      ∧ ((tokAt s .w32 c).payload = 0 → Results s (.sel d a b c) 1 d [a, b, c]
        { tokAt s .w32 b with s := sOf s .w32 b [a, c], l := false }))

namespace Sys2Proof.Said
open Sys2Proof Sys2Proof.Machine

/-- The sign, exponent and fraction of an encoding (R46). -/
def neg (f : Fmt) (x : Nat) : Bool := bitOf x (fracBits f + expBits f)
/-- The biased exponent. -/
def expo (f : Fmt) (x : Nat) : Nat := x / 2 ^ fracBits f % 2 ^ expBits f
/-- The fraction. -/
def frac (f : Fmt) (x : Nat) : Nat := x % 2 ^ fracBits f

/-- NaN encodings (R46, R47). -/
def isNaN (f : Fmt) (x : Nat) : Bool :=
  if f == .q8 then expo f x == 15 && frac f x == 7 else expo f x == 2 ^ expBits f - 1 && frac f x != 0

/-- Infinities; E4M3 has none (R46). -/
def isInf (f : Fmt) (x : Nat) : Bool := f != .q8 && expo f x == 2 ^ expBits f - 1 && frac f x == 0

/-- The value of a finite encoding (R46). -/
def rat (f : Fmt) (x : Nat) : ℚ :=
  (if neg f x then -1 else 1) *
    (if expo f x = 0 then ((frac f x : ℚ) / 2 ^ fracBits f) * 2 ^ (1 - (biasOf f : ℤ))
     else (1 + (frac f x : ℚ) / 2 ^ fracBits f) * 2 ^ ((expo f x : ℤ) - biasOf f))

/-- A finite encoding of a float format that fits its lane. -/
def Finite (f : Fmt) (x : Nat) : Prop := x < 2 ^ laneW f ∧ isNaN f x = false ∧ isInf f x = false

/-- An exact value of the model stands for a rational. -/
def Stands (e : XVal) (v : ℚ) : Prop :=
  match e with
  | .fin n m k => v = (if n then -1 else 1) * (m : ℚ) * 2 ^ k ∧ m ≠ 0
  | .zero _ => v = 0
  | _ => False

/-- An encoding is a value correctly rounded (R53): the nearest value, the even one of two, or the nearest on the
side of the mode. -/
def RoundsTo (f : Fmt) (r : Rnd) (v : ℚ) (x : Nat) : Prop :=
  Finite f x ∧
    let below := rat f x ≤ v ∧ ∀ y, Finite f y → rat f y ≤ v → rat f y ≤ rat f x
    let above := v ≤ rat f x ∧ ∀ y, Finite f y → v ≤ rat f y → rat f x ≤ rat f y
    match r with
    | .rne => ∀ y, Finite f y → |rat f x - v| ≤ |rat f y - v|
        ∧ (rat f y ≠ rat f x → |rat f x - v| = |rat f y - v| → x % 2 = 0)
    | .rtz => if 0 ≤ v then below else above
    | .rdn => below
    | .rup => above

/-- No floating-point trap is enabled (R60, R113). -/
def NoFpTrap (s : State) : Prop := field (actPcw s).toNat 7 4 = 0

/-- The largest finite value (R46). -/
def maxRat (f : Fmt) : ℚ := rat f (maxFin f)

/-- The step from one value to the next at the largest finite one (R46). -/
def topStep (f : Fmt) : ℚ := maxRat f - rat f (maxFin f - 1)

/-- A value of a sign rounds above the largest finite one, as though the exponent range had no upper limit (R48, R55): under RNE from
halfway to the next magnitude on, a tie in E4M3, 464, going to 448. -/
def Exceeds (f : Fmt) (r : Rnd) (n : Bool) (v : ℚ) : Prop :=
  match r with
  | .rne => if f = .q8 then maxRat f + topStep f / 2 < |v| else maxRat f + topStep f / 2 ≤ |v|
  | .rtz => maxRat f + topStep f ≤ |v|
  | .rdn => if n then maxRat f < |v| else maxRat f + topStep f ≤ |v|
  | .rup => if n then maxRat f + topStep f ≤ |v| else maxRat f < |v|

/-- A value of a sign is tiny (R59): rounded to the format's precision, as though the exponent range had no lower limit, it lies below
the smallest normal. -/
def Tiny (f : Fmt) (r : Rnd) (n : Bool) (v : ℚ) : Prop :=
  let least : ℚ := 2 ^ (1 - (biasOf f : ℤ))
  let step : ℚ := 2 ^ (-(biasOf f : ℤ) - fracBits f)
  match r with
  | .rne => |v| < least - step / 2
  | .rtz => |v| < least
  | .rdn => if n then |v| ≤ least - step else |v| < least
  | .rup => if n then |v| < least else |v| ≤ least - step

/-- A value rounds to an integer (R53, R58, R150). -/
def RoundsInt (r : Rnd) (v : ℚ) (i : ℤ) : Prop :=
  match r with
  | .rne => |(i : ℚ) - v| ≤ 1 / 2 ∧ (|(i : ℚ) - v| = 1 / 2 → i % 2 = 0)
  | .rtz => if 0 ≤ v then i = ⌊v⌋ else i = ⌈v⌉
  | .rdn => i = ⌊v⌋
  | .rup => i = ⌈v⌉

end Sys2Proof.Said

/-- R48, R53: rounding a finite nonzero exact value that does not exceed the largest finite value gives the correctly
rounded encoding, for every float format and mode. -/
def Obligations.RoundingIsCorrect : Prop :=
  ∀ (f : Fmt) (r : Rnd) (nanov n : Bool) (m : Nat) (e : Int) (v : ℚ), f.isFlt = true → m ≠ 0 →
    Stands (.fin n m e) v → |v| ≤ maxRat f → RoundsTo f r v (roundX f r nanov (.fin n m e)).1

/-- R48, R55, R59: a finite exact value that rounds above the largest finite one overflows: to an infinity or to the largest finite
value by mode and sign, in E4M3 to 448, or to 0x7F under `NANOV` where the mode would give an infinity; and the overflow condition is
reported. A value that does not, up to 464 in E4M3 under RNE, reports none, and from the largest finite one on delivers that one. -/
def Obligations.OverflowDelivers : Prop :=
  ∀ (f : Fmt) (r : Rnd) (nanov n : Bool) (m : Nat) (e : Int) (v : ℚ), f.isFlt = true → m ≠ 0 →
    Stands (.fin n m e) v →
    let inf := match r with
      | .rne => true
      | .rtz => false
      | .rdn => n
      | .rup => !n
    (¬ Exceeds f r n v → (roundX f r nanov (.fin n m e)).2.ov = false
      ∧ (maxRat f ≤ |v| → rat f (roundX f r nanov (.fin n m e)).1 = if n then -maxRat f else maxRat f))
    ∧ (Exceeds f r n v → (roundX f r nanov (.fin n m e)).2.ov = true)
    ∧ (Exceeds f r n v → f ≠ .q8 → neg f (roundX f r nanov (.fin n m e)).1 = n
        ∧ (if inf then isInf f (roundX f r nanov (.fin n m e)).1 = true
           else rat f (roundX f r nanov (.fin n m e)).1 = (if n then -maxRat f else maxRat f)))
    ∧ (Exceeds f r n v → f = .q8 → (roundX f r nanov (.fin n m e)).1 =
        (if nanov && inf then 0x7F else if n then 0xFE else 0x7E))

/-- R47, R53, R56, R143: with the traps off, FADD, FSUB, FMUL and FMA of finite lanes deliver the exact value rounded once in
the mode of `RM` or the plane default; an exact sum of zero is +0, −0 under RDN or when both are −0; an infinity beside what does not
oppose it gives an infinity of its sign; and a NaN lane, ∞ − ∞ and 0·∞, the last whatever FMA adds, give the canonical NaN. -/
def Obligations.FloatArithmetic : Prop :=
  ∀ (s : State) (f : Fmt) (d : Dst) (a b c : Src) (rm : Rm), f.isFlt = true → NoFpTrap s →
    let x := laneAt s f a
    let y := laneAt s f b
    let z := laneAt s f c
    let lat := if f = .f32 then 4 else 3
    let sums (r : Rnd) (u v : ℚ) (nu nv : Bool) (q : Nat) : Prop :=
      (u + v ≠ 0 → ∃ e, Stands e (u + v) ∧ q = (roundX f r false e).1)
      ∧ (u + v = 0 → u ≠ 0 ∨ nu ≠ nv → rat f q = 0 ∧ neg f q = (r == .rdn))
      ∧ (u = 0 → v = 0 → nu = nv → rat f q = 0 ∧ neg f q = nu)
    let infinite (u : Nat) (n : Bool) : Prop := isInf f u = true ∧ neg f u = n
    let nonzero (u : Nat) : Prop := isInf f u = true ∨ (Finite f u ∧ rat f u ≠ 0)
    let bigProduct (u v : Nat) : Prop := (isInf f u = true ∧ nonzero v) ∨ (isInf f v = true ∧ nonzero u)
    let noProduct (u v : Nat) : Prop := (isInf f u = true ∧ Finite f v ∧ rat f v = 0) ∨ (isInf f v = true ∧ Finite f u ∧ rat f u = 0)
    (Two s f d a b →
      (∃ v, LaneResults s (.fadd f d a b rm) lat d [a, b] f (sOf s f a [b]) v ∧ ∀ j, j < f.lanes →
        (Finite f (x j) → Finite f (y j) → sums (rmOf s rm) (rat f (x j)) (rat f (y j)) (neg f (x j)) (neg f (y j)) (v j))
        ∧ (∀ n, (infinite (x j) n ∧ (Finite f (y j) ∨ infinite (y j) n)) ∨ (Finite f (x j) ∧ infinite (y j) n) → infinite (v j) n)
        ∧ (isNaN f (x j) = true ∨ isNaN f (y j) = true ∨ (isInf f (x j) = true ∧ isInf f (y j) = true ∧ neg f (x j) ≠ neg f (y j)) →
          v j = canonNaN f))
      ∧ (∃ v, LaneResults s (.fsub f d a b rm) lat d [a, b] f (sOf s f a [b]) v ∧ ∀ j, j < f.lanes →
        (Finite f (x j) → Finite f (y j) → sums (rmOf s rm) (rat f (x j)) (-rat f (y j)) (neg f (x j)) (!neg f (y j)) (v j))
        ∧ (∀ n, (infinite (x j) n ∧ (Finite f (y j) ∨ infinite (y j) !n)) ∨ (Finite f (x j) ∧ infinite (y j) !n) → infinite (v j) n)
        ∧ (isNaN f (x j) = true ∨ isNaN f (y j) = true ∨ (isInf f (x j) = true ∧ isInf f (y j) = true ∧ neg f (x j) = neg f (y j)) →
          v j = canonNaN f))
      ∧ (∃ v, LaneResults s (.fmul f d a b rm) lat d [a, b] f (sOf s f a [b]) v ∧ ∀ j, j < f.lanes →
        (Finite f (x j) → Finite f (y j) →
          (∃ e, Stands e (rat f (x j) * rat f (y j)) ∧ v j = (roundX f (rmOf s rm) false e).1)
          ∧ (rat f (x j) * rat f (y j) = 0 → rat f (v j) = 0 ∧ neg f (v j) = (neg f (x j) != neg f (y j))))
        ∧ (bigProduct (x j) (y j) → infinite (v j) (neg f (x j) != neg f (y j)))
        ∧ (isNaN f (x j) = true ∨ isNaN f (y j) = true ∨ noProduct (x j) (y j) → v j = canonNaN f)))
    ∧ (Three s f d a b c →
      ∃ v, LaneResults s (.fma f d a b c) lat d [a, b, c] f (sOf s f a [b, c]) v ∧ ∀ j, j < f.lanes →
        let n := neg f (x j) != neg f (y j)
        (Finite f (x j) → Finite f (y j) → Finite f (z j) →
          sums (rmOf s .dflt) (rat f (x j) * rat f (y j)) (rat f (z j)) n (neg f (z j)) (v j))
        ∧ (bigProduct (x j) (y j) → Finite f (z j) ∨ infinite (z j) n → infinite (v j) n)
        ∧ (Finite f (x j) → Finite f (y j) → isInf f (z j) = true → infinite (v j) (neg f (z j)))
        ∧ (isNaN f (x j) = true ∨ isNaN f (y j) = true ∨ isNaN f (z j) = true ∨ noProduct (x j) (y j)
            ∨ (bigProduct (x j) (y j) ∧ infinite (z j) !n) → v j = canonNaN f))

/-- R141, R143: FMIN and FMAX deliver the lesser and the greater lane, −0 below +0, and the other lane beside a NaN;
FCLP is their composition; FABS and FNEG touch the sign bit alone; FCLS gives the class; FCMP the outcome bits.
None raises a condition. -/
def Obligations.FloatOrderAndSign : Prop :=
  ∀ (s : State) (f : Fmt) (d : Dst) (a b c : Src) (cc : Cc), f.isFlt = true →
    let x := laneAt s f a
    let y := laneAt s f b
    let z := laneAt s f c
    let le (u v : Nat) : Prop := (isInf f u = true ∧ neg f u = true) ∨ (isInf f v = true ∧ neg f v = false)
      ∨ (Finite f u ∧ Finite f v ∧ rat f u ≤ rat f v)
    let lesser (u v q : Nat) : Prop :=
      (isNaN f u = true → isNaN f v = true → q = canonNaN f)
      ∧ (isNaN f u = true → isNaN f v = false → q = v) ∧ (isNaN f u = false → isNaN f v = true → q = u)
      ∧ (isNaN f u = false → isNaN f v = false → (q = u ∨ q = v)
          ∧ (le u v → ¬ le v u → q = u) ∧ (le v u → ¬ le u v → q = v)
          ∧ (le u v → le v u → neg f q = (neg f u || neg f v)))
    let greater (u v q : Nat) : Prop :=
      (isNaN f u = true → isNaN f v = true → q = canonNaN f)
      ∧ (isNaN f u = true → isNaN f v = false → q = v) ∧ (isNaN f u = false → isNaN f v = true → q = u)
      ∧ (isNaN f u = false → isNaN f v = false → (q = u ∨ q = v)
          ∧ (le u v → ¬ le v u → q = v) ∧ (le v u → ¬ le u v → q = u)
          ∧ (le u v → le v u → neg f q = (neg f u && neg f v)))
    (Two s f d a b →
      (∃ v, LaneResults s (.fmin f d a b) 2 d [a, b] f (sOf s f a [b]) v ∧ ∀ j, j < f.lanes → lesser (x j) (y j) (v j))
      ∧ (∃ v, LaneResults s (.fmax f d a b) 2 d [a, b] f (sOf s f a [b]) v ∧ ∀ j, j < f.lanes → greater (x j) (y j) (v j))
      ∧ (∃ p : Word, Results s (.fcmp f cc d a b) 2 d [a, b] { s := sOf s f a [b], payload := p }
          ∧ (∀ j, f.lanes ≤ j → p.getLsbD j = false)
          ∧ ∀ j, j < f.lanes →
            if isNaN f (x j) || isNaN f (y j) then p.getLsbD j = (cc == .ne || cc == .ltu)
            else (p.getLsbD j = true ↔ match cc with
              | .eq => le (x j) (y j) ∧ le (y j) (x j)
              | .ne => ¬(le (x j) (y j) ∧ le (y j) (x j))
              | .lt => ¬ le (y j) (x j)
              | .le => le (x j) (y j)
              | .gt => ¬ le (x j) (y j)
              | .ge => le (y j) (x j)
              | .ltu => False
              | .geu => True)))
    ∧ (Three s f d a b c →
      ∃ v, LaneResults s (.fclp f d a b c) 2 d [a, b, c] f (sOf s f a [b, c]) v
        ∧ ∀ j, j < f.lanes → ∃ m, greater (x j) (y j) m ∧ lesser m (z j) (v j))
    ∧ (One s f d a →
      LaneResults s (.fabs f d a) 1 d [a] f (sOf s f a []) (fun j => x j % 2 ^ (laneW f - 1))
      ∧ LaneResults s (.fneg f d a) 1 d [a] f (sOf s f a [])
          (fun j => if x j < 2 ^ (laneW f - 1) then x j + 2 ^ (laneW f - 1) else x j - 2 ^ (laneW f - 1))
      ∧ ∃ p : Word, Results s (.fcls f d a) 1 d [a] { s := sOf s f a [], payload := p }
          ∧ (∀ j, f.lanes ≤ j → p.toNat / 16 ^ j % 16 = 0)
          ∧ ∀ j, j < f.lanes → p.toNat / 16 ^ j % 16 =
            if isNaN f (x j) then 8
            else if isInf f (x j) then (if neg f (x j) then 0 else 7)
            else if rat f (x j) = 0 then (if neg f (x j) then 3 else 4)
            else if expo f (x j) = 0 then (if neg f (x j) then 2 else 5)
            else if neg f (x j) then 1 else 6)

/-- R67, R144: FHSUM and FDOT sum exactly and round once to F32, in the mode of `RM` and in the plane default; the
addend of FDOT is F32. -/
def Obligations.FloatSums : Prop :=
  ∀ (s : State) (f : Fmt) (d : Dst) (a b c : Src) (rm : Rm), f.isNarrowFlt = true → NoFpTrap s →
    let x := laneAt s f a
    let y := laneAt s f b
    let z := (tokAt s .f32 c).payload.toNat
    (One s f d a → (∀ j, j < f.lanes → Finite f (x j)) →
      let v := ((List.range f.lanes).map fun j => rat f (x j)).sum
      ∃ p : Word, Results s (.fhsum f d a rm) 4 d [a] { fmt := .f32, s := sOf s f a [], payload := p }
        ∧ (v ≠ 0 → ∃ e, Stands e v ∧ p = BitVec.ofNat 32 (roundX .f32 (rmOf s rm) false e).1)
        ∧ (v = 0 → rat .f32 p.toNat = 0))
    ∧ (IsSame s f a → IsSame s f b → (tokAt s .f32 c).kind = .data → (tokAt s .f32 c).fmt = .f32 →
      scaleClash [readSrc s f a, readSrc s f b, readSrc s .f32 c] = false → CanDeliver s d →
      (∀ j, j < f.lanes → Finite f (x j) ∧ Finite f (y j)) → Finite .f32 z →
      let v := ((List.range f.lanes).map fun j => rat f (x j) * rat f (y j)).sum + rat .f32 z
      ∃ p : Word, Results s (.fdot f d a b c) 4 d [a, b, c]
          { fmt := .f32, s := sOfA (readSrc s f a) [readSrc s f b, readSrc s .f32 c], payload := p }
        ∧ (v ≠ 0 → ∃ e, Stands e v ∧ p = BitVec.ofNat 32 (roundX .f32 (rmOf s .dflt) false e).1)
        ∧ (v = 0 → rat .f32 p.toNat = 0))

/-- R65, R136, R145: the transcendentals complete with the results of R65 for the special operands, whatever the mode;
and the reciprocal of a finite nonzero lane is 1/x correctly rounded where it does not overflow. In a slot and in a
micro-word the node's one unit is busy for the latency, in a micro-word until an earlier write of its destination has let it write
back. -/
def Obligations.Transcendentals : Prop :=
  ∀ (s : State) (f : Fmt) (d : Dst) (a : Src) (rm : Rm), f.isWideFlt = true → NoFpTrap s → One s f d a →
    let x := laneAt s f a
    let pinf := infMag f
    let minf := infMag f + signBit f
    let special (t : State) (lat : Nat) (v : Nat → Nat) (onMinf onNeg onMzero onZero onInf : Nat) : Prop :=
      (∃ p u, (∀ j, j < f.lanes → lane f p j = v j) ∧ Delivers s u lat d [a] { fmt := f, s := sOf s f a [], payload := p }
        ∧ (match s.cur with
          | .slot n _ _ => t = u.setNode n { u.node n with trans := max (u.node n).trans (s.cycle + slow s n lat) }
          | .micro n _ => t = u.setNode n { u.node n with trans := max (u.node n).trans (max (s.cycle + slow s n lat) (microFree u n d)) }
          | _ => t = u))
      ∧ ∀ j, j < f.lanes →
        (isNaN f (x j) = true → v j = canonNaN f)
        ∧ (isInf f (x j) = true → neg f (x j) = true → v j = onMinf)
        ∧ (isInf f (x j) = true → neg f (x j) = false → v j = onInf)
        ∧ (Finite f (x j) → rat f (x j) < 0 → onNeg ≠ 0 → v j = onNeg)
        ∧ (x j = signBit f → v j = onMzero) ∧ (x j = 0 → v j = onZero)
    (∃ t v, exec (.frcp f d a rm) s = .next t
      ∧ special t (if f = .f32 then 12 else 8) v (signBit f) 0 minf pinf 0
      ∧ ∀ j, j < f.lanes → Finite f (x j) → rat f (x j) ≠ 0 → |1 / rat f (x j)| ≤ maxRat f →
        RoundsTo f (rmOf s rm) (1 / rat f (x j)) (v j))
    ∧ (∃ t v, exec (.frsq f d a rm) s = .next t
      ∧ special t (if f = .f32 then 14 else 8) v (canonNaN f) (canonNaN f) minf pinf 0)
    ∧ (∃ t v, exec (.fsqrt f d a rm) s = .next t
      ∧ special t (if f = .f32 then 14 else 8) v (canonNaN f) (canonNaN f) (signBit f) 0 pinf)
    ∧ (∃ t v, exec (.fex2 f d a rm) s = .next t
      ∧ special t (if f = .f32 then 16 else 10) v 0 0 (biasOf f * 2 ^ fracBits f) (biasOf f * 2 ^ fracBits f) pinf)
    ∧ (∃ t v, exec (.flg2 f d a rm) s = .next t
      ∧ special t (if f = .f32 then 16 else 10) v (canonNaN f) (canonNaN f) minf minf pinf)
    ∧ (∃ t v, exec (.ftnh f d a rm) s = .next t
      ∧ special t (if f = .f32 then 24 else 12) v (biasOf f * 2 ^ fracBits f + signBit f) 0 (signBit f) 0
          (biasOf f * 2 ^ fracBits f))

/-- R57, R58, R146 to R150: the conversions convert the lower of the two lane counts in order and zero the rest, PACK and
UNPK move lanes without reading them, SCL multiplies by an F32 scale and sets `S`, FTOI rounds to an integer in the mode of `RM` and
under `SAT` clamps it, an infinity to the limit of its sign and a NaN to 0, and RNDI rounds to integral values in that mode. -/
def Obligations.Conversions : Prop :=
  ∀ (s : State) (f : Fmt) (d : Dst) (a b : Src) (rm : Rm) (sat u hi' : Bool), CanDeliver s d → NoFpTrap s →
    let x := laneAt s f a
    let y := laneAt s f b
    let g := (tokAt s .f32 a).fmt
    let gi := (tokAt s .w32 a).fmt
    let few (p q : Fmt) (j : Nat) : Prop := j < p.lanes ∧ j < q.lanes
    let r := rmOf s rm
    (f.isFlt = true → (tokAt s .f32 a).kind = .data → g.isFlt = true → ∀ nanov,
      ∃ v, LaneResults s (.cvt f d a rm nanov) 2 d [a] f (sOf s .f32 a []) v ∧ ∀ j, j < f.lanes →
        (few g f j →
          v j = (if g = f then (if isNaN f (lane g (tokAt s .f32 a).payload j) then canonNaN f else lane g (tokAt s .f32 a).payload j)
                 else (roundX f r nanov (fval g (lane g (tokAt s .f32 a).payload j))).1))
        ∧ (g.lanes ≤ j → v j = 0))
    ∧ (f.isPacked = true → IsSame s f a → (IsSame s f b → ScaleOk s f [a, b] →
        LaneResults s (.pack f d a b) 1 d [a, b] f (sOf s f a [b])
          fun j => if j < f.lanes / 2 then x j else y (j - f.lanes / 2))
      ∧ LaneResults s (.unpk f d a hi') 1 d [a] f (sOf s f a [])
          fun j => if f.lanes / 2 ≤ j then 0 else if hi' then x (j + f.lanes / 2) else x j)
    ∧ ((f.isFlt = true ∨ f.isInt = true) → IsSame s f a → (tokAt s .f32 b).kind = .data → (tokAt s .f32 b).fmt = .f32 → ∀ clr,
      ∃ v, LaneResults s (.scl f d a b rm clr) (if f.isInt = true then 1 else if f = .f32 then 4 else 3) d [a, b] f (!clr) v
        ∧ ∀ j, j < f.lanes → (f.isInt = true → v j = x j)
          ∧ (f.isFlt = true →
            let k := (tokAt s .f32 b).payload.toNat
            let n := neg f (x j) != neg .f32 k
            (Finite f (x j) → Finite .f32 k →
              (∃ e, Stands e (rat f (x j) * rat .f32 k) ∧ v j = (roundX f r false e).1)
              ∧ (rat f (x j) * rat .f32 k = 0 → rat f (v j) = 0 ∧ neg f (v j) = n))
            ∧ (f ≠ .q8 → (isInf f (x j) = true ∧ (isInf .f32 k = true ∨ (Finite .f32 k ∧ rat .f32 k ≠ 0)))
                  ∨ (isInf .f32 k = true ∧ Finite f (x j) ∧ rat f (x j) ≠ 0) → isInf f (v j) = true ∧ neg f (v j) = n)
            ∧ (f = .q8 → isInf .f32 k = true → Finite f (x j) → rat f (x j) ≠ 0 → v j = if n then 0xFE else 0x7E)
            ∧ (isNaN f (x j) = true ∨ isNaN .f32 k = true ∨ (isInf f (x j) = true ∧ Finite .f32 k ∧ rat .f32 k = 0)
                ∨ (isInf .f32 k = true ∧ Finite f (x j) ∧ rat f (x j) = 0) → v j = canonNaN f)))
    ∧ (f.isFlt = true → (tokAt s .w32 a).kind = .data → gi.isInt = true →
      ∃ v, LaneResults s (.itof f d a rm u) 2 d [a] f (sOf s .w32 a []) v ∧ ∀ j, j < f.lanes →
        (few gi f j →
          let w : Int := if u then (lane gi (tokAt s .w32 a).payload j : Int) else signedOf (laneW gi) (lane gi (tokAt s .w32 a).payload j)
          (w = 0 → v j = 0) ∧ (w ≠ 0 → ∃ e, Stands e w ∧ v j = (roundX f r false e).1))
        ∧ (gi.lanes ≤ j → v j = 0))
    ∧ (f.isInt = true → (tokAt s .f32 a).kind = .data → g.isFlt = true →
      let lo' : Int := if u then 0 else lo f
      let hi'' : Int := if u then (2 ^ laneW f : Nat) - 1 else hi f
      let w (j : Nat) : Nat := lane g (tokAt s .f32 a).payload j
      let fits (j : Nat) : Prop := Finite g (w j) ∧ ∃ i : Int, RoundsInt r (rat g (w j)) i ∧ lo' ≤ i ∧ i ≤ hi''
      (sat = true ∨ ∀ j, few g f j → fits j) →
      ∃ v, LaneResults s (.ftoi f d a rm sat u) 2 d [a] f (sOf s .f32 a []) v ∧ ∀ j, j < f.lanes →
        (few g f j → (isNaN g (w j) = true → v j = 0)
          ∧ (isInf g (w j) = true → v j = ((if neg g (w j) then lo' else hi'') % (2 ^ laneW f : Nat)).toNat)
          ∧ (Finite g (w j) → ∃ i : Int, RoundsInt r (rat g (w j)) i ∧ v j = (max lo' (min i hi'') % (2 ^ laneW f : Nat)).toNat))
        ∧ (g.lanes ≤ j → v j = 0))
    ∧ (f.isFlt = true → IsSame s f a →
      ∃ v, LaneResults s (.rndi f d a rm) 2 d [a] f (sOf s f a []) v ∧ ∀ j, j < f.lanes →
        (isNaN f (x j) = true → v j = canonNaN f) ∧ (isInf f (x j) = true → v j = x j)
        ∧ (Finite f (x j) → Finite f (v j) ∧ neg f (v j) = neg f (x j)
            ∧ ∃ i : Int, rat f (v j) = i ∧ RoundsInt r (rat f (x j)) i))

/-- R58, R59, R60, R156: an enabled condition ends the instruction with its cause and delivers nothing: FP_INVALID for
∞ − ∞ and 0·∞, FP_OVERFLOW for a product that rounds above the largest finite value, FP_UNDERFLOW for one that is tiny and inexact,
FP_DIVZERO for 1/0, and CONVERT_RANGE, which needs no enable, for FTOI without `SAT` of a NaN, an infinity or a value that rounds
outside the result's range. -/
def Obligations.FloatTraps : Prop :=
  ∀ (s : State) (m : NodeId) (l : Letter) (k : Nat) (d : Dst) (a b : Src) (rm : Rm) (u : Bool), s.cur = .slot m l k →
    let x := laneAt s .f32 a 0
    let y := laneAt s .f32 b 0
    let ends (i : Instr) (lat : Nat) (c : Cause) : Prop :=
      ∃ t o more, exec i s = .next t ∧ Framed s t ∧ (t.plane m l).ops = (s.plane m l).ops ++ o :: more
        ∧ o.fault = some c ∧ o.due = s.cycle + slow s m lat
    (Two s .f32 d a b → pcwEn (s.plane m l).pcw 5 = true →
      (isInf .f32 x = true → isInf .f32 y = true → neg .f32 x ≠ neg .f32 y → ends (.fadd .f32 d a b rm) 4 .fpInvalid)
      ∧ (isInf .f32 x = true → Finite .f32 y → rat .f32 y = 0 → ends (.fmul .f32 d a b rm) 4 .fpInvalid))
    ∧ (Two s .f32 d a b → Finite .f32 x → Finite .f32 y →
      let v := rat .f32 x * rat .f32 y
      let n := neg .f32 x != neg .f32 y
      (pcwEn (s.plane m l).pcw 4 = true → Exceeds .f32 (rmOf s rm) n v → ends (.fmul .f32 d a b rm) 4 .fpOverflow)
      ∧ (pcwEn (s.plane m l).pcw 7 = true → v ≠ 0 → Tiny .f32 (rmOf s rm) n v → (∀ q, Finite .f32 q → rat .f32 q ≠ v) →
        ends (.fmul .f32 d a b rm) 4 .fpUnderflow))
    ∧ ((tokAt s .f32 a).kind = .data → (tokAt s .f32 a).fmt = .f32 → CanDeliver s d →
      let low : Int := if u then 0 else lo .w32
      let high : Int := if u then 2 ^ 32 - 1 else hi .w32
      (isNaN .f32 x = true ∨ isInf .f32 x = true
        ∨ (Finite .f32 x ∧ ∃ i : Int, RoundsInt (rmOf s rm) (rat .f32 x) i ∧ (i < low ∨ high < i))) →
        ends (.ftoi .w32 d a rm false u) 2 .convertRange)
    ∧ (One s .f32 d a → pcwEn (s.plane m l).pcw 6 = true → rat .f32 x = 0 →
      ∃ t o more, exec (.frcp .f32 d a rm) s = .next t ∧ t.mem = s.mem
        ∧ (t.plane m l).ops = (s.plane m l).ops ++ o :: more ∧ o.fault = some .fpDivzero ∧ o.due = s.cycle + slow s m 12)

/-- R151, R152, R153: MOV delivers a token whole, with `L` 0, and MOV.W32 a BLKH too; MOVI and MOVHI build a word; MKTAG
puts a payload under a header and GTAG reads one, for operands of any kind but PSN. -/
def Obligations.MovesAndHeaders : Prop :=
  ∀ (s : State) (f : Fmt) (d : Dst) (a : Src) (imm : BitVec 16) (h : BitVec 8), CanDeliver s d →
    let x := tokAt s .w32 a
    ((tokAt s f a).kind = .data → (tokAt s f a).fmt = f ∨ f = .w32 →
      Results s (.mov f d a) 1 d [a] { tokAt s f a with l := false })
    ∧ (x.kind = .blkh → Results s (.mov .w32 d a) 1 d [a] { x with l := false })
    ∧ Results s (.movi d imm) 1 d [] { payload := imm.signExtend 32 }
    ∧ ((∃ k, d = .g k ∨ d = .t k) →
      let old := tokAt s .w32 (match d with
        | .g k => .g k
        | .t k => .t k
        | _ => .zero)
      old.kind = .data → Results s (.movhi d imm) 1 d [] { payload := imm ++ old.payload.extractLsb' 0 16 })
    ∧ (x.kind ≠ .psn → h.toNat / 32 < 6 →
      Results s (.mktag d a h) 1 d [a]
        { kind := Kind.ofCode (h.toNat / 32), fmt := Fmt.ofCode (h.toNat / 4 % 8), s := h.getLsbD 1, payload := x.payload })
    ∧ (x.kind ≠ .psn →
      Results s (.gtag d a) 1 d [a]
        { payload := BitVec.ofNat 32 (x.kind.code * 32 + x.fmt.code * 4 + x.s.toNat * 2) })

/-- R34, R154: WID, CLK and IID deliver W32 tokens with `S` 0, describing the instance, plane and node that act, or whose
trap a core serves; a core that serves no trap reads 0 for all of them. -/
def Obligations.Identity : Prop :=
  ∀ (s : State) (d : Dst) (n : BitVec 16), CanDeliver s d →
    let out (v : Nat) : Token := { payload := BitVec.ofNat 32 (if idleCore s then 0 else v) }
    let w := (s.inst (actInst s)).work
    let p := panelOf s (actNode s) (actLetter s)
    let o := (s.inst (actInst s)).origin
    (1 ≤ n.toNat → n.toNat ≤ 6 → ∃ v, Results s (.wid d n) 1 d [] (out v)
      ∧ (w.nf < n.toNat → v = 0)
      ∧ (n.toNat ≤ w.nf → v = (w.fixed[n.toNat - 1]?).getD (w.extents.getD (n.toNat - 1) 0)))
    ∧ (n.toNat ≤ 1 → Results s (.clk d n) 1 d [] (out (s.cycle / 2 ^ (32 * n.toNat))))
    ∧ (n = 0 → Results s (.iid d n) 1 d [] (out (actInst s)))
    ∧ (n = 1 → Results s (.iid d n) 1 d [] (out (actLetter s).bit.toNat))
    ∧ (n = 2 → Results s (.iid d n) 1 d [] (out p))
    ∧ (n = 3 → o % 128 ≤ p % 128 → p % 128 < o % 128 + 16 → o / 128 ≤ p / 128 → p / 128 < o / 128 + 16 →
      Results s (.iid d n) 1 d [] (out (p % 128 - o % 128 + (p / 128 - o / 128) * 16)))
    ∧ (n = 4 → ∀ q a, actNode s = .panel q a → Results s (.iid d n) 1 d [] (out a))

namespace Sys2Proof.Said
open Sys2Proof Sys2Proof.Machine

/-- An instruction writes predicates (R17, R155): in a slot they are pending and an operation in flight will write
them one cycle on; elsewhere they are written there and then. Nothing else changes. -/
def PredResults (s : State) (i : Instr) (ws : List (Fin 8 × Bool)) : Prop :=
  ∃ t, exec i s = .next t ∧
    match s.cur with
    | .slot n l k => Framed s t ∧ ∃ o more, (t.plane n l).ops = (s.plane n l).ops ++ o :: more
        ∧ o.preds = ws.map (fun w => (w.1.val, w.2)) ∧ o.toks = [] ∧ o.dst = .disc ∧ o.slot = k
        ∧ o.due = s.cycle + slow s n 1 ∧ o.fault = none
        ∧ (kindOf n = .stitch → more = [] ∧ ∀ w ∈ ws, w.1.val ∈ o.pmask)
    | .micro n _ => ∃ q r, (s.node n).seqr = some q ∧ (t.node n).seqr = some r ∧ t.mem = s.mem ∧ r.g = q.g ∧ r.h = q.h
        ∧ ∀ j : Fin 8, r.p[j] = ((ws.reverse.find? fun w => w.1 == j).map (·.2)).getD q.p[j]
    | .core c => ∃ p, t = s.updCore c (fun k => { k with p := p })
        ∧ ∀ j : Fin 8, p[j] = ((ws.reverse.find? fun w => w.1 == j).map (·.2)).getD (s.core c).p[j]
    | .emul c => t.mem = s.mem ∧ ∀ j : Fin 8, (imageOf t c (s.core c).tselNode (s.core c).tselLetter).p[j]
        = ((ws.reverse.find? fun w => w.1 == j).map (·.2)).getD
          (imageOf s c (s.core c).tselNode (s.core c).tselLetter).p[j]
    | .device => False

end Sys2Proof.Said

/-- R98, R155: PLOG writes `LUT` bit 2·pa + pb, PMOV copies a predicate, and PSETI writes each predicate of its mask. -/
def Obligations.PredicateInstructions : Prop :=
  ∀ (s : State) (pd pa pb : Fin 8) (lut : BitVec 4) (mask vals : BitVec 8), CanDeliver s .disc →
    PredResults s (.plog pd pa pb lut)
      [(pd, lut.getLsbD (2 * (if readPred s pa then 1 else 0) + (if readPred s pb then 1 else 0)))]
    ∧ PredResults s (.pmov pd pa) [(pd, readPred s pa)]
    ∧ (mask ≠ 0 → vals &&& mask = vals → PredResults s (.pseti mask vals)
        (((List.finRange 8).filter fun k => mask.getLsbD k.val).map fun k => (k, vals.getLsbD k.val)))

/-- R20, R105, R131: what each source specifier supplies to a slot: the register's token, the head a slot sees of an
in-port, the constants and immediates in the instruction's format, and the W32 identity constants. -/
def Obligations.SourcesSupply : Prop :=
  ∀ (s : State) (n : NodeId) (l : Letter) (j : Nat) (f : Fmt), s.cur = .slot n l j →
    (∀ k, readSrc s f (.g k) = { tok := (s.plane n l).g[k] })
    ∧ (∀ k t, headTok n (s.plane n l) k = some t → readSrc s f (.inC k) = { tok := t } ∧ readSrc s f (.inP k) = { tok := t })
    ∧ (∀ k q r, (s.plane n l).ins[k].fifo = q :: r → (s.plane n l).ins[k].settled = true → q.tok.kind = .data →
        (s.plane n l).mp.relog = [] → headTok n (s.plane n l) k = some q.tok)
    ∧ readSrc s f .zero = { tok := { fmt := f, payload := 0 }, const := true }
    ∧ readSrc s f .ones = { tok := { fmt := f, payload := 0xFFFFFFFF }, const := true }
    ∧ (∀ i, i < f.lanes → (readSrc s f .one).tok.fmt = f ∧ lane f (readSrc s f .one).tok.payload i = (match f with
        | .w32 => 1 | .i8 => 1 | .f32 => 0x3F800000 | .b16 => 0x3F80 | .h16 => 0x3C00 | .q8 => 0x38 | .x8 => 0x20 | .x4 => 2))
    ∧ readSrc s f .cyc = { tok := { payload := BitVec.ofNat 32 s.cycle }, const := true }
    ∧ readSrc s f .inst = { tok := { payload := BitVec.ofNat 32 (s.plane n l).inst }, const := true }
    ∧ readSrc s f .plane = { tok := { payload := if l = .b then 1 else 0 }, const := true }
    ∧ (∀ v : BitVec 5, readSrc s .w32 (.imm v) = { tok := { payload := v.zeroExtend 32 }, const := true })
    ∧ ∀ (v : BitVec 5) (i : Nat), i < 4 → (readSrc s .i8 (.imm v)).tok.fmt = .i8
        ∧ lane .i8 (readSrc s .i8 (.imm v)).tok.payload i = v.toNat

/-- R133, R135: the operand checks of a lane instruction, in their order, for a slot: a PSN gives POISON_CONSUMED, then a
kind other than DATA TAG_MISMATCH, then a wrong format TAG_MISMATCH, then different `S` SCALE_MISMATCH. The trap takes the
operand tokens consumed, and no register, predicate or memory is written. -/
def Obligations.OperandChecks : Prop :=
  ∀ (s : State) (n : NodeId) (l : Letter) (k : Nat) (f : Fmt) (d : Dst) (a b : Src) (rm : Rm) (i : Instr),
    s.cur = .slot n l k →
    i ∈ [.add f d a b false, .sub f d a b false, .mul f d a b false, .mulh f d a b, .mulhu f d a b, .min f d a b, .max f d a b,
      .minu f d a b, .maxu f d a b, .adds f d a b, .subs f d a b, .fadd f d a b rm, .fsub f d a b rm, .fmul f d a b rm,
      .fmin f d a b, .fmax f d a b, .pack f d a b] →
    let x := tokAt s f a
    let y := tokAt s f b
    let traps (c : Cause) : Prop :=
      exec i s = .next (slotFault s n l k c (srcPorts [a, b])) ∧ Framed s (slotFault s n l k c (srcPorts [a, b]))
    ((x.kind = .psn ∨ y.kind = .psn) → traps .poisonConsumed)
    ∧ (x.kind ≠ .psn → y.kind ≠ .psn → (x.kind ≠ .data ∨ y.kind ≠ .data) → traps .tagMismatch)
    ∧ (x.kind = .data → y.kind = .data → (x.fmt ≠ f ∨ y.fmt ≠ f) → traps .tagMismatch)
    ∧ (IsSame s f a → IsSame s f b → ¬ ScaleOk s f [a, b] → traps .scaleMismatch)

/-- R17, R18, R84, R106, R135, R260: a ready operation that is due and not held by an earlier one writes its result to its
destination and then, on a stitch, its predicate update, and is gone; one that carries a fault writes neither and takes the trap. -/
def Obligations.WriteBack : Prop :=
  ∀ (s : State) (n : NodeId) (l : Letter) (op : Nat) (o : Op) (tok : Token), s.op? n l op = some o →
    o.ready = true → o.due ≤ s.cycle → o.kind = .lane → o.toks = [tok] → o.queued = false → o.load = false → lateLeft s n l o = false →
    (∀ e ∈ (s.plane n l).ops, e = o ∨ ∀ k ∈ e.gmask, k ∉ o.gmask) →
    (o.fault = none → ∃ t, exec (.writeBack n l op) s = .next t ∧ t.mem = s.mem ∧ t.op? n l op = none
      ∧ (∀ k : Fin 8, (t.plane n l).g[k] = if o.dst = .g k then tok else (s.plane n l).g[k])
      ∧ (∀ k : Fin 8, (t.plane n l).h[k] = if o.dst = .t k then tok else (s.plane n l).h[k])
      ∧ (∀ k : Fin 8, o.preds = [] → (t.plane n l).p[k] =
          if kindOf n = .stitch ∧ tPE o.tw = true ∧ tPX o.tw = k then tPVAL o.tw
          else if kindOf n = .stitch ∧ o.dst = .p k then tok.payload != 0 else (s.plane n l).p[k])
      ∧ (∀ k : Fin 4, (t.plane n l).outs[k].slot = if o.dst = .out k then some tok else (s.plane n l).outs[k].slot)
      ∧ ∀ m k, (m, k) ≠ (n, l) → t.plane m k = s.plane m k)
    ∧ ∀ c, o.fault = some c → ∃ u tr, exec (.writeBack n l op) s = .next (takeTrap u tr) ∧ tr.cause = c ∧ tr.slot = o.slot
        ∧ tr.ops = o.ops ∧ SameRegs s u ∧ u.mem = s.mem

/-! ### Seams, ports and control -/

namespace Sys2Proof.Said
open Sys2Proof Sys2Proof.Machine

/-- A slot's instruction is in flight (R17, R18): one operation more, due `lat` cycles of its island on (R423), with the operand tokens it
consumed and what `P` says. -/
def InFlight (s t : State) (n : NodeId) (l : Letter) (k lat : Nat) (d : Dst) (srcs : List Src) (P : Op → Prop) : Prop :=
  ∃ o more, (t.plane n l).ops = (s.plane n l).ops ++ o :: more ∧ (kindOf n = .stitch → more = [])
    ∧ (∀ q ∈ more, q.toks = [] ∧ q.dst = .disc) ∧ o.slot = k ∧ o.issued = s.cycle ∧ o.due = s.cycle + slow s n lat ∧ o.dst = d
    ∧ o.ops = consumedOps s (srcPorts srcs) ∧ o.fault = none ∧ P o

/-- An operation whose result is computed. -/
def Holds (tok : Token) (o : Op) : Prop := o.toks = [tok] ∧ o.ready = true ∧ o.kind = .lane

end Sys2Proof.Said

/-- R158, R160, R161, R162, R165, R166: EMIT and FWD send a token whole, FWD a PSN too, DROP consumes one, STEER sends a
STEER token of a key and 24 payload bits, WAITT passes its token on, and NOP does nothing but take its cycle. -/
def Obligations.TokenInstructions : Prop :=
  ∀ (s : State) (d : Dst) (a : Src) (k : BitVec 8),
    let x := tokAt s .w32 a
    (CanDeliver s d →
      (x.kind ≠ .psn → Results s (.emit d a) 1 d [a] { x with l := false })
      ∧ Results s (.fwd d a) 1 d [a] { x with l := false }
      ∧ (x.kind = .data → Results s (.steer d a k) 1 d [a] { kind := .steer, payload := x.payload.extractLsb' 0 24 ++ k })
      ∧ (x.kind = .data → Results s (.waitt d a) 1 d [a] { x with l := false }))
    ∧ (CanDeliver s .disc → Results s (.drop a) 1 .disc [a] { x with l := false }
        ∧ Results s .nop 1 .disc [] {})

/-- R163, R164, R165: STKY sets a port's residue, DMND gives a lazy port demand credit up to its free entries, and HALT
stops its plane; no other port, register or memory byte changes. -/
def Obligations.PortControls : Prop :=
  ∀ (s : State) (n : NodeId) (l : Letter) (j : Nat) (k : Fin 4) (a : Src), s.cur = .slot n l j → a = .inC k ∨ a = .inP k →
    let only (t : State) (f : InPort → InPort) : Prop := Framed s t ∧ InFlight s t n l j 1 .disc [] (Holds {})
      ∧ t.inp n l k = f (s.inp n l k) ∧ (∀ q : Fin 4, q ≠ k → t.inp n l q = s.inp n l q)
      ∧ ∀ m o, (m, o) ≠ (n, l) → t.plane m o = s.plane m o
    (∀ v : BitVec 8, ∃ t, exec (.stky a v) s = .next t ∧ only t fun q => { q with residue := v.toNat })
    ∧ (∀ v : BitVec 11, 1 ≤ v.toNat → v.toNat ≤ 2 → ∃ t, exec (.dmnd a v) s = .next t ∧ only t fun q =>
        if iwLazy (s.plane n l).inw[k] then
          { q with credit := min v.toNat (2 - q.fifo.length) }
        else q)
    ∧ ∃ t, exec .halt s = .next t ∧ Framed s t ∧ InFlight s t n l j 1 .disc [] (Holds {}) ∧ (t.plane n l).halted = true
      ∧ (t.plane n l).ins = (s.plane n l).ins ∧ (t.plane n l).active = (s.plane n l).active
      ∧ ∀ m o, (m, o) ≠ (n, l) → t.plane m o = s.plane m o

/-- R176, R178, R179, R397: SWPT and ARM send a token or a swap mark whose departure swaps the stitch when the other plane
is basted, and fault PATTERN_ABSENT when it is not, and PRIVILEGE in a shared ring; RLAT sends a re-latch mark that carries the
window and the instance's count, which it then increments. -/
def Obligations.SwapAndRelatch : Prop :=
  ∀ (s : State) (n : NodeId) (l : Letter) (j : Nat) (k : Fin 4) (a : Src) (w : BitVec 4), s.cur = .slot n l j →
    outWired s n l k = true →
    let x := tokAt s .w32 a
    let swaps (i : Instr) (tok : Token) : Prop :=
      ∃ t, exec i s = .next t ∧ Framed s t ∧ InFlight s t n l j 1 (.out k) [a] (Holds tok) ∧ (t.outp n l k).swap = true
    (ringShared s (ctxOf s n l) = false → otherBasted s n l = true →
      (x.kind ≠ .psn → swaps (.swpt (.out k) a) { x with l := false })
      ∧ (x.kind = .data → swaps (.arm (.out k) a)
          { kind := .mark, payload := 0x80000004 ||| ((x.payload &&& 0x07FFFFFF) <<< 4) }))
    ∧ (ringShared s (ctxOf s n l) = false → otherBasted s n l = false →
      (x.kind ≠ .psn → exec (.swpt (.out k) a) s = .next (slotFault s n l j .patternAbsent (srcPorts [a])))
      ∧ (x.kind = .data → exec (.arm (.out k) a) s = .next (slotFault s n l j .patternAbsent (srcPorts [a]))))
    ∧ (ringShared s (ctxOf s n l) = true → x.kind = .data →
      exec (.swpt (.out k) a) s = .next (slotFault s n l j .privilege (srcPorts [a]))
      ∧ exec (.arm (.out k) a) s = .next (slotFault s n l j .privilege (srcPorts [a])))
    ∧ (let mark : Word := BitVec.ofNat 32 (2 + w.toNat * 16 + (s.inst (instOf s n l)).relatch % 2 ^ 24 * 256)
      ∀ win, (s.inst (instOf s n l)).wins[w.toNat]? = some win → win.described = true →
      ∃ t, exec (.rlat (.out k) w) s = .next t ∧ t.rest = s.rest ∧ SameRegs s t
        ∧ InFlight s t n l j 1 (.out k) [] (Holds { kind := .mark, payload := mark })
        ∧ (t.inst (instOf s n l)).relatch = (s.inst (instOf s n l)).relatch + 1)
    ∧ ((s.inst (instOf s n l)).wins[w.toNat]? = none →
      exec (.rlat (.out k) w) s = .next (slotFault s n l j .windowAccess []))

/-! ### System registers and the bespoke store -/

/-- R187: what RDSR delivers of each register that slots and handlers reach; a number that is not listed, or one of the
trap record outside sequential mode, faults SYSREG_INVALID. -/
def Obligations.SystemRegistersRead : Prop :=
  ∀ (s : State) (d : Dst) (sr : BitVec 10), CanDeliver s d →
    let v := s.inst (actInst s)
    let c := coreCtx s
    let x := s.ctx c
    let org (k : Nat) := v.work.origins.getD k 0
    (∀ q, (sr.toNat, q) ∈ [(0x000, c), (0x001, x.vf), (0x002, partOf s c), (0x003, v.depth), (0x004, v.member),
        (0x005, max v.setCls v.inhCls), (0x006, x.maxcls), (0x008, org 0), (0x009, org 1), (0x00A, org 2), (0x00B, org 3),
        (0x00C, org 4), (0x00D, org 5), (0x010, x.spquota), (0x011, x.spused), (0x012, x.spbase % 2 ^ 32),
        (0x013, x.spbase / 2 ^ 32), (0x014, x.splen), (0x018, x.markto), (0x019, x.dbgen), (0x01A, x.waitb), (0x01B, x.wdog),
        (0x01C, x.castbase % 2 ^ 32), (0x01D, x.castbase / 2 ^ 32), (0x01E, x.castunits), (0x020, x.hndbase % 2 ^ 32),
        (0x021, x.hndbase / 2 ^ 32), (0x022, x.hndlen), (0x023, x.cswbase % 2 ^ 32), (0x024, x.cswbase / 2 ^ 32),
        (0x025, x.cswunits), (0x026, x.dbgsel), (0x027, x.dbgcmd), (0x028, x.dbgst), (0x029, x.dbgpr)] →
      Results s (.rdsr d sr) 2 d [] { payload := BitVec.ofNat 32 q })
    ∧ (∀ n l k, s.cur = .slot n l k → (0x100 ≤ sr.toNat ∨ sr.toNat ∈ [0x007, 0x00E, 0x00F, 0x015, 0x016, 0x017, 0x01F, 0x0FF]) →
      exec (.rdsr d sr) s = .next (slotFault s n l k .sysregInvalid []))

/-- R370: what a handler reads of the trap it serves: the record, the selected plane, and the image's entries. -/
def Obligations.TrapRecordRead : Prop :=
  ∀ (s : State) (c id : Nat) (d : Dst) (sr : BitVec 10), s.cur = .core c → (s.core c).serving = some id →
    let t := s.trap id
    let k := s.core c
    let i := imageOf s c k.tselNode k.tselLetter
    let out (q : Nat) : Prop := exec (.rdsr d sr) s = .next (s.updCore c fun u => writeCore u d { payload := BitVec.ofNat 32 q })
    (∀ q, (sr.toNat, q) ∈ [(0x103, t.fire), (0x104, t.tw.toNat), (0x105, t.aw.toNat), (0x106, t.arg),
        (0x107, (s.inst t.inst).twin), (0x108, t.va % 2 ^ 32), (0x109, t.va / 2 ^ 32), (0x10A, t.acc), (0x10C, t.done),
        (0x112, k.tact), (0x162, i.pcw.toNat), (0x1F0, k.amode)] → out q)
    ∧ (sr = 0x100 → ∃ q, out q ∧ q % 64 = t.cause.code ∧ q / 64 % 8 = (causeCls t.cause).code
        ∧ q / 512 % 2 = t.prec.toNat ∧ q / 1024 % 2 = t.phase.toNat ∧ q / 65536 = (s.inst t.inst).tmulti)
    ∧ (∀ p n, t.node = .panel p n → p < 16384 → n < 72 → sr = 0x101 → out (p + n * 2 ^ 14 + t.letter.bit.toNat * 2 ^ 23))
    ∧ (∀ j : Fin 12, sr.toNat = 0x120 + 2 * j.val → out i.slots[j].tok.payload.toNat)
    ∧ (∀ j : Fin 12, sr.toNat = 0x121 + 2 * j.val → out (hdrOf i.slots[j].tok + (if i.slots[j].present then 256 else 0)))
    ∧ (∀ j : Fin 4, sr.toNat = 0x138 + 2 * j.val → out i.outs[j].tok.payload.toNat)
    ∧ (∀ j : Fin 8, sr.toNat = 0x140 + 2 * j.val → out i.g[j].payload.toNat)
    ∧ (∀ j : Fin 8, sr.toNat = 0x150 + 2 * j.val → out i.h[j].payload.toNat)

namespace Sys2Proof.Said
open Sys2Proof Sys2Proof.Machine

/-- The RW registers of R187, each with what a write of `v` makes of its context. -/
def rwRegs (v : Nat) : List (Nat × (Ctx → Ctx)) :=
  let vlo (x : Nat) := x / 2 ^ 32 * 2 ^ 32 + v
  let vhi (x : Nat) := x % 2 ^ 32 + v % 2 ^ 25 * 2 ^ 32
  [(0x006, fun x => { x with maxcls := v }), (0x010, fun x => { x with spquota := v }),
    (0x012, fun x => { x with spbase := vlo x.spbase }), (0x013, fun x => { x with spbase := vhi x.spbase }),
    (0x014, fun x => { x with splen := v }), (0x018, fun x => { x with markto := v }), (0x019, fun x => { x with dbgen := v }),
    (0x01A, fun x => { x with waitb := v }), (0x01B, fun x => { x with wdog := v }),
    (0x01C, fun x => { x with castbase := vlo x.castbase }), (0x01D, fun x => { x with castbase := vhi x.castbase }),
    (0x01E, fun x => { x with castunits := v }), (0x020, fun x => { x with hndbase := vlo x.hndbase }),
    (0x021, fun x => { x with hndbase := vhi x.hndbase }), (0x022, fun x => { x with hndlen := v }),
    (0x023, fun x => { x with cswbase := vlo x.cswbase }), (0x024, fun x => { x with cswbase := vhi x.cswbase }),
    (0x025, fun x => { x with cswunits := v }), (0x026, fun x => { x with dbgsel := v % 2 ^ 22 }),
    (0x027, fun x => { x with dbgcmd := if x.dbgen % 2 = 1 ∧ v ≤ 3 then v else 0 })]

end Sys2Proof.Said

/-- R187, R350, R380, R382, R370: WRSR of a handler writes each RW register of its trap's context, or the image and mode
registers of the record, and nothing else; in a privileged slot the write is in flight for the write-back to make; an
unprivileged slot takes PRIVILEGE, and a RO register SYSREG_INVALID. -/
def Obligations.SystemRegistersWritten : Prop :=
  ∀ (s : State) (a : Src) (sr : BitVec 10), IsRaw s a →
    let v := (tokAt s .w32 a).payload.toNat
    (∀ c id f, s.cur = .core c → (s.core c).serving = some id → (sr.toNat, f) ∈ rwRegs v → (sr = 0x010 → v ≤ 4096) →
      exec (.wrsr a sr) s = .next (s.updCtx (s.trap id).ctx f))
    ∧ (∀ c, s.cur = .core c → sr = 0x112 → exec (.wrsr a sr) s = .next (s.updCore c fun k => { k with tact := v }))
    ∧ (∀ c, s.cur = .core c → sr = 0x1F0 → exec (.wrsr a sr) s = .next (s.updCore c fun k => { k with amode := v % 256 }))
    ∧ (∀ c (j : Fin 8), s.cur = .core c → sr.toNat = 0x140 + 2 * j.val →
      ∃ t, exec (.wrsr a sr) s = .next t ∧ t.mem = s.mem ∧ t.nodes = s.nodes ∧
        (imageOf t c (s.core c).tselNode (s.core c).tselLetter).g[j].payload = (tokAt s .w32 a).payload)
    ∧ (∀ n l k f, s.cur = .slot n l k → (sr.toNat, f) ∈ rwRegs v → (sr = 0x010 → v ≤ 4096) →
      ((s.ctx (ctxOf s n l)).priv = true → ∃ t, exec (.wrsr a sr) s = .next t ∧ Framed s t
        ∧ InFlight s t n l k 2 .disc [a] fun o => o.kind = .wrsr ∧ o.arg = sr.toNat ∧ o.fold.toNat = v)
      ∧ ((s.ctx (ctxOf s n l)).priv = false →
        exec (.wrsr a sr) s = .next (slotFault s n l k .privilege (srcPorts [a]))))
    ∧ (∀ n l k, s.cur = .slot n l k → sr.toNat ≤ 5 ∨ sr = 0x011 ∨ 0x100 ≤ sr.toNat →
      exec (.wrsr a sr) s = .next (slotFault s n l k .sysregInvalid (srcPorts [a])))

/-- R121, R128, R173, R174, R186, R191: PRIO, BSLD, BSBD and PLOAD of a slot past their checks are in flight; PRIO above
`MAXCLS`, BSLD and BSBD of an unprivileged context, and PLOAD of a pattern that the context does not list fault. A BSBD with `BV` 1
binds a sequence within its limits whose words, the BSLDs in flight written, all decode with MEND among them and no branch out of it,
and faults BESPOKE_LIMIT or BESPOKE_ILLEGAL otherwise. A PLOAD of the pattern that the other letter already holds basted completes with
its id; a core's BSLD and BSBD write at once. -/
def Obligations.BespokeStoreAndLoads : Prop :=
  ∀ (s : State) (a : Src) (c : BitVec 16) (j : BitVec 9) (b : BitVec 5) (d : Dst) (pat : BitVec 12), IsRaw s a →
    let w := (tokAt s .w32 a).payload
    let len := field w.toNat 15 9
    let fits : Prop := 1 ≤ len ∧ len ≤ 64 ∧ field w.toNat 8 0 + len ≤ 512
    let legal (v : PanelSide) : Prop := (∀ e ∈ (boundWords v w).zipIdx, microOk e.1 e.2 len = true) ∧ ∃ e ∈ boundWords v w, isMend e = true
    (∀ n l k, s.cur = .slot n l k →
      let x := s.ctx (ctxOf s n l)
      let p := panelOf s n l
      (c.toNat ≤ x.maxcls → ∃ t, exec (.prio c) s = .next t ∧ Framed s t
        ∧ InFlight s t n l k 1 .disc [] fun o => o.kind = .prio ∧ o.arg = c.toNat)
      ∧ (x.maxcls < c.toNat → exec (.prio c) s = .next (slotFault s n l k .priorityInvalid []))
      ∧ (x.priv = true → ∃ t, exec (.bsld a j) s = .next t ∧ Framed s t
        ∧ InFlight s t n l k 2 .disc [a] fun o => o.kind = .bsld ∧ o.arg = j.toNat ∧ o.fold = w)
      ∧ (x.priv = true → bitOf w.toNat 31 = false ∨ (fits ∧ legal (storeSoon s p l)) → ∃ t, exec (.bsbd a b) s = .next t ∧ Framed s t
        ∧ InFlight s t n l k 2 .disc [a] fun o => o.kind = .bsbd ∧ o.arg = b.toNat ∧ o.fold = w)
      ∧ (x.priv = true → bitOf w.toNat 31 = true → ¬ fits →
        exec (.bsbd a b) s = .next (slotFault s n l k .bespokeLimit (srcPorts [a])))
      ∧ (x.priv = true → bitOf w.toNat 31 = true → fits → ¬ legal (storeSoon s p l) →
        exec (.bsbd a b) s = .next (slotFault s n l k .bespokeIllegal (srcPorts [a])))
      ∧ (x.priv = false → exec (.bsld a j) s = .next (slotFault s n l k .privilege (srcPorts [a]))
        ∧ exec (.bsbd a b) s = .next (slotFault s n l k .privilege (srcPorts [a])))
      ∧ (ringShared s (ctxOf s n l) = false → mget? x.pats pat.toNat = none → dstUnwired s n l d = false →
        exec (.pload d pat) s = .next (slotFault s n l k .patternAbsent []))
      ∧ (∀ q, ringShared s (ctxOf s n l) = false → mget? x.pats pat.toNat = some q →
        q.fw = (s.inst (instOf s n l)).pat.fw → q.fh = (s.inst (instOf s n l)).pat.fh → dstUnwired s n l d = false →
        bastedWith s p l.other (instOf s n l) pat.toNat = true → (s.plane n l.other).basted = true → kindOf n = .stitch →
        ∃ t, exec (.pload d pat) s = .next t ∧ t.mem = s.mem ∧ SameRegs s t ∧ ∃ o ∈ (t.plane n l).ops,
          o.toks = [{ payload := BitVec.ofNat 32 pat.toNat }] ∧ o.ready = true ∧ o.due = s.cycle + slow s n 1 ∧ o.dst = d))
    ∧ ∀ k id, s.cur = .core k → (s.core k).serving = some id →
      let t := s.trap id
      let p := panelOf s t.node t.letter
      bspBusy s p t.letter = false → bsldBusy s p t.letter = false →
      exec (.bsld a j) s = .next ((s.updSide p t.letter fun v => { v with micro := mset v.micro j.toNat w }).updCtx t.ctx
          fun x => { x with micro := mset x.micro j.toNat w })
      ∧ (bitOf w.toNat 31 = false ∨ (fits ∧ legal (storeSoon s p t.letter)) → exec (.bsbd a b) s = .next
          ((s.updSide p t.letter fun v => { v with bind := mset v.bind b.toNat (w &&& 0x8000FFFF),
                                                   uses := mset v.uses b.toNat (seqUses v (w &&& 0x8000FFFF)) }).updCtx t.ctx
            fun x => { x with bound := mset x.bound b.toNat (w &&& 0x8000FFFF) }))

/-- R186, R187, R191: what the write-backs of WRSR, PRIO, BSLD and BSBD do: the register of the context that R187 names, the
instance's class, the micro-word of the panel's store for the issuing letter, and its binding word, which fixes what the sequence reads
and writes. -/
def Obligations.SystemWriteBack : Prop :=
  ∀ (s : State) (n : NodeId) (l : Letter) (op : Nat) (o : Op), s.op? n l op = some o → o.ready = true → o.due ≤ s.cycle →
    o.fault = none → o.dst = .disc → o.gmask = [] → o.load = false → lateLeft s n l o = false →
    let c := ctxOf s n l
    let p := panelOf s n l
    (∀ f, o.kind = .wrsr → (o.arg, f) ∈ rwRegs o.fold.toNat → (s.ctx c).dbgop = none → ∃ t, exec (.writeBack n l op) s = .next t
      ∧ t.ctx c = f (s.ctx c) ∧ (∀ k, k ≠ c → t.ctx k = s.ctx k) ∧ t.mem = s.mem ∧ t.op? n l op = none)
    ∧ (o.kind = .prio → ∃ t, exec (.writeBack n l op) s = .next t
      ∧ (t.inst (instOf s n l)).setCls = o.arg ∧ t.mem = s.mem ∧ t.op? n l op = none)
    ∧ (o.kind = .bsld → storeBefore s n l o = false → ∃ t, exec (.writeBack n l op) s = .next t
      ∧ mget (t.side p l).micro o.arg = o.fold ∧ (∀ j, j ≠ o.arg → mget (t.side p l).micro j = mget (s.side p l).micro j)
      ∧ t.mem = s.mem ∧ t.op? n l op = none)
    ∧ (o.kind = .bsbd → storeBefore s n l o = false → ∃ t, exec (.writeBack n l op) s = .next t
      ∧ mget (t.side p l).bind o.arg = o.fold &&& 0x8000FFFF
      ∧ mget? (t.side p l).uses o.arg = some (seqUses (s.side p l) (o.fold &&& 0x8000FFFF))
      ∧ (∀ j, j ≠ o.arg → mget (t.side p l).bind j = mget (s.side p l).bind j) ∧ t.mem = s.mem ∧ t.op? n l op = none)

/-! ### Traps, handlers and bespoke sequences -/

/-- R362, R364, R365, R366, R370: a poison-class fault of an instance whose flag is clear stops its plane with a PSN to be
placed, sets the flag, counts no further fault, records the trap under a fresh number with its cause, node and slot, and
queues it at the core of the node's panel, where it waits while the queue of 16 is full or others wait there; a fault of a flagged instance only stops its node and counts in `TMULTI`,
up to 255. Neither writes memory or a register. -/
def Obligations.TakingATrap : Prop :=
  ∀ (s : State) (t : Trap), Framed s (takeTrap s t)
    ∧ (causeCls t.cause = .p → (s.inst t.inst).fault = false → descheduled s (s.inst t.inst).ctx = false →
        (s.inst t.inst).replay = none →
        let u := takeTrap s t
        ((u.plane t.node t.letter).stop = .fault s.ids)
        ∧ ((s.plane t.node t.letter).psn = none →
            (u.plane t.node t.letter).psn = some (psnPayload s t.node t.letter t.cause))
        ∧ (u.inst t.inst).fault = true ∧ (u.inst t.inst).trap = s.ids ∧ (u.inst t.inst).tmulti = 0
        ∧ (u.trap s.ids).cause = t.cause ∧ (u.trap s.ids).node = t.node ∧ (u.trap s.ids).slot = t.slot
        ∧ (u.trap s.ids).prec = !(s.inst t.inst).impr
        ∧ (∀ p a, t.node = .panel p a →
            let k := s.core (coreOf p)
            let q := u.core (coreOf p)
            (k.queue.length < 16 → k.late = [] → q.queue = k.queue ++ [s.ids] ∧ q.late = [])
            ∧ (16 ≤ k.queue.length ∨ k.late ≠ [] → q.queue = k.queue ∧ q.late = k.late ++ [s.ids]))
        ∧ ∀ m k, (m, k) ≠ (t.node, t.letter) → u.plane m k = s.plane m k)
    ∧ (causeCls t.cause = .p → (s.inst t.inst).fault = true →
        let u := takeTrap s t
        ((u.plane t.node t.letter).stop = .fault (s.inst t.inst).trap)
        ∧ (u.inst t.inst).tmulti = min ((s.inst t.inst).tmulti + 1) 255 ∧ (u.inst t.inst).trap = (s.inst t.inst).trap
        ∧ u.cores = s.cores ∧ u.traps = s.traps)

/-- R188: TRAP takes SOFTWARE with its argument in the record; BRK takes BREAKPOINT and freezes the instance when `DBGEN`
bit 0 is 1, and is a NOP when it is 0; in a handler both end it with their cause. -/
def Obligations.SoftwareTraps : Prop :=
  ∀ (s : State) (arg : BitVec 16),
    (∀ n l k, s.cur = .slot n l k →
      (∃ tr, exec (.trap arg) s = .next (takeTrap s tr) ∧ tr.cause = .software ∧ tr.arg = arg.toNat ∧ tr.node = n
        ∧ tr.letter = l ∧ tr.slot = k ∧ tr.inst = instOf s n l ∧ tr.ops = [])
      ∧ (bitOf (s.ctx (ctxOf s n l)).dbgen 0 = true →
        ∃ t tr, exec (.brk arg) s = .next t ∧ t = freezeInst (takeTrap s tr) (instOf s n l) true ∧ tr.cause = .breakpoint
          ∧ tr.arg = arg.toNat ∧ tr.node = n ∧ tr.letter = l ∧ tr.slot = k ∧ tr.ops = []
          ∧ (t.inst (instOf s n l)).frozen = true)
      ∧ (bitOf (s.ctx (ctxOf s n l)).dbgen 0 = false → Results s (.brk arg) 1 .disc [] {}))
    ∧ ∀ c, s.cur = .core c → exec (.trap arg) s = .next (leaveTrap s c 3 .software)
      ∧ (bitOf (s.ctx (servedTrap s c).ctx).dbgen 0 = true → exec (.brk arg) s = .next (leaveTrap s c 3 .breakpoint))
      ∧ (bitOf (s.ctx (servedTrap s c).ctx).dbgen 0 = false → Results s (.brk arg) 1 .disc [] {})

/-- R372, R373, R375: each ERET, when `TACT` names it and it is legal for the trap, ends the handler and the trap and
resumes the instance: continue and retire leave no plane of it stopped by the trap, retire drops the faulting operation,
replay brings the trap back with a replay in progress, after which the heads that it has uncovered are checked as any head is, and
terminate ends the instance. Under another `TACT` the handler ends with SYSREG_INVALID. -/
def Obligations.LeavingATrap : Prop :=
  ∀ (s : State) (c id : Nat), s.cur = .core c → (s.core c).serving = some id →
    let t := s.trap id
    let i := t.inst
    let ended (u : State) : Prop := (u.core c).serving = none ∧ (u.core c).branch = none
    let resumed (u : State) : Prop := ended u ∧ (u.inst i).fault = false ∧ (u.inst i).tmulti = 0 ∧ mget? u.traps id = none
      ∧ u.mem = s.mem ∧ ∀ n l, (u.plane n l).inst = i →
        (u.plane n l).stop ≠ .fault id ∧ (u.plane n l).stop ≠ .stall id ∧ (u.plane n l).stop ≠ .held
    (((s.core c).tact = 0 ∧ t.cause ≠ .internal ∧ (causeCls t.cause ≠ .p ∨ t.phase = true) ∧ causeCls t.cause ≠ .q) →
      ∃ u, exec .eretContinue s = .next u ∧ resumed u)
    ∧ (((s.core c).tact = 2 ∧ t.cause ≠ .internal ∧ (causeCls t.cause = .s ∨ causeCls t.cause = .p ∧ t.phase = true)) →
      ∃ u, exec .eretRetire s = .next u ∧ resumed u ∧ ∀ o ∈ (u.plane t.node t.letter).ops, o.id ≠ t.op)
    ∧ (((s.core c).tact = 1 ∧ t.cause ≠ .internal ∧ causeCls t.cause = .p ∧ t.phase = false) →
      s.upsets = [] → (∀ e ∈ s.insts, e.2.spill = 0) →
      ∃ u, exec .eretReplay s = .next (settleAll u) ∧ ended u ∧ (u.inst i).fault = false ∧ (u.inst i).replay = some id
        ∧ u.trap id = t ∧ u.mem = s.mem)
    ∧ ((s.core c).tact = 3 → ∃ u, exec .eretTerminate s = .next u ∧ ended u ∧ mget? u.insts i = none)
    ∧ ∀ x e, (x, e) ∈ [(0, Instr.eretContinue), (1, .eretReplay), (2, .eretRetire), (3, .eretTerminate)] →
      (s.core c).tact ≠ x → exec e s = .next (handlerFault s c .sysregInvalid)

/-- R189, R190: JMPR and LNK choose the next position, LNK with the position after it in d; EMUL runs the word of a slot on
the image that `TSEL` names, exactly as `exec` runs it there, and delivers 64, or the cause of a word that faults or is
refused. -/
def Obligations.SequentialControl : Prop :=
  ∀ (s : State) (c : Nat) (d : Dst) (a : Src) (off : BitVec 16), s.cur = .core c →
    let x := tokAt s .w32 a
    (x.kind = .data → exec (.jmpr a) s = .next (s.updCore c fun k => { k with branch := some x.payload.toNat }))
    ∧ (∃ t, exec (.lnk d off) s = .next t ∧ (t.core c).branch = some (((s.core c).pos : Int) + off.toInt)
        ∧ t.mem = s.mem ∧ t.nodes = s.nodes
        ∧ ∀ j, d = .g j → (t.core c).g[j] = { payload := BitVec.ofNat 32 ((s.core c).pos + 1) })
    ∧ (x.kind = .data →
      let s0 : State := { s.updCore c (fun k => { k with emst := 0 }) with cur := .emul c }
      let answer (u : State) (v : Nat) : State :=
        ({ u with cur := .core c }).updCore c fun k => writeCore k d { payload := BitVec.ofNat 32 v }
      (∀ e, decodeA .stitch 0 x.payload = .error e →
        ∃ u, exec (.emul d a) s = .next (answer u e.cause.code) ∧ u.nodes = s.nodes ∧ u.mem = s.mem
          ∧ (u.core c).images = (s.core c).images)
      ∧ ∀ i, decodeA .stitch 0 x.payload = .ok i →
        (x.payload.toNat / 16777216 < 0x60 → i ≠ .halt → (∀ p q, i ≠ .waitt p q) →
          ∃ u, exec i s0 = .next u ∧
            exec (.emul d a) s = .next (answer u (if (u.core c).emst = 0 then 64 else (u.core c).emst)))
        ∧ ((0x60 ≤ x.payload.toNat / 16777216 ∨ i = .halt ∨ ∃ p q, i = .waitt p q) →
          ∃ u, exec (.emul d a) s = .next (answer u Cause.illegalOpcode.code) ∧ u.nodes = s.nodes ∧ u.mem = s.mem))

/-- R120, R192 to R195: a bound BSP takes its three tokens and starts the stitch's sequencer at the bound position, one that a handler has continued from the tokens it read before; a
micro-operation starts when it may, the 257th faults, and so does one whose value fault has reached its write-back; MBR and MLP branch from their own position, and MEND gives the
invocation its result for the next cycle. An unbound BSP faults BESPOKE_UNBOUND. -/
def Obligations.BespokeSequences : Prop :=
  (∀ (s : State) (n : NodeId) (l : Letter) (k : Nat) (nn : Fin 32) (f : Fmt) (d : Dst) (a b c : Src) (sat : Bool),
    s.cur = .slot n l k → 
    let w := mget (s.side (panelOf s n l) l).bind nn.val
    let kept (j : Nat) (q : Src) : Token := match srcPort q, (s.plane n l).bspArgs with
      | none, some (m, ts) => if m = k then ts.getD j (tokAt s f q) else tokAt s f q
      | _, _ => tokAt s f q
    let x := kept 0 a
    let y := kept 1 b
    let z := kept 2 c
    x.kind ≠ .psn → y.kind ≠ .psn → z.kind ≠ .psn →
    (bitOf w.toNat 31 = true → dstUnwired s n l d = false →
      ∃ t q, exec (.bsp nn f d a b c sat) s = .next t ∧ Framed s t
        ∧ InFlight s t n l k 1 d [a, b, c] (fun o => o.kind = .bsp ∧ o.ready = false ∧ o.id = q.op)
        ∧ (t.node n).seqr = some q ∧ q.letter = l ∧ q.start = w.toNat % 512 ∧ q.len = w.toNat / 512 % 128
        ∧ q.upc = 0 ∧ q.count = 0 ∧ q.started = false ∧ q.readyAt = s.cycle + slow s n 1
        ∧ q.h[(0 : Fin 8)] = { x with l := false } ∧ q.h[(1 : Fin 8)] = { y with l := false } ∧ q.h[(2 : Fin 8)] = { z with l := false }
        ∧ q.h[(3 : Fin 8)] = { payload := BitVec.ofNat 32 (f.code + sat.toNat * 8) })
    ∧ (bitOf w.toNat 31 = false →
      exec (.bsp nn f d a b c sat) s = .next (slotFault s n l k .bespokeUnbound (srcPorts [a, b, c]))))
  ∧ (∀ (s : State) (n : NodeId) (q : Seqr), (s.node n).seqr = some q → q.started = false → mended s n q = false →
      q.readyAt ≤ s.cycle → microReady s n q = true → (∀ e ∈ q.late, s.cycle < e.2.1) →
      (q.count < 256 → exec (.microOperationStart n) s =
        .next (s.setNode n { s.node n with seqr := some { q with started := true, count := q.count + 1 } }))
      ∧ (256 ≤ q.count → exec (.microOperationStart n) s = .next (bspFault s n .bespokeLimit)))
  ∧ (∀ (s : State) (n : NodeId) (q : Seqr) (e : Cause × Nat × Nat), (s.node n).seqr = some q →
      q.late.find? (fun x => decide (x.2.1 ≤ s.cycle)) = some e →
      exec (.microOperationStart n) s =
        .next (bspFault (s.setNode n { s.node n with seqr := some { q with upc := e.2.2 } }) n e.1))
  ∧ ∀ (s : State) (n : NodeId) (l : Letter) (q : Seqr) (a : Src) (h : Fin 8) (off : BitVec 11), s.cur = .micro n l →
      (s.node n).seqr = some q →
      let x := tokAt s .w32 a
      let seq (r : Seqr) : State := s.setNode n { s.node n with seqr := some r }
      (x.kind = .data → x.payload ≠ 0 →
        exec (.mbr a off) s = .next (seq { q with next := some ((q.upc : Int) + off.toInt).toNat }))
      ∧ (x.kind = .data → x.payload = 0 → exec (.mbr a off) s = .next s)
      ∧ (q.h[h].kind = .data → q.h[h].payload ≠ 1 → ∃ t r, exec (.mlp h off) s = .next t ∧ (t.node n).seqr = some r
          ∧ r.h[h] = { q.h[h] with payload := q.h[h].payload - 1 } ∧ r.next = some ((q.upc : Int) + off.toInt).toNat
          ∧ r.g = q.g ∧ r.p = q.p ∧ t.mem = s.mem)
      ∧ (q.h[h].kind = .data → q.h[h].payload = 1 → ∃ t r, exec (.mlp h off) s = .next t ∧ (t.node n).seqr = some r
          ∧ r.h[h] = { q.h[h] with payload := 0 } ∧ r.next = q.next ∧ r.g = q.g ∧ r.p = q.p ∧ t.mem = s.mem)
      ∧ (x.kind ≠ .psn → ∃ t, exec (.mend a) s = .next t ∧ Framed s t ∧ ∀ o, s.op? n q.letter q.op = some o →
          t.op? n q.letter q.op = some { o with toks := [{ x with l := false }], ready := true, due := s.cycle + slow s n 1 })

/-! ### Calls -/

/-- R181, R182: CALL and CALLB past their checks are in flight until their bundle, whose members all wait, has been placed,
with one request for each member; the checks fault in their order, with nothing placed. -/
def Obligations.Calls : Prop :=
  ∀ (s : State) (n : NodeId) (l : Letter) (k : Nat) (d : Dst) (m : BitVec 3) (site : BitVec 4) (pat : BitVec 12),
    s.cur = .slot n l k →
    let v := s.inst (instOf s n l)
    let calls (i : Instr) (cnt : Nat) : Prop :=
      (∀ p runs, callCheck s pat.toNat site.toNat cnt = .ok (p, runs) → dstUnwired s n l d = false →
        ∃ t b o x, exec i s = .next t ∧ t.mem = s.mem ∧ SameRegs s t ∧ o ∈ (t.plane n l).ops ∧ o.kind = .call b
          ∧ o.ready = false ∧ o.dst = d ∧ o.slot = k ∧ mget? t.bundles b = some x ∧ x.caller = instOf s n l
          ∧ x.node = n ∧ x.letter = l ∧ x.pat = p ∧ x.site = site.toNat ∧ x.members = List.replicate cnt .waiting
          ∧ x.issued = s.cycle ∧ t.reqs.length = s.reqs.length + cnt)
      ∧ (mget? (s.ctx v.ctx).pats pat.toNat = none → exec i s = .next (slotFault s n l k .patternAbsent []))
      ∧ (∀ p, mget? (s.ctx v.ctx).pats pat.toNat = some p → v.pat.sites.length ≤ site.toNat →
          exec i s = .next (slotFault s n l k .callsiteInvalid []))
      ∧ (∀ p q, mget? (s.ctx v.ctx).pats pat.toNat = some p → v.pat.sites[site.toNat]? = some q →
          (q.cpid ≠ pat.toNat ∨ q.members.length < cnt) → exec i s = .next (slotFault s n l k .callsiteInvalid []))
    calls (.call d site pat) 1 ∧ calls (.callb d m site pat) (m.toNat + 1)

/-- R183: RET of a callee ends its instance: its planes and panels are released and its id is free; in a launched instance
it faults RET_WITHOUT_CALL. -/
def Obligations.Returns : Prop :=
  ∀ (s : State) (n : NodeId) (l : Letter) (k : Nat), s.cur = .slot n l k →
    let i := instOf s n l
    ((s.inst i).caller = 0 → exec .ret s = .next (slotFault s n l k .retWithoutCall []))
    ∧ ((s.inst i).caller ≠ 0 → i ≠ 0 → ∃ t, exec .ret s = .next t ∧ mget? t.insts i = none ∧ t.mem = s.mem
        ∧ (∀ m o, (t.plane m o).inst ≠ i) ∧ (∀ j, j ≠ i → mget? t.insts j = mget? s.insts j)
        ∧ ∀ p o, (t.side p o).hold ≠ .inst i)

/-- R184, R325: SPWN and SPWNT of a LAUNCH template in the spawn area complete, while the quota is not spent: they queue a SPAWNED
packet made from the template, with `SPUSED` and the spawn number one up, and deliver the number, or true. The checks of R184 fault in
their order: ALIGNMENT, WINDOW_BOUNDS, PACKET_MALFORMED for what is no LAUNCH packet or cannot be read, the latter the model's choice
(log 46), and QUOTA_SPENT, in place of which SPWNT delivers false and queues nothing. -/
def Obligations.Spawns : Prop :=
  ∀ (s : State) (n : NodeId) (l : Letter) (k : Nat) (d : Dst) (pd : Fin 8) (a b : Src) (bs : List Byte), s.cur = .slot n l k →
    IsRaw s a → IsRaw s b →
    let c := ctxOf s n l
    let x := s.ctx c
    let off := (tokAt s .w32 a).payload.toNat
    let r := readCtx s c (x.spbase + off) 64
    let both (u : State) (e : Cause) : Prop := exec (.spwn d a b) s = .next (slotFault u n l k e (srcPorts [a, b]))
      ∧ exec (.spwnt pd a b) s = .next (slotFault u n l k e (srcPorts [a, b]))
    let queued (t : State) : Prop := t.mem = s.mem ∧ SameRegs s t ∧ (t.ctx c).spused = x.spused + 1
      ∧ (t.ctx c).spnum = (x.spnum + 1) % 2 ^ 32 ∧ ∃ q, (t.ctx c).spawns = x.spawns ++ [q]
        ∧ q.bytes.headD 0 = 6 ∧ (q.bytes.drop 24).take 4 = bytesOfWord (tokAt s .w32 b).payload
    (off % 64 = 0 → off + 64 ≤ x.splen → r.2 = .ok bs → bs.headD 0 = 1 → x.spused ≠ x.spquota →
      (dstUnwired s n l d = false → ∃ t, exec (.spwn d a b) s = .next t ∧ queued t
        ∧ ∃ o ∈ (t.plane n l).ops, o.toks = [{ payload := BitVec.ofNat 32 x.spnum }] ∧ o.dst = d ∧ o.due = s.cycle + slow s n 1)
      ∧ ∃ t, exec (.spwnt pd a b) s = .next t ∧ queued t
        ∧ ∃ o ∈ (t.plane n l).ops, o.toks = [{ payload := 1 }] ∧ o.dst = .p pd ∧ o.due = s.cycle + slow s n 1)
    ∧ (off % 64 ≠ 0 → both s .alignment)
    ∧ (off % 64 = 0 → x.splen < off + 64 → both s .windowBounds)
    ∧ (off % 64 = 0 → off + 64 ≤ x.splen → (∀ y, r.2 = .ok y → y.headD 0 ≠ 1) → both r.1 .packetMalformed)
    ∧ (off % 64 = 0 → off + 64 ≤ x.splen → r.2 = .ok bs → bs.headD 0 = 1 → x.spused = x.spquota →
      exec (.spwn d a b) s = .next (slotFault r.1 n l k .quotaSpent (srcPorts [a, b]))
      ∧ ∃ t, exec (.spwnt pd a b) s = .next t ∧ t.mem = s.mem ∧ SameRegs s t ∧ (t.ctx c).spawns = x.spawns
        ∧ (t.ctx c).spused = x.spused ∧ ∃ o ∈ (t.plane n l).ops, o.toks = [{ payload := 0 }] ∧ o.dst = .p pd ∧ o.due = s.cycle + slow s n 1)

/-- R185: PLT, CSTO and CSTI of a live callee. A callee already in the requested state answers 1 in the next cycle; CSTO of
a live one begins a cut for a cast where units and a segment are free, PLT a cut for a pleat where a host is found, and CSTI
of a cast one whose panels and ways are ready places it again and answers 0; an id that is not a live callee faults CALLSITE_INVALID. -/
def Obligations.MovingCallees : Prop :=
  ∀ (s : State) (n : NodeId) (l : Letter) (k : Nat) (d : Dst) (a : Src), s.cur = .slot n l k → IsRaw s a →
    dstUnwired s n l d = false →
    let id := (tokAt s .w32 a).payload.toNat % 2 ^ 24
    let v := s.inst id
    let mine := (mget? s.insts id).isSome = true ∧ v.caller = instOf s n l ∧ instOf s n l ≠ 0
    let o0 (code : Nat) : Op := { newOp s n l k 1 d (srcPorts [a]) with kind := .move, ready := false, arg := id, done := code }
    let s0 (code : Nat) : State := issueOp s n l (o0 code) (srcPorts [a])
    let answers (t : State) (q : Nat) : Prop := ∃ o ∈ (t.plane n l).ops, o.toks = [{ payload := BitVec.ofNat 32 q }]
      ∧ o.ready = true ∧ o.due = s.cycle + slow s n 1 ∧ o.dst = d
    (mine → v.st = .cast → ∃ t, exec (.csto d a) s = .next t ∧ answers t 1 ∧ Framed s t)
    ∧ (mine → v.st = .live → hasStall (s0 2) id = false → ∃ t, exec (.csti d a) s = .next t ∧ answers t 1 ∧ Framed s t)
    ∧ (mine → v.st = .live → hasStall (s0 0) id = false → v.pleated = true →
        ∃ t, exec (.plt d a) s = .next t ∧ answers t 1 ∧ Framed s t)
    ∧ (mine → v.st = .live → hasStall (s0 1) id = false → (castBegin (s0 1) id).isSome = true → ∃ t, exec (.csto d a) s = .next t
        ∧ (t.inst id).st = .cutting ∧ (t.inst id).cut = .castBy n l s.ids ∧ t.mem = s.mem
        ∧ ∃ o ∈ (t.plane n l).ops, o.kind = .move ∧ o.arg = id ∧ o.ready = false)
    ∧ (mine → v.st = .live → hasStall (s0 0) id = false → v.pleated = false → v.pat.tnodes = [] →
        (findHost (s0 0) v.ctx v.pat v.wins (castAnchor (s0 0) v) id).isSome = true → ∃ t, exec (.plt d a) s = .next t
        ∧ (t.inst id).st = .cutting ∧ (t.inst id).cut = .pleatBy n l s.ids ∧ t.mem = s.mem
        ∧ ∃ o ∈ (t.plane n l).ops, o.kind = .move ∧ o.arg = id ∧ o.ready = false)
    ∧ (∀ u, mine → v.st = .cast → (∀ x, castPlace (s0 2) id true = some x → castClear (s0 2) id x = true) →
        resumeCast (s0 2) id true = some (u, .ok ()) → (s.ctx v.ctx).preempt = false →
        (u.ctx (u.inst id).ctx).preempt = false →
        ∃ t, exec (.csti d a) s = .next t
          ∧ t = (u.updOp n l s.ids fun o => { o with toks := [{ payload := 0 }], ready := true, due := u.cycle + slow u n 1 }))
    ∧ (¬ mine → exec (.plt d a) s = .next (slotFault s n l k .callsiteInvalid (srcPorts [a]))
        ∧ exec (.csto d a) s = .next (slotFault s n l k .callsiteInvalid (srcPorts [a]))
        ∧ exec (.csti d a) s = .next (slotFault s n l k .callsiteInvalid (srcPorts [a])))

/-! ### Memory instructions -/

namespace Sys2Proof.Said
open Sys2Proof Sys2Proof.Machine

/-- Steps 1 and 2 of R36: the window is described, lies in a space of the instruction and grants its right; a handle
window takes no store and no atomic (R200). -/
def Admits (x : Window) (sps : List Space) (r : Right) : Prop :=
  x.described = true ∧ x.space ∈ sps ∧ match r with
    | .read => x.rd = true
    | .write => x.wr = true ∧ x.hv = false
    | .atomic => x.at_ = true ∧ x.hv = false

/-- All the steps of R36, for `size` bytes aligned to `al`. -/
def Allows (x : Window) (sps : List Space) (r : Right) (al size off : Nat) : Prop :=
  Admits x sps r ∧ off % al = 0 ∧ off + size ≤ x.len

/-- A peer window reaches a peer that is this device, or that has a path (R405). -/
def Reachable (s : State) (x : Window) : Prop :=
  x.space = .peer → x.peer < 9216 ∧ s.dev.domen = true ∧
    (x.peer = s.dev.devnum ∨ ((mget s.peers x.peer).2 = true ∧ peerLinks s x.peer ≠ []))

/-- An instruction of a memory port is in flight, with the accesses it has issued so far (R206, R207, R209): each at its
address with what it will do there; nothing in memory or in a register has changed. -/
def Issued (s t : State) (n : NodeId) (l : Letter) (k : Nat) (d : Dst) (w : Nat) (x : Window) (total : Nat)
    (acts : List (Nat × AccAct)) : Prop :=
  t.mem = s.mem ∧ SameRegs s t ∧ ∃ o more new, (t.plane n l).ops = (s.plane n l).ops ++ o :: more
    ∧ o.kind = .access ∧ o.ready = false ∧ o.fault = none ∧ o.dst = d ∧ o.slot = k ∧ o.issued = s.cycle ∧ o.total = total ∧ o.win = w
    ∧ t.accs = s.accs ++ new ∧ new.map (fun e => (e.2.va, e.2.act)) = acts
    ∧ ∀ e ∈ new, e.2.node = n ∧ e.2.letter = l ∧ e.2.op = o.id ∧ e.2.win = w ∧ e.2.space = x.space ∧ e.2.issued = s.cycle

/-- A store's operand: DATA of the instruction's format, or of any format for W32 (R203). -/
def DataOk (s : State) (f : Fmt) (b : Src) : Prop := (tokAt s f b).kind = .data ∧ (f = .w32 ∨ (tokAt s f b).fmt = f)

end Sys2Proof.Said

/-- R198 to R203, R206, R207, R209, R214, R216, R220, R226: every access instruction of a memory port whose operands and
window pass their checks issues its first access at its window's base plus its offset, and keeps its port busy for as many
cycles as it has accesses, which the port issues one a cycle: 1, 16 or a row's words of a load or a store, one atomic or bank
operation, one discard. -/
def Obligations.MemoryInstructionsIssue : Prop :=
  ∀ (s : State) (n : NodeId) (l : Letter) (k : Nat) (f : Fmt) (d : Dst) (w : BitVec 4) (a b : Src) (acq rel : Bool),
    s.cur = .slot n l k → dstUnwired s n l d = false → IsSame s .w32 a →
    let off := (tokAt s .w32 a).payload.toNat
    let x := winOf s (instOf s n l) w.toNat
    let v := (tokAt s f b).payload
    let y := (tokAt s .w32 b).payload
    let four : List Space := [.scratch, .slice, .device, .peer]
    let row := off * x.rstr * 4
    let issues (i : Instr) (total : Nat) (acts : List (Nat × AccAct)) : Prop :=
      ∃ t, exec i s = .next t ∧ Issued s t n l k d w.toNat x total acts
    Reachable s x →
    (∀ i sp, (i, sp) ∈ [(Instr.lds f d w a acq rel, Space.scratch), (.ldl f d w a acq rel, .slice), (.ldd f d w a acq rel, .device),
        (.ldp f d w a acq rel, .peer), (.ldx f d w a acq rel, .exchange)] →
      Allows x [sp] .read 4 4 off → issues i 1 [(x.base + off, .load)])
    ∧ (Allows x four .read 64 64 off → issues (.ldv f d w a acq rel) 16 [(x.base + off, .load)])
    ∧ (DataOk s f b → ∀ i sp, (i, sp) ∈ [(Instr.sts f d w a b acq rel, Space.scratch), (.stl f d w a b acq rel, .slice),
        (.std f d w a b acq rel, .device), (.stp f d w a b acq rel, .peer), (.stx f d w a b acq rel, .exchange)] →
      Allows x [sp] .write 4 4 off → (sp = .exchange → exchInside (s.inst (instOf s n l)) (panelOf s n l) x = true) →
      issues i 1 [(x.base + off, .store v)])
    ∧ (DataOk s f b → Allows x four .write 64 64 off → issues (.stv f d w a b acq rel) 16 [(x.base + off, .store v)])
    ∧ ((tokAt s .w32 b).kind = .data →
      (Allows x four .atomic 4 4 off → ∀ i op, (i, op) ∈ [(Instr.aadd d w a b acq rel, 0), (.amin d w a b acq rel, 2),
          (.amax d w a b acq rel, 3), (.aand d w a b acq rel, 4), (.aor d w a b acq rel, 5), (.axor d w a b acq rel, 6),
          (.axch d w a b acq rel, 7)] → issues i 1 [(x.base + off, .atomic op .w32 y 0)])
      ∧ (∀ j, d = .g j → Allows x four .atomic 4 4 off →
          issues (.acas d w a b acq rel) 1 [(x.base + off, .atomic 8 .w32 y (s.plane n l).g[j].payload)])
      ∧ (Allows x [.device, .peer] .atomic 8 8 off → issues (.sigw d w a b acq rel) 1 [(x.base + off, .sigw y)])
      ∧ (1 ≤ y.toNat → y.toNat ≤ 4096 → Allows x [.slice] .atomic 4 (y.toNat * (laneW f / 8)) off →
          issues (.bred f d w a b acq rel) 1 [(x.base + off, .bred f y.toNat)]))
    ∧ (IsSame s f b →
      (Allows x four .atomic 4 4 off → issues (.afadd f d w a b acq rel) 1 [(x.base + off, .atomic 1 f v 0)])
      ∧ (Allows x [.slice] .atomic 4 4 off → issues (.bupd f d w a b acq rel) 1 [(x.base + off, .bupd f v)]))
    ∧ (Admits x four .read → x.rstr ≠ 0 → row + (x.roww + 1) * 4 ≤ x.len →
      issues (.gth f d w a acq rel) (x.roww + 1) [(x.base + row, .load)])
    ∧ (DataOk s f b → Admits x four .write → x.rstr ≠ 0 → row + (x.roww + 1) * 4 ≤ x.len →
      issues (.sct f d w a b acq rel) (x.roww + 1) [(x.base + row, .store v)])
    ∧ (Admits x [.device] .write → (x.base + off) % 65536 = 0 → off + 65536 ≤ x.len →
      issues (.dsc d w a acq rel) 1 [(x.base + off, .dsc)])

/-- R36, R220: the checks of an access in their order: WINDOW_ACCESS, then ALIGNMENT, then WINDOW_BOUNDS; a row beyond its
window is GATHER_INDEX, and no later check is made. The trap takes the operands, and nothing is issued. -/
def Obligations.WindowChecks : Prop :=
  ∀ (s : State) (n : NodeId) (l : Letter) (k : Nat) (f : Fmt) (d : Dst) (w : BitVec 4) (a b : Src) (acq rel : Bool),
    s.cur = .slot n l k → IsSame s .w32 a →
    let off := (tokAt s .w32 a).payload.toNat
    let x := winOf s (instOf s n l) w.toNat
    let four : List Space := [.scratch, .slice, .device, .peer]
    (∀ i sps r z srcs, (i, sps, r, z, srcs) ∈ [(Instr.lds f d w a acq rel, [Space.scratch], Right.read, 4, [a]),
        (.ldd f d w a acq rel, [.device], .read, 4, [a]), (.ldv f d w a acq rel, four, .read, 64, [a]),
        (.sts f d w a b acq rel, [.scratch], .write, 4, [a, b]), (.std f d w a b acq rel, [.device], .write, 4, [a, b]),
        (.stv f d w a b acq rel, four, .write, 64, [a, b]), (.afadd f d w a b acq rel, four, .atomic, 4, [a, b]),
        (.bupd f d w a b acq rel, [.slice], .atomic, 4, [a, b])] →
      (srcs = [a, b] → IsSame s f b) →
      let traps (c : Cause) : Prop := exec i s = .next (slotFault s n l k c (srcPorts srcs))
      (¬ Admits x sps r → traps .windowAccess)
      ∧ (Admits x sps r → off % z ≠ 0 → traps .alignment)
      ∧ (Admits x sps r → off % z = 0 → x.len < off + z → traps .windowBounds))
    ∧ (¬ Admits x four .read → exec (.gth f d w a acq rel) s = .next (slotFault s n l k .windowAccess (srcPorts [a])))
    ∧ (Admits x four .read → x.rstr ≠ 0 → x.len < off * x.rstr * 4 + (x.roww + 1) * 4 →
      exec (.gth f d w a acq rel) s = .next (slotFault s n l k .gatherIndex (srcPorts [a])))

/-- R138, R209: an access of a handler performs as it is made: a load of the panel's scratchpad that its home does not hold (R219)
and that meets no bit error (R266) delivers the word there, with the window's `LSET` as its `S`, and a store puts it there. -/
def Obligations.HandlerAccesses : Prop :=
  ∀ (s : State) (c : Nat) (f : Fmt) (d : Dst) (w : BitVec 4) (a b : Src) (acq rel : Bool), s.cur = .core c → IsSame s .w32 a →
    let off := (tokAt s .w32 a).payload.toNat
    let x := winOf s (actInst s) w.toNat
    let h := homeScratch (panelOf s (actNode s) (actLetter s)) (swizzle x.swz (x.base + off))
    (Allows x [.scratch] .read 4 4 off → x.hv = false → upsetsIn s h 4 = [] → coreHeld s w.toNat x f (off, .load) = false → exec (.lds f d w a acq rel) s =
      .next (s.updCore c fun q => writeCore q d { fmt := f, s := x.lset, payload := memWord s.mem h }))
    ∧ (DataOk s f b → Allows x [.scratch] .write 4 4 off → exec (.sts f d w a b acq rel) s =
      .next ({ s with mem := memPutWord s.mem h (tokAt s f b).payload }.updCore c fun q =>
        writeCore q d { payload := (tokAt s .w32 a).payload }))

/-- R211, R213: FEN is in flight as a fence that holds later accesses; XBAR counts its panel's barrier in its instance and waits for the swap;
PFD has no effect but its operand's consumption. -/
def Obligations.FencesAndBarriers : Prop :=
  ∀ (s : State) (d : Dst) (a : Src) (scope w : BitVec 4),
    (∀ n l k, s.cur = .slot n l k → dstUnwired s n l d = false →
      (∃ t, exec (.fen d scope) s = .next t ∧ Framed s t ∧ InFlight s t n l k 1 d [] fun o =>
        o.kind = .fence scope.toNat ∧ o.toks = [{}] ∧ o.ready = true)
      ∧ ∃ t, exec (.xbar d) s = .next t ∧ t.mem = s.mem ∧ SameRegs s t
        ∧ InFlight s t n l k 1 d [] (fun o => o.kind = .xbar ∧ o.ready = false)
        ∧ (let i := instOf s n l
          let key := panelKey (s.inst i) (panelOf s n l)
          mget (t.inst i).xn key = mget (s.inst i).xn key + 1 ∧ ∀ q, q ≠ key → mget (t.inst i).xn q = mget (s.inst i).xn q))
    ∧ (IsSame s .w32 a → CanDeliver s .disc → Results s (.pfd w a) 1 .disc [a] {})

/-- R205, R217 to R219: CPY and CPYS whose descriptor reads, once its bytes are taken from its limiter (R330), with the node's own earlier stores in it, and passes its checks queue the copy that it describes, and deliver the
cycle that R219 promises; nothing has moved yet. -/
def Obligations.CopiesIssue : Prop :=
  ∀ (s u : State) (n : NodeId) (l : Letter) (k : Nat) (d : Dst) (w : BitVec 4) (a : Src) (acq rel signal : Bool) (ws : List Word),
    s.cur = .slot n l k → dstUnwired s n l d = false → IsSame s .w32 a →
    let off := (tokAt s .w32 a).payload.toNat
    let i := instOf s n l
    let x := winOf s i w.toNat
    Reachable s x → Allows x [.scratch, .slice, .device, .peer] .read 32 32 off →
    winReads (spendAt s (s.inst i).ctx (limiterVa s (s.inst i).ctx x.space x.peer (x.base + off)) 16) (panelOf s n l, some (n, l, w.toNat))
      (s.inst i).ctx x (latchFile s n l w.toNat).snap off 8 = (u, .ok ws) →
    let q := wordsNat (ownWords u n l (s.inst i).ctx u.ids x off ws)
    let c := copyOf q signal (u.inst i).wins
    let j : CopyJob := { c with inst := i, ctx := (s.inst i).ctx, run := (u.inst i).run, issued := u.cycle, acq := acq, rel := rel
                                snap := if c.swin.hv then (latchFile u n l c.swn).snap else none }
    copyCheck u q j = none →
    ∃ t c, exec (if signal then .cpys d w a acq rel else .cpy d w a acq rel) s = .next t ∧ t.mem = s.mem ∧ SameRegs s t
      ∧ InFlight s t n l k 1 d [a] (fun o => Holds { payload := BitVec.ofNat 32 c.promise } o ∧ c.op = o.id)
      ∧ (t.plane n l).copies = (s.plane n l).copies ++ [c]
      ∧ c.soff = field q 63 32 ∧ c.doff = field q 95 64 ∧ c.clen = field q 127 96 ∧ c.rows = field q 143 128 + 1
      ∧ c.sstr = field q 191 160 ∧ c.dstr = field q 223 192 ∧ c.swn = field q 3 0 ∧ c.dwn = field q 7 4 ∧ c.signal = signal
      ∧ c.started = false ∧ c.pos = 0
      ∧ (c.swin.space = .scratch → c.dwin.space = .device →
          c.promise = s.cycle + 1024 + (c.clen * c.rows + 15) / 16)

/-- R224: LTB, LTA, LTD, LTP and LTQ whose window and handle pass their checks issue one access to the handle's record, which
that record's home serialises; the record is that of the slot of `a` for LTB, and the one that the port has latched for the
others. LTQ with a selector above 3 faults WINDOW_BOUNDS. -/
def Obligations.LayeredInstructionsIssue : Prop :=
  ∀ (s : State) (n : NodeId) (l : Letter) (k : Nat) (d : Dst) (w : BitVec 4) (a b : Src) (acq rel : Bool) (h : Nat),
    s.cur = .slot n l k → dstUnwired s n l d = false → IsSame s .w32 a →
    let x := winOf s (instOf s n l) w.toNat
    let v := (tokAt s .w32 a).payload
    let y := (tokAt s .w32 b).payload
    x.described = true → x.space = .device → x.wr = false →
    let issues (i : Instr) (act : AccAct) : Prop :=
      ∃ t, exec i s = .next t ∧ Issued s t n l k d w.toNat x 1 [(h, act)]
    (IsRaw s b → (s.inst (instOf s n l)).pat.handles[v.toNat]? = some h → issues (.ltb d w a b acq rel) (.lt 4 v y))
    ∧ ((latchFile s n l w.toNat).handle = some h →
      (IsRaw s b → issues (.lta d w a b acq rel) (.lt 5 v y) ∧ issues (.ltd d w a b acq rel) (.lt 6 v y)
        ∧ issues (.ltp d w a b acq rel) (.lt 7 v y))
      ∧ (v.toNat ≤ 3 → issues (.ltq d w a acq rel) (.lt 8 v 0xFFFFFFFF))
      ∧ (3 < v.toNat → exec (.ltq d w a acq rel) s = .next (slotFault s n l k .windowBounds (srcPorts [a]))))
    ∧ ((latchFile s n l w.toNat).handle = none → IsRaw s b →
      exec (.lta d w a b acq rel) s = .next (slotFault s n l k .layerShape (srcPorts [a, b])))

/-! ### Memory events -/

/-- R206, R209, R210, R212, R214, R216, R226: what an access that may perform does at its home, inside this device and on a
page that is not discarded: a load delivers the word, a store writes it, an atomic delivers the old value and writes the new
one, SIGW adds 64 bits, BUPD adds lanes and BRED sums elements; every byte outside the element is unchanged, and the
operation has its result. A BRED reads sixteen words a cycle and goes on with its sum until it has read all (R268). DSC sets `D` in the leaf entry, and has its result once the marks at the nodes that hold the page
have emerged. A store of a commit window goes to the buffer and leaves memory
alone, and STX goes to the bank that is at the back of its target. -/
def Obligations.AccessesPerform : Prop :=
  ∀ (s : State) (id : Nat) (a : Access), s.memOk → mget? s.accs id = some a → a.layered = none →
    let w := memWord s.mem a.home
    let performs (res : Op → Token) (m : List Host.Cell → Prop) : Prop :=
      ∃ t, exec (.accessPerform id .clean) s = .next t ∧ m t.mem ∧ SameRegs s t ∧ mget? t.accs id = none
        ∧ ∀ o, s.op? a.node a.letter a.op = some o → o.total ≤ o.done + 1 → o.queued = false →
          t.op? a.node a.letter a.op = some { o with done := o.done + 1, ready := true, due := s.cycle, toks := [res o] }
    let wrote (h size : Nat) (p : List Host.Cell → Prop) (m : List Host.Cell) : Prop :=
      p m ∧ ∀ b, b < h ∨ h + size ≤ b → memRead m b = memRead s.mem b
    let puts (v : Word) : List Host.Cell → Prop := wrote a.home 4 fun m => memWord m a.home = v
    (buffers s a = false → canPerform s id a = true → (a.space = .peer → a.peer = s.dev.devnum) → pathFault s a = none →
      (inDevice s a.space a.peer = true → a.home < 2 ^ 52 → paDown s a.home = false) →
      (∀ b ∈ nodeBuf s a.node, sameWord a b = false) →
      (inDevice s a.space a.peer = true → ∀ p, homePage s a.ctx a.va = some p → p.d = false) →
      (actReads a.act = true → upsetsIn s (sweepOf a).home (actBytes (sweepOf a).act) = []) →
      (a.act = .load → performs (fun _ => { fmt := a.fmt, s := a.lset, payload := w }) fun m => m = s.mem)
      ∧ (a.space ≠ .exchange → ∀ v, a.act = .store v → performs (fun o => { payload := o.fold }) (puts v))
      ∧ (a.space ≠ .exchange → ∀ op f b c v, a.act = .atomic op f b c → (op, v) ∈ [(0, w + b), (1, afaddPay f w b),
          (2, if w.toInt ≤ b.toInt then w else b), (3, if b.toInt ≤ w.toInt then w else b), (4, w &&& b), (5, w ||| b),
          (6, w ^^^ b), (7, b), (8, if w = b then c else w)] →
        performs (fun _ => { fmt := f, payload := w }) (puts v))
      ∧ (a.space = .device → (∀ e ∈ s.runs, e.2.ctx = a.ctx → a.va ∉ e.2.awaits) → ∀ v, a.act = .sigw v →
        let sum := (((memDouble s.mem a.home : Int) + v.toInt) % (2 ^ 64 : Nat)).toNat
        performs (fun _ => { payload := BitVec.ofNat 32 sum }) (wrote a.home 8 fun m => memDouble m a.home = sum))
      ∧ (a.space = .slice → ∀ f b, a.act = .bupd f b → performs (fun o => { payload := o.fold }) (puts (bupdPay f w b)))
      ∧ (a.space = .slice → ∀ f n, a.act = .bred f n → n ≤ 64 / (laneW f / 8) → a.swept = 0 → a.part = none →
        performs (fun _ => { fmt := .f32, payload := bredSum f none (bredElems s.mem a.home f n) }) fun m => m = s.mem)
      ∧ (a.space = .slice → ∀ f n, a.act = .bred f n → ∀ m, (sweepOf a).act = .bred f m →
        let sum := bredSum f a.part (bredElems s.mem (a.home + 4 * a.swept) f m)
        (sweepsOn a = false → performs (fun _ => { fmt := .f32, payload := sum }) fun m => m = s.mem)
        ∧ (sweepsOn a = true → ∃ t, exec (.accessPerform id .clean) s = .next t ∧ t.mem = s.mem ∧ SameRegs s t
          ∧ mget? t.accs id = some { a with swept := a.swept + 16, part := some sum, due := s.cycle + slow s a.node 1 }))
      ∧ (a.space = .device → a.act = .dsc → ∀ q, (translate s a.ctx a.va).2 = some q → q.bad = false → q.size = 65536 →
        q.w = true →
        bitOf (memDouble s.mem q.leafPa) 4 = false →
        ∃ t, exec (.accessPerform id .clean) s = .next t ∧ SameRegs s t
          ∧ wrote q.leafPa 8 (fun m => memDouble m q.leafPa = memDouble s.mem q.leafPa + 16) t.mem
          ∧ mget? t.accs id = some { a with
              st := .marks s.ids (markNodes s a.ctx a.va 1) (markUnits s a.ctx a.va 1) (markPresses s a.ctx a.va 1) }
          ∧ t.op? a.node a.letter a.op = s.op? a.node a.letter a.op)
      ∧ (a.space = .exchange → ∀ v, a.act = .store v →
        let h := homeExch a.home (!(s.panel a.home).front) a.va
        performs (fun o => { payload := o.fold }) (wrote h 4 fun m => memWord m h = v)))
    ∧ (∀ at_ ns us ds, a.act = .dsc → a.st = .marks at_ ns us ds → dscMarked s a at_ ns us ds = true →
        performs (fun o => { payload := o.fold }) fun m => m = s.mem)
    ∧ (∀ v, buffers s a = true → a.act = .store v → canBuffer s id a = true →
      ((s.plane a.node a.letter).mp.buf.filter fun c => decide (c.win = a.win)).length < 512 →
      ∃ t b, exec (.accessPerform id .clean) s = .next t ∧ t.mem = s.mem ∧ SameRegs s t ∧ mget? t.accs id = none
        ∧ (t.plane a.node a.letter).mp.buf = (s.plane a.node a.letter).mp.buf ++ [b] ∧ b.val = v ∧ b.home = a.home ∧ b.op = a.op)

/-- R42, R210, R211, R273 to R288: translation, exchange swaps, zeroing, shootdowns, low-water queries and reclaims. A
translated access is ready at its page's home, one that faults stays with its stopped node; a swap exchanges every
participant's banks and its instance's count for it; zeroing leaves zeros in its bytes and no other byte changed; a shootdown
leaves no entry of its range in a tile or a walk cache, and ends once the marks at nodes, layer units and press engines have
emerged; a query's answer is at most every mark; a reclaim clears the leaf entry's present bit. -/
def Obligations.MemoryEvents : Prop :=
  ∀ (s : State), s.memOk →
    (∀ id a u p, mget? s.accs id = some a → canAnswer s id a = true →
      portXlate s a.node a.letter a.win a.ctx a.va (actRight a.act) = (u, .ok p) →
      ∃ t, exec (.translationAnswer id) s = .next t ∧ t.mem = s.mem ∧ SameRegs s t
        ∧ mget? t.accs id = some { a with st := .ready, home := pageHome p a.va, link := farLink s (pageHome p a.va) })
    ∧ (∀ id a u c o, mget? s.accs id = some a → canAnswer s id a = true → s.op? a.node a.letter a.op = some o →
      portXlate s a.node a.letter a.win a.ctx a.va (actRight a.act) = (u, .error c) → causeCls c = .s →
      let tid := trapIdOf s (instOf s a.node a.letter)
      ∃ t, exec (.translationAnswer id) s = .next t ∧ t.mem = s.mem ∧ SameRegs s t
        ∧ mget? t.accs id = some { a with st := .stalled tid } ∧ (t.plane a.node a.letter).stop = .stall tid)
    ∧ (∀ i, let ps := xbarPanels s i
      ps ≠ [] → (ps.map fun e => panelKey (s.inst i) e.1).Nodup → (∀ e ∈ ps, xbarArrived s e.1 e.2 = true) →
      ((ps.map fun e => xbarAt s e.1 e.2).foldl max 0) + barrierDelay s (s.inst i) 0 ≤ s.cycle →
      ∃ t, exec (.exchangeSwap i) s = .next t ∧ t.mem = s.mem ∧ SameRegs s t
        ∧ ∀ e ∈ ps, (t.panel e.1).front = !(s.panel e.1).front ∧ xsOf t i e.1 = xsOf s i e.1 + 1)
    ∧ (∀ p due, (s.panel p).zero = some due → due ≤ s.cycle →
      ∃ t, exec (.scratchpadZeroing p) s = .next t ∧ (t.panel p).zero = none
        ∧ (∀ b, b < 2 ^ 17 → memRead t.mem (homeScratch p b) = 0)
        ∧ (∀ b x, b < 2 ^ 13 → memRead t.mem (homeExch p x b) = 0)
        ∧ ∀ h, (h < homeScratch p 0 ∨ homeScratch p 0 + 2 ^ 17 ≤ h) → (h < homeExch p false 0 ∨ homeExch p false 0 + 2 ^ 14 ≤ h) →
          memRead t.mem h = memRead s.mem h)
    ∧ (∀ lvl sw (way : Fin 4) due, (mget s.banks (lvl, sw)).ways[way].zero = some due → due ≤ s.cycle →
      let split := (mget s.banks (lvl, sw)).split
      let part := splitSize lvl / 4
      let lo := homeSlice lvl sw 0 + (if split then way.val * part else 0)
      let size := if split then part else bankSize lvl
      ∃ t, exec (.sliceBankZeroing lvl sw way) s = .next t ∧ (mget t.banks (lvl, sw)).ways[way].zero = none
        ∧ (∀ b, lo ≤ b → b < lo + size → memRead t.mem b = 0)
        ∧ ∀ b, (b < lo ∨ lo + size ≤ b) → memRead t.mem b = memRead s.mem b)
    ∧ (∀ c, let x := s.ctx c
      let ms := markNodes s c x.sdva x.sdlen
      let us := markUnits s c x.sdva x.sdlen
      let ps := markPresses s c x.sdva x.sdlen
      let idle : Prop := ms = [] ∧ us = [] ∧ ps = []
      x.sdgo = true → x.sdat = 0 → eventFree s c = true → (idle → x.sdsig = 0) →
      ∃ t, exec (.shootdown c) s = .next t ∧ t.mem = s.mem ∧ SameRegs s t
        ∧ (∀ e ∈ t.tiles, ∀ p ∈ e.2, p.1 = c → inRange x.sdva x.sdlen p.2.vpn = false)
        ∧ (∀ e ∈ t.walks, ∀ w ∈ e.2, walkIn c x.sdva x.sdlen w = false)
        ∧ (idle → (t.ctx c).sdgo = false)
        ∧ (¬ idle → (t.ctx c).sdgo = true ∧ (t.ctx c).sdmarks = ms ∧ (t.ctx c).sdunits = us ∧ (t.ctx c).sdpress = ps))
    ∧ (∀ c n, let x := s.ctx c
      n ∈ x.sdmarks → finishedBefore s n x.sdat = true → eventFree s c = true → x.sdsig = 0 →
      ∃ t, exec (.rltMarkEmerge c n) s = .next t ∧ t.mem = s.mem ∧ n ∉ (t.ctx c).sdmarks
        ∧ ((∀ m ∈ x.sdmarks, m = n) → x.sdunits = [] → x.sdpress = [] → (t.ctx c).sdgo = false)
        ∧ ((∃ m ∈ x.sdmarks, m ≠ n) ∨ x.sdunits ≠ [] ∨ x.sdpress ≠ [] → (t.ctx c).sdgo = x.sdgo))
    ∧ (∀ c, (s.ctx c).lwqgo = true → (s.ctx c).lwqst = none →
      ∃ t v, exec (.lowWaterQuery c) s = .next t ∧ (t.ctx c).lwqst = some v ∧ t.mem = s.mem
        ∧ (∀ m ∈ lowMarks s c (s.ctx c).lwqva (s.ctx c).lwqlen, ∀ k, m.2 = some k → v ≤ k)
        ∧ (lowMarks s c (s.ctx c).lwqva (s.ctx c).lwqlen = [] → v = 2 ^ 64 - 1))
    ∧ (∀ c v, (s.ctx c).lwqst = some v → exec (.lowWaterResult c) s =
      .next (s.updCtx c fun x => { x with lwqres := v, lwqgo := false, lwqst := none }))
    ∧ (∀ c, (s.ctx c).rcgo = true → (s.ctx c).rcst = none →
      (homePage s c (s.ctx c).rcva = none → ∃ t, exec (.reclaim c) s = .next t ∧ (t.ctx c).rcst = some 3 ∧ t.mem = s.mem)
      ∧ ∀ p, homePage s c (s.ctx c).rcva = some p →
        (p.d = false → ∃ t, exec (.reclaim c) s = .next t ∧ (t.ctx c).rcst = some 2 ∧ t.mem = s.mem)
        ∧ (p.d = true → ∃ t, exec (.reclaim c) s = .next t ∧ (t.ctx c).rcst = some 1
            ∧ memDouble t.mem p.leafPa = memDouble s.mem p.leafPa / 2 * 2
            ∧ ∀ b, (b < p.leafPa ∨ p.leafPa + 8 ≤ b) → memRead t.mem b = memRead s.mem b))
    ∧ (∀ c v, (s.ctx c).rcst = some v → (∀ n ∈ (s.ctx c).rcmarks, finishedBefore s n (s.ctx c).rcat = true) →
      (v = 1 → (∀ u, u < 256 → unitPast s c (s.ctx c).rcat u = true) ∧
        ∀ d, d < 4 → pressPast s c (s.ctx c).rcva 1 (s.ctx c).rcat d = true) →
      exec (.reclaimAnswer c) s =
        .next (s.updCtx c fun x => { x with rcst := none, rcgo := false, rcres := v, rcmarks := [], rcat := 0 }))

/-! ### Engines -/

namespace Sys2Proof.Said
open Sys2Proof Sys2Proof.Machine

/-- An engine's operation has ended: it is ready to write back in this cycle. -/
def Ends (s t : State) (n : NodeId) (l : Letter) (id : Nat) : Prop :=
  ∀ o ∈ (s.plane n l).ops, o.id = id →
    ∃ q ∈ (t.plane n l).ops, q.id = id ∧ q.ready = true ∧ q.due = s.cycle ∧ q.dst = o.dst ∧ q.slot = o.slot

end Sys2Proof.Said

/-- R228 to R242: the instructions of a matrix array past their checks hand their operation to its unit: a tile joins the
grid's queue, ZAC clears its bank there and then, ACCL and DRN start the drain unit, LDE and LDT a loader, MDL the metadata
unit, CMPR the compressor, holding both its destinations. A bank of the wrong kind faults TAG_MISMATCH, and the array's own
invalid metadata METADATA_INVALID. -/
def Obligations.MatrixInstructions : Prop :=
  ∀ (s : State) (n : NodeId) (l : Letter) (k : Nat) (f : Fmt) (sp : Spar) (b chn : Bool) (kc : BitVec 8) (e : Edge)
    (w r4 : BitVec 4), s.cur = .slot n l k →
    let m := (s.plane n l).mxa
    let p := panelOf s n l
    let g := f.lanes
    let own := chainFed s p l .west = false
    let starts (i : Instr) (ready : Bool) (srcs : List Src) (A : Op → Mxa → Prop) : Prop :=
      ∃ t, exec i s = .next t ∧ t.mem = s.mem ∧ SameRegs s t
        ∧ InFlight s t n l k 1 .disc srcs fun o => o.kind = .mxa ∧ o.ready = ready ∧ A o (t.plane n l).mxa
    ((m.bank b).int = (f == .i8) →
      starts (.mma f b kc chn) false [] (fun o v => v = { m with tiles := m.tiles ++
        [{ op := o.id, fmt := f, bank := b, k := kc.toNat + 1, spar := .dense, chn := chn, issued := s.cycle }] })
      ∧ ((own → ∀ x ∈ m.m.toList, metaBad sp g (kc.toNat + 1) x = false) →
        starts (.mmas f sp b kc chn) false [] fun o v => v = { m with tiles := m.tiles ++
          [{ op := o.id, fmt := f, bank := b, k := kc.toNat + 1, spar := sp, chn := chn, issued := s.cycle }] })
      ∧ (own → (∃ x ∈ m.m.toList, metaBad sp g (kc.toNat + 1) x = true) →
        exec (.mmas f sp b kc chn) s = .next (slotFault s n l k .metadataInvalid [])))
    ∧ ((m.bank b).int ≠ (f == .i8) → exec (.mma f b kc chn) s = .next (slotFault s n l k .tagMismatch [])
        ∧ exec (.mmas f sp b kc chn) s = .next (slotFault s n l k .tagMismatch []))
    ∧ starts (.zac f b) true [] (fun _ v => (∀ j : Fin 256, (v.bank b).acc[j] = 0) ∧ (v.bank b).s = none
        ∧ (v.bank b).int = (f == .w32) ∧ v.bank (!b) = m.bank (!b) ∧ v.tiles = m.tiles ∧ v.m = m.m)
    ∧ starts (.accl f b) false [] (fun o v => (∃ d, v.drain = some d ∧ d.op = o.id ∧ d.fmt = f ∧ d.bank = b ∧ d.acc = true
        ∧ d.pos = 0 ∧ d.since = s.cycle) ∧ (v.bank b).int = (f == .w32) ∧ (v.bank b).s = none ∧ (v.bank b).acc = (m.bank b).acc)
    ∧ (∀ srcs r, drainRoute s n l k = (srcs, r) → (m.bank b).int = (f == .w32 || f == .i8) → r ≤ 15 →
        rwWired ((s.plane n l).ext.getD r 0) = true →
        starts (.drn f b) false srcs fun o v => ∃ d, v = { m with drain := some d } ∧ d.op = o.id ∧ d.fmt = f ∧ d.bank = b
          ∧ d.acc = false ∧ d.route = r ∧ d.pos = 0 ∧ d.since = s.cycle)
    ∧ (IsSame s .w32 (.inC 2) →
        let off := (tokAt s .w32 (.inC 2)).payload.toNat
        let x := winOf s (instOf s n l) w.toNat
        let loads (tr : Bool) (o : Op) (v : Mxa) : Prop := ∃ d, v = m.setLoader e (some d) ∧ d.op = o.id ∧ d.trans = tr
          ∧ d.fmt = f ∧ d.win = w.toNat ∧ d.addr = x.base + off ∧ d.k = kc.toNat + 1 ∧ d.pos = 0 ∧ d.next = s.cycle + 1
        (loadCheck x false g (kc.toNat + 1) off = none → starts (.lde f e w kc) false [.inC 2] (loads false))
        ∧ (loadCheck x true g (kc.toNat + 1) off = none → starts (.ldt f e w kc) false [.inC 2] (loads true)))
    ∧ starts (.mdl r4 kc) false [] (fun o v => v = { m with mdl := some { op := o.id, reg := r4.toNat, left := kc.toNat + 1 } })
    ∧ (outWired s n l 0 = true → outWired s n l 1 = true → ∃ t, exec (.cmpr f sp kc) s = .next t ∧ t.mem = s.mem ∧ SameRegs s t
        ∧ InFlight s t n l k 1 .disc [] fun o => o.kind = .mxa ∧ o.ready = false ∧ (t.outp n l 0).res = some o.id
          ∧ (t.outp n l 1).res = some o.id
          ∧ (t.plane n l).mxa = { m with cmpr := some { op := o.id, fmt := f, spar := sp, k := kc.toNat + 1 } })

/-- R245 to R250, R410: MRG, DNS, SPS, CRED and CBCS start their node's stream engine, DNS with the form mark of its dense
stream; CRED and CBCS of a group that is not valid fault COLLECTIVE_MISMATCH. NBAR and NRED wait for their group, NRED with
its operand. -/
def Obligations.StreamInstructions : Prop :=
  ∀ (s : State) (n : NodeId) (l : Letter) (k : Nat) (f : Fmt) (r : Red) (d : Dst) (j i : Fin 4) (grp : BitVec 4),
    s.cur = .slot n l k → dstUnwired s n l d = false →
    let starts (c : Instr) (E : StreamOp → Prop) : Prop :=
      ∃ t e, exec c s = .next t ∧ t.mem = s.mem ∧ SameRegs s t ∧ (t.node n).engine = some e ∧ e.letter = l ∧ e.dst = d
        ∧ e.fmt = f ∧ e.ina.port = j.val ∧ e.fin = false ∧ E e
        ∧ InFlight s t n l k 1 d [] fun o => o.kind = .stream ∧ o.ready = false ∧ o.id = e.op
    let waits (c : Instr) (kd : OpKind) (srcs : List Src) (P : Op → Prop) : Prop :=
      ∃ t, exec c s = .next t ∧ t.mem = s.mem ∧ SameRegs s t
        ∧ InFlight s t n l k 1 d srcs fun o => o.kind = kd ∧ o.ready = false ∧ P o
    starts (.mrg f r d (.inC j) (.inC i)) (fun e => e.kind = .mrg ∧ e.red = r ∧ e.inb = some { port := i.val } ∧ e.queue = [])
    ∧ starts (.dns f d (.inC j)) (fun e => e.kind = .dns ∧ e.inb = none ∧ e.queue = [denseMark (eosPlaced s n)])
    ∧ starts (.sps f d (.inC j)) (fun e => e.kind = .sps ∧ e.inb = none ∧ e.queue = [])
    ∧ (groupValid s n grp.toNat = true →
        starts (.cred f r d (.inC j) grp) (fun e => e.kind = .cred ∧ e.red = r ∧ e.grp = grp.toNat ∧ e.inb = none)
        ∧ starts (.cbcs f d (.inC j) grp) fun e => e.kind = .cbcs ∧ e.grp = grp.toNat ∧ e.inb = none)
    ∧ (groupValid s n grp.toNat = false → ∃ u v,
        exec (.cred f r d (.inC j) grp) s = .next u ∧ u = impreciseAt (slotFault s n l k .collectiveMismatch []) n l
        ∧ exec (.cbcs f d (.inC j) grp) s = .next v ∧ v = u)
    ∧ waits (.nbar d grp) (.nbar grp.toNat) [] (fun _ => True)
    ∧ ∀ a, IsSame s f a → waits (.nred f r d a grp) (.nred grp.toNat) [a] fun o =>
        o.fold = (tokAt s f a).payload ∧ Fmt.ofCode (o.arg / 4) = f ∧ redOfArg o.arg = r ∧ o.total = (tokAt s f a).s.toNat

/-- R229, R231, R238 to R242, R245, R250, R411: the events of the engines. A distributor moves a token into the next lane of
its edge; an operation whose unit has finished is ready to write back, and its unit is free; a stream operation places what
is open and its EOS and then retires; a barrier's release and a reduction's delivery give every participant its token; a
piece of a collective is combined with what is held for its element. -/
def Obligations.EngineEvents : Prop :=
  ∀ (s : State) (p : Nat) (l : Letter),
    let n := mxaNode p
    let m := (s.plane n l).mxa
    let still (t : State) : Prop := t.mem = s.mem ∧ SameRegs s t
    (∀ (e : Edge) t j,
      (j, t) ∈ (match e with
        | .west => (headTok n (s.plane n l) 0).toList.map fun t => (m.jw, t)
        | .north => (headTok n (s.plane n l) 1).toList.map fun t => (m.jn, t)) →
      t.kind = .data → isBlk t.fmt = false → (s.plane n l).active = true → (s.plane n l).stop = .run →
      (s.plane n l).parity = none → m.loader e = none → laneFree m (laneIx e (j % 16)) = true →
      (match e with
        | .west => m.dw
        | .north => m.dn) ≤ s.cycle →
      ∃ u, exec (.laneDistribute p l e) s = .next u ∧ still u
        ∧ (u.plane n l).mxa.lanes[laneIx e (j % 16)] = m.lanes[laneIx e (j % 16)] ++ [t]
        ∧ (∀ i, i ≠ laneIx e (j % 16) → (u.plane n l).mxa.lanes[i] = m.lanes[i])
        ∧ (match e with
          | .west => (u.plane n l).mxa.jw
          | .north => (u.plane n l).mxa.jn) = j + 1)
    ∧ (∀ t r d, m.tiles = t :: r → t.fin = some d → d ≤ s.cycle → (t.chn = true → tileOuts m = false) →
      ∃ u, exec (.tileComplete p l) s = .next u ∧ still u ∧ Ends s u n l t.op
        ∧ (u.plane n l).mxa = { m with tiles := r.filter fun x => !decide (x.op = t.op), cw := m.cw.drop 1, cn := m.cn.drop 1 })
    ∧ (∀ d, m.drain = some d → (d.acc = true → 256 ≤ d.pos ∧ d.since + slow s n 256 ≤ s.cycle) →
      (d.acc = false → 16 ≤ d.pos ∧ d.out = [] ∧ d.since + slow s n 64 ≤ s.cycle) →
      ∃ u, exec (.drainComplete p l) s = .next u ∧ still u ∧ Ends s u n l d.op ∧ (u.plane n l).mxa.drain = none
        ∧ ((u.plane n l).mxa.bank d.bank).acc = (m.bank d.bank).acc
        ∧ ((u.plane n l).mxa.bank d.bank).s = (if d.acc then (m.bank d.bank).s else none))
    ∧ (∀ e d, m.loader e = some d → d.k ≤ d.pos → d.next ≤ s.cycle → d.slab = [] →
      ∃ u, exec (.edgeLoadComplete p l e) s = .next u ∧ still u ∧ Ends s u n l d.op ∧ (u.plane n l).mxa = m.setLoader e none)
    ∧ (∀ d, m.mdl = some d → d.left = 0 →
      ∃ u, exec (.metadataLoadComplete p l) s = .next u ∧ still u ∧ Ends s u n l d.op ∧ (u.plane n l).mxa = { m with mdl := none })
    ∧ (∀ c o, m.cmpr = some c → s.op? n l c.op = some o → c.k ≤ c.placed → c.metas = [] → o.issued + slow s n (c.k + 3) ≤ s.cycle →
      ∃ u, exec (.cmprComplete p l) s = .next u ∧ still u ∧ Ends s u n l c.op ∧ (u.plane n l).mxa = { m with cmpr := none }
        ∧ (u.outp n l 0).res = none ∧ (u.outp n l 1).res = none)
    ∧ (∀ x e, (s.node x).engine = some e → (s.plane x e.letter).stop = .run → e.queue = [] →
      (e.fin = true → ∃ u, exec (.streamOperationEnd x) s = .next u ∧ still u ∧ (u.node x).engine = none ∧ Ends s u x e.letter e.op)
      ∧ (e.fin = false → ∀ w, endsWith s x e = some w →
        ∃ u v ts, exec (.streamOperationEnd x) s = .next u ∧ still u ∧ (u.node x).engine = some v ∧ v.fin = true ∧ v.op = e.op
          ∧ v.queue = ts ++ [{ kind := .eos, payload := w }]
          ∧ ts.length = (s.plane x e.letter).sout.open_.toList.length))
    ∧ (∀ x e c q, (s.node x).engine = some e → e.kind = .cred → e.resAt ≠ some s.cycle → q.psn = false → q.eos = false → partBad e q = false →
      q.child = some c → c < groupKids s x e.grp → mget? e.ceos c = none → q.index = mget e.child c → q.index < e.idx + 4096 →
      ∃ u v, exec (.collectiveResult x [q]) s = .next u ∧ still u ∧ (u.node x).engine = some v
        ∧ mget v.child c = q.index + 1
        ∧ mget? v.acc q.index = some (match mget? e.acc q.index with
          | none => q.val
          | some y => (combine e.red y q.val).1))
    ∧ (∀ i g, let ps := groupPanels s i g
      ps.Nodup →
      (let k := OpKind.nbar g
       let c := gatherNow s k ps (barrierDelay s (s.inst i) 0) (mget (s.inst i).nbars g)
       ∀ r, c.release = some r → r ≤ s.cycle →
        ∃ u, exec (.nbarRelease i g) s = .next u ∧ still u ∧ (mget (u.inst i).nbars g).gen = (mget (s.inst i).nbars g).gen + 1
          ∧ ∀ e ∈ ps, ∀ o, waitingOp s e.1 e.2 k = some o → ∃ q ∈ (u.plane (.panel e.1 71) e.2).ops, q.id = o.id ∧ q.ready = true
            ∧ q.toks = [{ payload := BitVec.ofNat 32 (mget (s.inst i).nbars g).gen }] ∧ q.due = s.cycle)
      ∧ (let k := OpKind.nred g
       let c := gatherNow s k ps (barrierDelay s (s.inst i) 4) (mget (s.inst i).nreds g)
       let os := nredOps s k ps
       ∀ r a z, c.release = some r → r ≤ s.cycle → os ≠ [] → (∀ o ∈ os, o.arg = a ∧ o.total = z) →
        ∃ u, exec (.nredDelivery i g) s = .next u ∧ still u
          ∧ ∀ e ∈ ps, ∀ o, waitingOp s e.1 e.2 k = some o → ∃ q ∈ (u.plane (.panel e.1 71) e.2).ops, q.id = o.id ∧ q.ready = true
            ∧ q.due = s.cycle ∧ ∃ y, q.toks = [y] ∧ y.fmt = Fmt.ofCode (a / 4) ∧ y.s = decide (z = 1)
              ∧ y.payload = reduceAll (Fmt.ofCode (a / 4)) (redOfArg a) (os.map (·.fold))
              ∧ (a = nredArg .w32 .sum → y.payload = (os.map (·.fold)).foldl (· + ·) 0)))

/-! ### Tokens, seams and planes -/

/-- R10, R19, R22, R24, R25, R40, R117, R164, R167 to R171, R174, R176, R212, R365, R366, R368: the events of tokens and
planes. A token that has arrived enters its in-port's FIFO as it is, waits for cv, or waits in the buffer slot of an inactive
plane; cv returns a token converted; a request is noted at the producing out-port; a token departs to its consumer's seam and
frees its slot; EOS and a mark at every port that carries them pass on to every wired out-port of a stitch and leave their
ports; a SWP mark swaps the planes and a PMK or a region's WIN holds the plane; a mark that has stood too long traps; a
poisoned plane places its PSN; a load that is over leaves its planes basted; a released region runs on. -/
def Obligations.TokenEvents : Prop :=
  ∀ (s : State) (n : NodeId) (l : Letter),
    let p := s.plane n l
    let still (t : State) : Prop := t.mem = s.mem ∧ SameRegs s t
    (∀ (k : Fin 4) f r, p.ins[k].lane = f :: r → f.due ≤ s.cycle → p.ins[k].buf = none →
      let tok : Token := { f.tok with l := false }
      (p.active = true → p.ins[k].fifo.length < fifoCap → p.ins[k].cv = none →
        (accepts p.inw[k] tok = true → ∃ t, exec (.tokenArrival n l k) s = .next t ∧ still t
          ∧ (t.inp n l k).fifo = p.ins[k].fifo ++ [{ tok := tok, from_ := f.from_ }] ∧ (t.inp n l k).lane = r)
        ∧ (accepts p.inw[k] tok = false → iwSteer p.inw[k] = true → (cvEntry s n l tok).isSome = true →
          ∃ t, exec (.tokenArrival n l k) s = .next t ∧ still t ∧ (t.inp n l k).fifo = p.ins[k].fifo
            ∧ (t.inp n l k).cv = some { f with tok := tok, due := s.cycle + slow s n 4 } ∧ (t.inp n l k).lane = r)
        ∧ (accepts p.inw[k] tok = false → iwSteer p.inw[k] = false →
          ∃ t, exec (.tokenArrival n l k) s = .next t ∧ still t
            ∧ (t.inp n l k).fifo = p.ins[k].fifo ++ [{ tok := tok, bad := some .steerUnrouted, from_ := f.from_ }]))
      ∧ (p.active = false → ∃ t, exec (.tokenArrival n l k) s = .next t ∧ still t ∧ (t.inp n l k).buf = some f
          ∧ (t.inp n l k).lane = r ∧ (t.inp n l k).fifo = p.ins[k].fifo))
    ∧ (∀ (k : Fin 4) f w tok, p.ins[k].cv = some f → f.due ≤ s.cycle → p.ins[k].fifo.length < fifoCap →
      cvEntry s n l f.tok = some w → cvConvert w p.pcw f.tok = (tok, none) → accepts p.inw[k] tok = true →
      ∃ t, exec (.cvConversion n l k) s = .next t ∧ still t ∧ (t.inp n l k).cv = none
        ∧ (t.inp n l k).fifo = p.ins[k].fifo ++ [{ tok := tok, back := true, from_ := f.from_ }])
    ∧ (∀ (o : Fin 4) j m ml k seam, (targets s n l o)[j]? = some (.port m ml k seam) → iwLazy (s.plane m ml).inw[k] = true →
      (s.plane m ml).active = true → lazyNeed s m ml k = true →
      ∃ t, exec (.lazyRequest n l o j) s = .next t ∧ still t ∧ (∃ r ∈ (t.outp n l o).reqs, r.1 = j)
        ∧ ((∀ r ∈ (s.outp n l o).reqs, r.1 ≠ j) → (t.outp n l o).reqs = (s.outp n l o).reqs ++ [(j, s.cycle + wireTime s n m)]) ∧ (t.outp n l o).slot = (s.outp n l o).slot)
    ∧ (∀ (o : Fin 4) tok m ml k seam, (s.outp n l o).slot = some tok → targets s n l o = [.port m ml k seam] →
      canTake s n (s.outp n l o) tok 0 (.port m ml k seam) = true → crossesSelvage s n (.port m ml k seam) = false →
      (s.inp m ml k).pend = none → (s.outp n l o).since ≤ s.cycle → tok.kind ≠ .mark → rwScale p.rw[o] = false →
      (s.outp n l o).swap = false →
      ∃ t, exec (.outPortSend n l o) s = .next t ∧ still t ∧ (t.outp n l o).slot = none ∧ (t.inp m ml k).lane =
        (s.inp m ml k).lane ++ [⟨{ tok with l := ml.bit }, s.cycle + slow s n (seamTime n m) + 1, some (n, l), false⟩])
    ∧ (∀ (o : Fin 4) e q tok, (s.outp n l o).slot = none → (s.outp n l o).res = none → (s.outp n l o).left ≠ some s.cycle → kindOf n = .mp → p.stop ≠ .winHold →
      nextEntry (s.outp n l o).blk (s.outp n l o).retq = some (e, q) → e.tok = some tok → e.due ≤ s.cycle →
      (e.op ≠ 0 → loadBefore s n e.op = false) → e.win = none → isWin tok = false →
      ∃ t, exec (.outPortSend n l o) s = .next t ∧ still t ∧ (t.outp n l o).slot = some tok ∧ (t.outp n l o).retq = q)
    ∧ (kindOf n = .stitch → p.mp.relog = [] → eosReady s n l = true →
      ∃ t w, exec (.autoEosForward n l) s = .next t ∧ still t
        ∧ (∃ k : Fin 4, eosCarrying p k = true ∧ (rawHead p k).map (·.payload) = some w ∧ ∀ j : Fin 4, j < k → eosCarrying p j = false)
        ∧ (∀ k : Fin 4, (t.outp n l k).slot = if outWired s n l k then some { kind := .eos, payload := w } else (s.outp n l k).slot)
        ∧ ∀ k : Fin 4, (t.inp n l k).fifo = if eosCarrying p k then p.ins[k].fifo.tail else p.ins[k].fifo)
    ∧ (∀ tok, kindOf n = .stitch → p.mp.relog = [] → markReady s n l = some tok →
      let region := (s.inst (instOf s n l)).region.contains (n, l)
      let copies (t : State) : Prop := ∀ k : Fin 4, (t.outp n l k).slot =
        if outWired s n l k then some { kind := .mark, payload := tok.payload } else (s.outp n l k).slot
      (markSub tok.payload = 2 → ∃ t, exec (.markAction n l) s = .next t ∧ still t ∧ copies t
        ∧ (p.inject = none → ∀ k : Fin 4, (t.inp n l k).fifo =
            if markCarrying n p k then p.ins[k].fifo.tail else p.ins[k].fifo))
      ∧ (markSub tok.payload = 0 → ∃ t, exec (.markAction n l) s = .next t ∧ still t ∧ copies t
        ∧ (t.plane n l).stop = .pmkHold ∧ (n, l) ∈ (t.inst (instOf s n l)).pmkArr)
      ∧ (markSub tok.payload = 3 → region = true → ∃ t, exec (.markAction n l) s = .next t ∧ still t ∧ copies t
        ∧ (t.plane n l).stop = .winHold ∧ (n, l) ∈ (t.inst (instOf s n l)).winArr ∧ (t.plane n l).ins = p.ins)
      ∧ (markSub tok.payload = 3 → region = false → ∃ t, exec (.markAction n l) s = .next t ∧ still t ∧ copies t
        ∧ (t.plane n l).shadow.g = p.g ∧ (t.plane n l).shadow.p = p.p)
      ∧ (markSub tok.payload = 4 → bitOf tok.payload.toNat 31 = true → otherBasted s n l = true → ∃ t, exec (.markAction n l) s = .next t ∧ still t ∧ copies t
          ∧ (t.plane n l).active = false ∧ (t.plane n l.other).active = true ∧ (t.plane n l.other).basted = false
          ∧ (t.node n).lastIssue = some s.cycle))
    ∧ (∀ (k : Fin 4) c tok, p.ins[k].markSince = some c → rawHead p k = some tok → p.active = true → p.stop = .run →
      markCarrying n p k = true → kindOf n = .stitch → alignedMark n p = none →
      c + max (s.ctx (ctxOf s n l)).markto 1 * 1024 ≤ s.cycle →
      exec (.markTimeout n l k) s = .next (headFault s n l .markTimeout) ∧ still (headFault s n l .markTimeout))
    ∧ (∀ w, p.psn = some w → kindOf n = .stitch → ∃ t, exec (.poisonForward n l) s = .next t ∧ still t
      ∧ ∀ k : Fin 4, (t.outp n l k).slot =
          (if outWired s n l k && !p.psnDone.contains k.val && outClear s n l k then some { kind := .psn, payload := w }
           else (s.outp n l k).slot))
    ∧ (∀ q i pid due pat, (s.side q l).hold = .loading i pid due → (s.side q l).ldrec = some pat → due ≤ s.cycle →
      (∀ e ∈ (s.side q l).ploads, e.2.2.2 = pat.pid ∧ e.2.1 ≠ l) →
      ∃ t, exec (.planeLoadComplete q l) s = .next t ∧ t.mem = s.mem ∧ (t.side q l).hold = .basted i pat.pid
        ∧ (t.side q l).ploads = [] ∧ (t.side q l).ldrec = none
        ∧ (∀ a, a < 72 → (t.plane (.panel q a) l).basted = true ∧ (t.plane (.panel q a) l).active = false)
        ∧ ∀ e ∈ (s.side q l).ploads, ∀ o ∈ (s.plane e.1 e.2.1).ops, o.id = e.2.2.1 → o.id ≠ 0 →
          ∃ x ∈ (t.plane e.1 e.2.1).ops, x.id = o.id ∧ x.toks = [{ payload := BitVec.ofNat 32 pat.pid }] ∧ x.ready = true)
    ∧ ∀ i, let v := s.inst i
      allArrived v = true → v.fault = false →
      (v.winAt = none → exec (.windowRelease i) s =
        .next (s.updInst i fun v => { v with winAt := some (s.cycle + barrierDelay s v 0) }))
      ∧ (∀ c, v.winAt = some c → c ≤ s.cycle → ∃ t, exec (.windowRelease i) s = .next t ∧ SameRegs s t
        ∧ (t.inst i).twin = v.twin + 1 ∧ (t.inst i).winArr = [] ∧ (t.inst i).winAt = none
        ∧ ∀ e ∈ v.region, (t.plane e.1 e.2).stop ≠ .winHold ∧ ((t.plane e.1 e.2).inst = i → (t.plane e.1 e.2).fires = 0))

/-! ### Placement -/

/-- R183, R342, R344, R345, R348, R349, R351 to R354, R356: the events of placement. A fetched image enters its die's cache; a
search grants the rectangle its cutter finds, whose panels the request then claims one a cycle, the first 9 cycles on, or passes
to the parent after 16 cycles, cycles of the cutter's island (R423); the last claim starts the load, and a claim that meets a request of higher precedence gives up; a
request whose planes are loaded becomes an instance; a bundle's bound pleats a waiting member onto a placed one, and four
times the bound ends the call; a finished cast leaves its area, its lane tokens in its segment, and resumes at once or when
there is room, its segment released once its spill has drained; a token for a cast instance is written as the next entry of its
segment, one held too long traps; a finished instance ends and is counted off its launch. -/
def Obligations.PlacementEvents : Prop :=
  ∀ (s : State),
    (∀ c pat, ∃ t, exec (.patternFetch c pat) s = .next t ∧ t.mem = s.mem
      ∧ (∀ e ∈ t.fetches, ¬(e.2.1 = c ∧ e.2.2.1 = pat ∧ e.2.2.2 ≤ s.cycle))
      ∧ ∀ e, (s.fetches.filter fun f => decide (f.2.1 = c) && decide (f.2.2.1 = pat) && decide (f.2.2.2 ≤ s.cycle)) = [e] →
        ((mget s.pcache e.1 ++ [(c, pat)]).map (lenOf s)).sum ≤ 2 ^ 25 → cached t e.1 c pat = true)
    ∧ (∀ k r0 lvl, mget? s.reqs k = some r0 →
      let r : Req := { r0 with letter := newLetter s r0.ctx }
      let top := topOf s r.ctx
      (r0.st = .waiting ∧ lvl = top ∨ ∃ j, r0.st = .search j ∧ lvl = min j top) →
      reqGoes s r = true → r.at_ ≤ s.cycle → mustWait s k r = false →
      (∀ o, findRect s r.ctx r.pat r.letter r.anchor lvl = some o →
        ∃ t q, exec (.cutterSearch k) s = .next t ∧ t.mem = s.mem ∧ SameRegs s t ∧ mget? t.reqs k = some q
          ∧ q.st = .claiming o lvl 0 (s.cycle + cutTime s 1 o 9) ∧ q.letter = r.letter ∧ q.pat = r.pat ∧ t.panels = s.panels)
      ∧ (findRect s r.ctx r.pat r.letter r.anchor lvl = none → lvl < top →
        ∃ t q, exec (.cutterSearch k) s = .next t ∧ t.mem = s.mem ∧ SameRegs s t ∧ mget? t.reqs k = some q
          ∧ q.st = .search (lvl + 1) ∧ q.at_ = s.cycle + cutTime s (lvl + 1) r.anchor 16 ∧ t.panels = s.panels))
    ∧ (∀ k r o lvl n due p, mget? s.reqs k = some r → r.st = .claiming o lvl n due → due ≤ s.cycle → reqGoes s r = true →
      r.letter = newLetter s r.ctx → (rectPanels o r.pat.fw r.pat.fh)[n]? = some p →
      let ring := ringShared s r.ctx
      let last := n + 1 = (rectPanels o r.pat.fw r.pat.fh).length
      (rivals s ring r.letter p = [] → panelFree s ring r.letter p = true →
        (¬ last → ∃ t, exec (.cutterSearch k) s = .next t ∧ t.mem = s.mem ∧ SameRegs s t ∧ (t.side p r.letter).hold = .claimed k
          ∧ mget? t.reqs k = some { r with st := .claiming o lvl (n + 1) (s.cycle + cutTime s 1 p 1) })
        ∧ (last → slicesOk s r.ctx o r.pat = true → unitsOk s o r.letter r.pat = true →
          ∃ t q at_, exec (.cutterSearch k) s = .next t ∧ t.mem = s.mem ∧ SameRegs s t ∧ (t.side p r.letter).hold = .claimed k
            ∧ mget? t.reqs k = some q ∧ q.st = .loading o at_ ∧ q.pat = r.pat
            ∧ q.letter = r.letter ∧ q.ways = waysFor s r.ctx o r.pat
            ∧ (cached s (dieOf o) r.ctx r.pat.pid = true → s.cycle + placeTime s o r.pat ≤ at_)))
      ∧ ((∃ e ∈ rivals s ring r.letter p, outranks (rankOf s e.1 (mget s.reqs e.1)) (rankOf s k r) = true) →
        ∃ t q, exec (.cutterSearch k) s = .next t ∧ t.mem = s.mem ∧ SameRegs s t ∧ mget? t.reqs k = some q ∧ q.st = .search lvl
          ∧ q.at_ = s.cycle + cutTime s lvl r.anchor 16 ∧ ∀ x m, (t.side x m).hold ≠ .claimed k))
    ∧ (∀ k r o due j v live todo, mget? s.reqs k = some r → r.st = .loading o due → due ≤ s.cycle → zeroed s r o = true →
      banksIdle s (rectPanels o r.pat.fw r.pat.fh) (r.ways.map fun w => (w.1, w.2.1)) = true → tenantsLeft s r o = false →
      reqGoes s r = true → cutRoom s r = true → r.for_ = .launch j → mget? s.runs j = some v → v.kind = .launch live todo →
      ∃ t x, exec (.memberPlaced k) s = .next t ∧ mget? t.reqs k = none ∧ mget? s.insts (freeId s) = none
        ∧ mget? t.insts (freeId s) = some x ∧ x.pat = r.pat ∧ x.origin = o ∧ x.letter = r.letter ∧ x.st = .live ∧ x.run = j
        ∧ x.ctx = r.ctx ∧ x.work = r.work ∧ x.caller = 0 ∧ x.fault = false
        ∧ (∀ p ∈ rectPanels o r.pat.fw r.pat.fh, (t.side p r.letter).hold = .inst (freeId s))
        ∧ mget? t.runs j = some { v with kind := .launch (live + 1) (todo - 1) })
    ∧ (∀ b v k r h, mget? s.bundles b = some v → v.issued + (s.ctx v.ctx).waitb ≤ s.cycle → descheduled s v.ctx = false →
      waitingReqs s b = [k] → mget? s.reqs k = some r → bundleHost s v = some h →
      ∃ t q due, exec (.bundleWaitBound b) s = .next t ∧ t.mem = s.mem ∧ SameRegs s t ∧ mget? t.reqs k = some q
        ∧ q.st = .loading (s.inst h).origin due ∧ q.pleat = true ∧ q.letter = (s.inst h).letter.other)
    ∧ (∀ b v, mget? s.bundles b = some v → v.issued + 4 * (s.ctx v.ctx).waitb ≤ s.cycle → waitingReqs s b ≠ [] →
      descheduled s v.ctx = false →
      ∃ t, exec (.placementTimeout b) s = .next t ∧ t.mem = s.mem ∧ SameRegs s t ∧ mget? t.bundles b = none
        ∧ (∀ e ∈ t.reqs, ∀ m, e.2.for_ ≠ .member b m) ∧ s.insts.length ≤ t.insts.length)
    ∧ (∀ i u due g, i ≠ 0 → (s.inst i).st = .casting due → due ≤ s.cycle → writeCast s i = (u, .ok ()) → (s.inst i).saved = [] →
      (s.inst i).fresh = none → (s.inst i).spillSeg = some g →
      let w := castLeave (cutAnswer u i 0) i
      movesOf (castTry i w) i = [] → exec (.castComplete i) s = .next (castTry i w) ∧ (castPlace w i true = none → castTry i w = w)
        ∧ (w.inst i).st = .cast ∧ (∀ m l, (w.plane m l).inst ≠ i)
        ∧ ∀ h, (h < spillHome (w.inst i) 0 ∨ spillHome (w.inst i) (w.inst i).spill ≤ h) → memRead w.mem h = memRead u.mem h)
    ∧ (∀ i u x, let v := s.inst i
      v.st = .cast → placing s v.ctx = true → (∀ e ∈ s.reqs, partOf s e.2.ctx ≠ partOf s v.ctx) →
      (∀ e ∈ s.insts, e.1 = i ∨ e.2.st ≠ .cast) → castPlace s i true = some x → castClear s i x = true →
      resumeCast s i true = some (u, .ok ()) →
      exec (.castResume i) s = .next u ∧ (u.inst i).spill = 0
        ∧ (spillLeft u i = true ∨ (u.inst i).spillSeg = none ∧ (u.inst i).castUnit = none))
    ∧ (∀ n l (o : Fin 4) tok i k, (s.outp n l o).slot = some tok → targets s n l o = [.spill i k] → spillDead s i = false →
      (s.inst i).spill < 8192 → (s.plane n l).stop = .run → rwScale (s.plane n l).rw[o] = false →
      (s.outp n l o).swap = false → (s.outp n l o).since ≤ s.cycle →
      let h := spillHome (s.inst i) (s.inst i).spill
      ∃ t, exec (.spillWrite n l o) s = .next t ∧ SameRegs s t ∧ (t.outp n l o).slot = none ∧ (t.inst i).spill = (s.inst i).spill + 1
        ∧ memDouble t.mem h = (tok.payload.toNat + hdrOf tok * 2 ^ 32 + k * 2 ^ 40) % 2 ^ 64
        ∧ ∀ b, (b < h ∨ h + 8 ≤ b) → memRead t.mem b = memRead s.mem b)
    ∧ (∀ n l (o : Fin 4) c, (s.outp n l o).heldSince = some c → c + 2 ^ 20 ≤ s.cycle → heldBySpill s n l o = true →
      let u := s.updOut n l o fun q => { q with heldSince := some s.cycle }
      exec (.spillStall n l o) s = .next (headFault u n l .spillStall) ∧ Framed s (headFault u n l .spillStall))
    ∧ ∀ i v r live todo, mget? s.insts i = some v → i ≠ 0 → v.caller = 0 → v.run ≠ 0 → v.st = .live → v.fault = false →
      (∀ b ∈ s.bundles, b.2.caller ≠ i) → instFinished s i = true → mget? s.runs v.run = some r → r.kind = .launch live todo →
      ∃ t q, exec (.instanceEnd i) s = .next t ∧ t.mem = s.mem ∧ mget? t.insts i = none ∧ (∀ m l, (t.plane m l).inst ≠ i)
        ∧ mget? t.runs v.run = some q ∧ q.kind = .launch (live - 1) todo ∧ (q.ended = true ↔ live ≤ 1 ∧ todo = 0)

/-! ### Layered tensors, presses and copies -/

/-- R218, R219, R223 to R225, R289, R290: what serialises, loads, presses and copies do. An LT operation on a record that
can be read delivers its result and leaves the record its rule gives, LTB binds the handle, and an LTP queues a press of the list it found at
its die; a layer unit delivers the word it forms, once layer data that it did not hold has been read; an engine accepts a press among its first 16, completes the one at its
head once its last row is written, or fails it with `PST` 3; a copy starts, completes, adds −1 for a CPYS, and faults once when its promise has passed. -/
def Obligations.LayeredAndCopyEvents : Prop :=
  ∀ (s : State),
    (∀ id a op x y w r, mget? s.accs id = some a → a.act = .lt op x y → canPerform s id a = true →
      recordNow (spend s a.ctx 0 (requestBytes a.act)) a.ctx a.va = (w, .ok r) →
      let seq := field r 127 96
      let next := (seq + 1) % 2 ^ 32
      let pst := field r 382 381
      let wants (v : Nat) : Prop := y = 0xFFFFFFFF ∨ y.toNat = v
      let gives (u : State) (v : Nat) : Prop :=
        ∃ t, exec (.ltSerialisation id) s = .next t ∧ t.mem = u.mem ∧ t.handles = u.handles ∧ SameRegs u t ∧ t.insts = u.insts
          ∧ mget? t.accs id = none
          ∧ ∀ o, u.op? a.node a.letter a.op = some o → o.total ≤ o.done + 1 → o.queued = false →
            t.op? a.node a.letter a.op =
              some { o with done := o.done + 1, ready := true, due := u.cycle, toks := [{ payload := BitVec.ofNat 32 v }] }
      let leaves (v : Nat) (q : State) (r' : Nat) (f : State → State) : Prop := ∀ u, putRecord q a.ctx a.va r' = (u, .ok ()) → gives (f u) v
      (op = 8 → leaves (if x = 0 then seq else if x = 1 then field r 380 377 else if x = 2 then field r 95 64
          else pst + field r 388 383 * 256) w r fun u => u)
      ∧ (op = 4 → shapeOk r = true → wants (field r 95 64) →
        leaves (field r 95 64) w r fun u => u.updInst a.inst fun v =>
          { v with wins := v.wins.set a.win { v.wins.getD a.win {} with handle := some a.va } })
      ∧ (op = 5 → wants seq → (listOf r).length ≠ 8 → x.toNat ≤ 4095 → ∀ q d,
        readNum w a.ctx (field r 312 256 + 64 * x.toNat) 64 = (q, .ok d) → (layerOf r d 0).ok = true →
        leaves next q (setList r next (listOf r ++ [(next, x.toNat)])) fun u => u)
      ∧ (op = 6 → wants seq → (∃ e ∈ listOf r, e.1 = x.toNat) →
        leaves next w (setList r next ((listOf r).filter fun e => decide (e.1 ≠ x.toNat))) fun u => u)
      ∧ (op = 7 → wants seq → pst ≠ 1 →
        let r' := setField (setField r 382 381 1) 388 383 0
        ∀ u q sn, putRecord w a.ctx a.va r' = (u, .ok ()) → readSnap u a.ctx r' = (q, .ok sn) →
        let die := dieOf (panelOf q a.node a.letter)
        let press : Press := { id := q.ids, ctx := a.ctx, run := a.run, handle := a.va, snap := sn, nbase := field r' 376 320
                               swing := bitOf x.toNat 0, seq := seq, op := some (a.node, a.letter, a.op) }
        ∃ t, exec (.ltSerialisation id) s = .next t ∧ t.mem = q.mem ∧ SameRegs q t ∧ mget? t.accs id = none
          ∧ mget t.presses die = mget q.presses die ++ [press]))
    ∧ (∀ id a sn u v, mget? s.accs id = some a → a.layered = some sn → a.act = .load → canPerform s id a = true →
      layeredWord s (unitOf (panelOf s a.node a.letter)) a.ctx sn a.fmt (a.va - (winOf s a.inst a.win).base) = (u, .ok v) →
      let tok : Token := { fmt := a.fmt, s := a.lset, payload := v }
      let fetches := a.swept = 0 ∧ unitFetched s u (unitOf (panelOf s a.node a.letter)) = true
      (fetches → exec (.layerUnitLoad id) s =
        .next { s with accs := mset s.accs id { a with swept := 1, due := s.cycle + slow s a.node 320 } })
      ∧ (¬ fetches → ∃ t, exec (.layerUnitLoad id) s = .next t ∧ (∀ b, b < homeLayer 0 0 → memRead t.mem b = memRead s.mem b) ∧ SameRegs s t ∧ mget? t.accs id = none
        ∧ ∀ o, s.op? a.node a.letter a.op = some o → o.total ≤ o.done + 1 → o.queued = false →
          t.op? a.node a.letter a.op = some { o with done := o.done + 1, ready := true, due := s.cycle, toks := [tok] }))
    ∧ (∀ die pre p post n l k, mget s.presses die = pre ++ p :: post → (∀ q ∈ pre, q.op = none) → pre.length < 16 →
      p.op = some (n, l, k) →
      ∃ t, exec (.pressAccept die) s = .next t ∧ t.mem = s.mem ∧ SameRegs s t
        ∧ mget t.presses die = pre ++ { p with op := none } :: post
        ∧ ∀ o, s.op? n l k = some o → o.total ≤ o.done + 1 →
          t.op? n l k = some { o with done := o.done + 1, ready := true, due := s.cycle, toks := [{ payload := BitVec.ofNat 32 p.seq }] })
    ∧ (∀ die p rest, mget s.presses die = p :: rest → p.op = none →
      let ends (i : Instr) (f : Nat → Nat) : Prop := ∃ t, exec i s = .next t ∧ SameRegs s t ∧ mget t.presses die = rest
        ∧ t.mem = (updRecord s p.ctx p.handle f).mem
      (p.fault = none → p.snap.rows < p.row → ends (.pressComplete die) (pressedRecord p))
      ∧ ∀ c, p.fault = some c → ends (.pressFail die) fun r => setField (setField r 382 381 3) 388 383 c.code)
    ∧ (∀ n l j rest, copyLetter s n = some l → (s.plane n l).copies = j :: rest → copyStarts s n l j = true →
      ∃ t, exec (.copyStart n) s = .next t ∧ t.mem = s.mem ∧ SameRegs s t
        ∧ (t.plane n l).copies = { j with started := true } :: rest)
    ∧ (∀ n l j rest, copyLetter s n = some l → (s.plane n l).copies = j :: rest → j.started = true → copyBytes j ≤ j.pos →
      (∀ id, (s.plane n l).stop = .stall id → orphan s n l j = true) →
      promiseDue s n l j = false →
      (j.signal = false → ∃ t, exec (.copyComplete n) s = .next t ∧ t.mem = s.mem ∧ SameRegs s t ∧ (t.plane n l).copies = rest)
      ∧ (j.signal = true → eventFree s j.ctx = true → ∀ u, copySignal s j = (u, none) →
        ∃ t, exec (.copyComplete n) s = .next t ∧ t.mem = u.mem ∧ SameRegs s t ∧ (t.plane n l).copies = rest))
    ∧ (∀ j : CopyJob, translated s j.gwin = true → descheduled s j.ctx = false →
      copySignal s j = signalOp s j.ctx (j.gwin.base + j.goff) .atomic (· - 1))
    ∧ ∀ n l pre j post, (l = .a ∨ ∀ k ∈ (s.plane n .a).copies, k.missed = true ∨ s.cycle < k.promise) →
      (s.plane n l).copies = pre ++ j :: post → (∀ k ∈ pre, k.missed = true ∨ s.cycle < k.promise) →
      j.missed = false → j.promise ≤ s.cycle → instOf s n l = j.inst →
      let u := s.updPlane n l fun p => { p with copies := pre ++ { j with missed := true } :: post }
      ∃ t, exec (.promiseMissed n) s = .next t ∧ t = takeTrap u (copyTrap s n l j .promiseMissed 0 0)
        ∧ Framed s t ∧ (t.plane n l).copies = pre ++ { j with missed := true } :: post ∧ (t.inst (instOf s n l)).fault = true

/-! ### The queue unit -/

/-- The queue unit dispatches packet `v` of host queue `q`: it is the queue's turn, its slot reads, nothing skips or faults the
packet; `t` and `id` are the state and the number of its run (R315, R316, R326). -/
def Sys2Proof.Said.Dispatches (s : State) (q v : Nat) (t : State) (id : Nat) : Prop :=
  s.dispAt ≤ s.cycle ∧ servedNext s = some (2 * q) ∧ skipped (mget s.queues q) v = false
    ∧ (∃ w, nextPacket s (mget s.queues q) = (w, .ok v) ∧ startQueue w q v = (t, id))
    ∧ packetFault t true (mget s.queues q).ctx v = none

/-- What dispatch leaves in `u`: the queue has moved on by one packet and had the turn of its class, the unit is taken for 4
cycles of its island (R316, R326, R423). -/
def Sys2Proof.Said.Moved (s : State) (q : Nat) (u : State) : Prop :=
  u.dispAt = s.cycle + slowAt s 20 4 ∧ u.rr = mset s.rr (topClass (nextPacket s (mget s.queues q)).1) (2 * q) ∧ (mget u.queues q).disp = (mget s.queues q).disp + 1 ∧ SameRegs s u

/-- The work of a packet that has `CSIG` value `csig` is over: without one it is complete, else its run waits for its add
(R316, R318). -/
def Sys2Proof.Said.WorkOver (u : State) (id csig : Nat) : Prop :=
  (csig = 0 → mget? u.runs id = none) ∧ (csig ≠ 0 → ∃ r, mget? u.runs id = some r ∧ r.ended = true ∧ r.cause = none ∧ r.csig = csig)

/-- What one read of an evaluation does to its barrier, run `k`, whose signals are `all` (R320, R321): `z` is the value read, `more`
the signals still to read, `pos` says that one above zero has been read in this evaluation, and `again` that another evaluation has
been asked for. A value below zero aborts at once; every other goes on to the next read; the last one meets the condition unless one
was above zero, and then the evaluation is over, or begins anew. -/
def Sys2Proof.Said.ReadOne (u : State) (k csig : Nat) (all : List Nat) (pos again : Bool) (more : List Nat) (z : Int) : Prop :=
  (z = 0 → pos = false → more = [] → Said.WorkOver u k csig)
    ∧ (0 ≤ z → more ≠ [] → ∃ r, mget? u.runs k = some r ∧ r.ended = false ∧ r.reads = more ∧ r.pos = (pos || decide (z ≠ 0)) ∧ r.again = again)
    ∧ (0 ≤ z → (pos = true ∨ z ≠ 0) → more = [] →
      ∃ r, mget? u.runs k = some r ∧ r.ended = false ∧ r.reads = (if again then all else []) ∧ r.pos = false ∧ r.again = false)
    ∧ (z < 0 → ∃ r, mget? u.runs k = some r ∧ r.ended = true ∧ r.cause = some .signalNegative)

/-- R316 to R325, R336, R427: packets. A NOP is over at once; a LAUNCH requests its instances; a BARRIER's first signal is read; a
COPY joins a copy engine; a SIGNAL adds; a PATTERN enters its image; a spawned packet launches; a skipped packet counts as
complete; a barrier is evaluated every 65,536 cycles and faults at its deadline; a copied packet ends; an ended packet's
completion is written and its run is gone. -/
def Obligations.QueueEvents : Prop :=
  ∀ (s : State),
    (∀ q v t id, Said.Dispatches s q v t id →
      let old := mget s.queues q
      let c := old.ctx
      (pkType v = 0 → ∃ u, exec (.nopPacket q) s = .next u ∧ Said.Moved s q u ∧ Said.WorkOver u id (pkCsig v)
        ∧ (pkCsig v = 0 → old.prog = old.disp → old.comp = [] → (mget u.queues q).prog = old.prog + 1))
      ∧ (pkType v = 1 → ∀ p r, mget? (s.ctx c).pats (field v 139 128) = some p → partRect (s.part (partOf s c)) = some r →
        let n := instCount (pkWork v) p.level
        let req (j : Nat) : Req :=
          { ctx := c, pat := p, for_ := .launch id, anchor := rectPanel r, age := s.cycle, st := .search (topLevel r),
            work := { pkWork v with fixed := fixedOf (pkWork v) p.level j }, at_ := s.cycle + cutTime s (topLevel r) (rectPanel r) 16, letter := newLetter s c }
        ∃ u x, exec (.launch q) s = .next u ∧ Said.Moved s q u ∧ mget? u.runs id = some x ∧ x.kind = .launch 0 n ∧ x.src = .queue q old.disp
          ∧ x.ended = false ∧ u.reqs = s.reqs ++ (List.range n).map fun j => (id + 1 + j, req j))
      ∧ (pkType v = 2 →
        let sigs := (pkSigs v).filter fun a => decide (a ≠ 0)
        let dl := if field v 415 384 = 0 then none else some (s.cycle + field v 415 384 * 1024)
        ∀ a more x z, sigs = a :: more →
        readSignal { t with runs := mupd t.runs id fun r => { r with kind := .barrier sigs dl, reads := sigs, pos := false, again := false } } c a = (x, .ok z) →
        ∃ u, exec (.barrier q) s = .next u ∧ Said.Moved s q u ∧ Said.ReadOne u id (pkCsig v) sigs false false more z
          ∧ (z < 0 → old.state ≠ 3 → (mget u.queues q).state = 2)
          ∧ (0 < z ∨ z = 0 ∧ more ≠ [] → ∃ r, mget? u.runs id = some r ∧ r.kind = .barrier sigs dl))
      ∧ (pkType v = 3 → ∃ u x j, exec (.copy q) s = .next u ∧ Said.Moved s q u ∧ mget? u.runs id = some x
        ∧ x.kind = .copy (s.copyNext % 4) ∧ mget u.qcopies (s.copyNext % 4) = mget s.qcopies (s.copyNext % 4) ++ [(id, j)]
        ∧ j.swin.base = field v 184 128 ∧ j.dwin.base = field v 248 192 ∧ j.clen = field v 287 256 ∧ j.rows = field v 303 288 + 1
        ∧ j.sstr = field v 351 320 ∧ j.dstr = field v 383 352 ∧ j.pos = 0)
      ∧ (pkType v = 4 → ∀ x, signalOp t c (field v 184 128) .atomic (· + signedOf 64 (field v 255 192)) = (x, none) →
        ∃ u, exec (.signal q) s = .next u ∧ Said.Moved s q u ∧ Said.WorkOver u id (pkCsig v) ∧ (pkCsig v ≠ 0 → u.mem = x.mem))
      ∧ (pkType v = 5 → ∀ x bs p, readImageBytes t c (field v 184 128) = (x, .ok bs) →
        validateImage (wordsOf bs) (field v 203 192) = .ok p →
        ∃ u, exec (.pattern q) s = .next u ∧ Said.Moved s q u ∧ Said.WorkOver u id (pkCsig v)
          ∧ mget? (u.ctx c).pats (field v 203 192) = some { p with ver := (s.ctx c).patVer + 1 }
          ∧ ∀ die, cached u die c (field v 203 192) = false))
    ∧ (∀ c p rest t id k, s.dispAt ≤ s.cycle → servedNext s = some (2 * c + 1) → (s.ctx c).spawns = p :: rest →
      let v := leNat p.bytes
      startSpawn s c v = (t, id) → packetFault t false c v = none → mget? (s.ctx c).pats (field v 139 128) = some k →
      ∃ u x, exec (.spawned c) s = .next u ∧ u.dispAt = s.cycle + slowAt s 20 4 ∧ u.rr = mset s.rr (topClass s) (2 * c + 1) ∧ (u.ctx c).spawns = rest ∧ SameRegs s u
        ∧ mget? u.runs id = some x ∧ x.src = .spawn c ∧ x.kind = .launch 0 (instCount (pkWork v) k.level)
        ∧ u.reqs.length = s.reqs.length + instCount (pkWork v) k.level ∧ u.mem = s.mem)
    ∧ (∀ q w v, let x := mget s.queues q
      s.dispAt ≤ s.cycle → servedNext s = some (2 * q) → writesPending s (.queue q 0) = false →
      nextPacket s x = (w, .ok v) → skipped x v = true →
      let t := takeTurn w (2 * q)
      ∃ u, exec (.packetSkip q) s = .next u ∧ Said.Moved s q u
        ∧ u = inheritAll (updQueue (if pkCsig v = 0 then t else minusOne t x.ctx (pkCsig v)) q fun y =>
            qComplete x.disp { y with disp := x.disp + 1 }))
    ∧ (s.barEval + 65536 ≤ s.cycle → ∃ u, exec .barrierPeriodicEvaluation s = .next u ∧ u.barEval = s.cycle ∧ SameRegs s u
      ∧ ∀ k r a more x z, (s.runs.map (·.1)).Nodup → mget? s.runs k = some r → r.awaits = a :: more → r.reads = [] →
        r.cause = none → r.overdue s.cycle = false → (∀ e ∈ s.runs, e.2.awaits ≠ [] ∨ e.2.reads ≠ [] ∨ e.2.pos = true ∨ e.2.again = true → e.1 = k) →
        readSignal { s with barEval := s.cycle, runs := mupd s.runs k fun r => { r with reads := a :: more, pos := false, again := false } } r.ctx a =
          (x, .ok z) →
        Said.ReadOne u k r.csig r.awaits false false more z)
    ∧ (s.cycle < s.barEval + 65536 → ∃ u, exec .barrierPeriodicEvaluation s = .next u ∧ u.barEval = s.barEval ∧ SameRegs s u
      ∧ ∀ k r a more x z, (s.runs.map (·.1)).Nodup → mget? s.runs k = some r → r.awaits ≠ [] → r.reads = a :: more →
        r.cause = none → r.overdue s.cycle = false → (∀ e ∈ s.runs, e.2.reads ≠ [] → e.1 = k) → readSignal s r.ctx a = (x, .ok z) →
        Said.ReadOne u k r.csig r.awaits r.pos r.again more z)
    ∧ (∀ run r sigs d, mget? s.runs run = some r → r.kind = .barrier sigs (some d) → d ≤ s.cycle → r.ended = false →
      ∃ u x, exec (.barrierTimeout run) s = .next u ∧ SameRegs s u ∧ mget? u.runs run = some x ∧ x.ended = true
        ∧ x.cause = some .barrierTimeout ∧ ∀ q i, r.src = .queue q i → (mget s.queues q).state ≠ 3 → (mget u.queues q).state = 2)
    ∧ (∀ run r k j rest, mget? s.runs run = some r → r.kind = .copy k → r.cause = none → mget s.qcopies k = (run, j) :: rest →
      copyBytes j ≤ j.pos →
      ∃ u, exec (.copyPacketComplete run) s = .next u ∧ SameRegs s u ∧ mget u.qcopies k = rest ∧ Said.WorkOver u run r.csig)
    ∧ ∀ run r, mget? s.runs run = some r → r.ended = true → endedBefore s r = false → workLeft s run = false →
      r.terminated = false → (r.csig = 0 ∨ eventFree s r.ctx = true) →
      ∃ u, exec (.completionAdd run) s = .next u ∧ SameRegs s u ∧ mget? u.runs run = none ∧ u = packetDone (csigWrite s r) run
        ∧ (r.csig = 0 → ∀ q i, r.src = .queue q i → (mget s.queues q).prog = i → (mget s.queues q).comp = [] →
          (mget s.queues q).res = true → (mget u.queues q).prog = i + 1)
        ∧ (r.csig = 0 → ∀ c, r.src = .spawn c → (u.ctx c).spused = (s.ctx c).spused - 1)
        ∧ (r.csig ≠ 0 → descheduled s r.ctx = true →
          (u.vf (s.ctx r.ctx).vf).withheld = (s.vf (s.ctx r.ctx).vf).withheld
            ++ [if r.cause = none then .add r.ctx r.csig (-1) r.spawned else .minus1 r.ctx r.csig r.spawned])

/-! ### Traps, replays, pre-emption and the debugger -/

/-- A replay's trap `id` is entered again in `t` with `TPHASE` 1, at its node, whose heads have passed their checks and which holds
(R373, R374); its core's queue takes it, or it waits for an entry there (R364). -/
def Sys2Proof.Said.Reentered (s t : State) (i id : Nat) (div : Bool) : Prop :=
  let r := s.trap id
  t.mem = s.mem ∧ SameRegs s t ∧ (t.plane r.node r.letter).stop = .held ∧ (t.plane r.node r.letter).replay = none
    ∧ (t.inst i).fault = true ∧ (t.inst i).trap = id ∧ (t.inst i).replay = none ∧ (t.trap id).phase = true ∧ (t.trap id).div = div
    ∧ (t.trap id).cause = r.cause
    ∧ (descheduled s r.ctx = false → let c := coreOf (panelOf s r.node r.letter)
        if (s.core c).queue.length < 16 ∧ (s.core c).late = [] then id ∈ (t.core c).queue else id ∈ (t.core c).late)

/-- R43, R282, R363, R364, R370, R373, R374, R376 to R382: an idle core enters its first trap that can be served, at position
0 with its registers as every entry sets them; a replay holds or diverges; the watchdog traps; a quiescent instance is noted;
a pre-emption cuts, saves and restores; a held plane steps; a debugger freezes, steps and resumes; parity reloads a plane. -/
def Obligations.TrapAndDebugEvents : Prop :=
  ∀ (s : State),
    (∀ c id, c < 1024 → (s.core c).serving = none → (s.core c).queue.find? (deliverable s) = some id →
      (s.core c).late = [] → (mget? s.insts (s.trap id).inst).isSome = true →
      let r := s.trap id
      ((s.ctx r.ctx).hndlen ≠ 0 → bindTime r = false → ∃ t, exec (.trapDelivery c) s = .next t ∧ t.mem = s.mem ∧ SameRegs s t
        ∧ t.core c = { queue := (s.core c).queue.erase id, serving := some id, tselNode := r.node, tselLetter := r.letter, entry := t.nodes }
        ∧ ((t.trap id).prec = true ↔ (s.inst r.inst).impr = false ∧ ∀ e ∈ (s.inst r.inst).region, (s.plane e.1 e.2).mp.logOver = false)
        ∧ ∀ n l, (s.plane n l).inst = r.inst → (s.plane n l).stop = .held → (t.plane n l).budget = none)
      ∧ (∀ run, (s.ctx r.ctx).hndlen = 0 ∨ bindTime r = true → (s.inst r.inst).run ≠ 0 → mget? s.runs (s.inst r.inst).run = some run →
        ∃ t q, exec (.trapDelivery c) s = .next t ∧ (t.core c).serving = none ∧ (∀ j ∈ (t.core c).queue, j ∈ (s.core c).queue.erase id)
          ∧ mget? t.runs (s.inst r.inst).run = some q ∧ q.ended = true ∧ q.cause = some r.cause))
    ∧ (∀ i id, (s.inst i).replay = some id →
      let p := s.plane (s.trap id).node (s.trap id).letter
      (∀ k : Fin 4, p.ins[k].settled = true ∨ p.ins[k].fifo = []) →
      (p.replay = some 0 → p.stop = .held → ∃ t, exec (.replayHold i) s = .next t ∧ Said.Reentered s t i id false)
      ∧ (p.replay ≠ none → p.replaySince + 2 ^ 20 ≤ s.cycle →
        ∃ t, exec (.replayDivergence i) s = .next t ∧ Said.Reentered s t i id (decide (p.replay ≠ some 0))))
    ∧ (∀ i v, mget? s.insts i = some v → (s.ctx v.ctx).wdog ≠ 0 → onFabric v = true →
      v.progress + (s.ctx v.ctx).wdog * 65536 ≤ s.cycle → wdogHeld s i = false →
      let holds (e : NodeId × Letter) : Prop := e ∈ activePlanes s i ∧ ∃ k : Fin 4, (s.plane e.1 e.2).ins[k].fifo ≠ []
      ∀ e : NodeId × Letter, ((holds e ∧ ∀ f, holds f → f ≠ e → nodeRank s e < nodeRank s f)
          ∨ ((∀ f, ¬holds f) ∧ e = (.panel v.origin 0, v.letter))) →
        ∃ t, exec (.watchdog i) s = .next t ∧ t = headFault (s.updInst i fun v => { v with progress := s.cycle }) e.1 e.2 .watchdog
          ∧ Framed s t ∧ (t.inst (instOf s e.1 e.2)).fault = true)
    ∧ (∀ i, (mget? s.insts i).isSome = true → hasStall s i = true →
      (256 ≤ (s.inst i).quiet → exec (.quiescence i) s = .next (s.updInst i fun v => { v with idle := 1 }))
      ∧ ((s.inst i).quiet < 256 → exec (.quiescence i) s = .next s)
      ∧ ((∀ j ∈ familyOf s i 64, ∀ e ∈ planesOf s j, atRest s e.1 e.2 = true) →
          ((tick s).inst i).quiet = (s.inst i).quiet + 1 ∧ ((tick s).inst i).idle = (s.inst i).idle)
      ∧ ((∃ j ∈ familyOf s i 64, ∃ e ∈ planesOf s j, atRest s e.1 e.2 = false) →
          ((tick s).inst i).quiet = 0 ∧ ((tick s).inst i).idle = 0))
    ∧ (∀ c, canPreempt s c = true → liveOf s c ≠ [] →
      ((liveOf s c).map fun i => cswNeed (s.inst i)).sum ≤ (s.ctx c).cswunits →
      ∃ t, exec (.pmkInjection c) s = .next t ∧ t.mem = s.mem ∧ SameRegs s t ∧ (t.ctx c).preempt = true
        ∧ (t.ctx c).pmk = (s.ctx c).pmk + 1
        ∧ ∀ i ∈ liveOf s c, (t.inst i).st = .cutting ∧ (t.inst i).cut = .preempt
          ∧ (savedDirect (s.inst i) = false → ∀ n l, (s.plane n l).inst = i → injects n (s.plane n l) = true →
            (t.plane n l).inject = some (pmkMark ((s.ctx c).pmk + 1))))
    ∧ (∀ i u, let v := s.inst i
      i ≠ 0 → v.st = .cutting → v.cut = .preempt → v.fault = false →
      (∀ e ∈ s.insts, e.2.ctx = v.ctx → e.2.st = .cutting → e.2.cut = .preempt ∧ cutDone s e.1 = true) →
      releaseWaits (cutRelease s i) i = false → writeSwitch (cutRelease s i) i = (u, .ok ()) →
      ∃ t, exec (.switchOutSave i) s = .next t ∧ t.mem = u.mem ∧ (t.inst i).st = .saved ∧ (t.inst i).cut = .none
        ∧ ∀ n l, (t.plane n l).inst ≠ i)
    ∧ (∀ i u w, let v := s.inst i
      v.st = .saved → (s.ctx v.ctx).preempt = true → gussetBack s v = true → descheduled s v.ctx = false → backIdle s v = true → v.fault = false →
      treeRead s i = (u, .ok ()) →
      readUnits true u v.ctx (cswVa s i + unitSize) { old := v.origin, new := v.origin } i v.letter
        (rectPanels v.origin v.pat.fw v.pat.fh) = (w, .ok ()) →
      ∃ t, exec (.switchIn i) s = .next t ∧ t.mem = w.mem ∧ (t.inst i).st = .live ∧ (t.inst i).cswUnit = none
        ∧ ((s.insts.map (·.1)).Nodup → (∀ e ∈ s.insts, e.1 = i ∨ e.2.ctx ≠ v.ctx ∨ e.2.st ≠ .saved) → (t.ctx v.ctx).preempt = false))
    ∧ (∀ c n id, let k := s.core c
      k.serving = some id → 1 ≤ n → n ≤ 65535 →
      exec (.tstep c n) s = .next (s.updPlane k.tselNode k.tselLetter fun p => if p.stop = .held then { p with budget := some n } else p))
    ∧ (∀ c, let e := dbgPlane (s.ctx c)
      let i := instOf s e.1 e.2
      (dbgOn s c 1 = true → ∃ t, exec (.dbgcmdFreeze c) s = .next t ∧ Framed s t ∧ (t.ctx c).dbgcmd = 0 ∧ (t.inst i).frozen = true
        ∧ ∀ n l, (s.plane n l).inst = i → (t.plane n l).frozen = true)
      ∧ (dbgOn s c 3 = true → ∃ t, exec (.dbgcmdResume c) s = .next t ∧ Framed s t ∧ (t.ctx c).dbgcmd = 0 ∧ (t.inst i).frozen = false
        ∧ (t.plane e.1 e.2).halted = false ∧ ∀ n l, (s.plane n l).inst = i → (t.plane n l).frozen = false ∧ (t.plane n l).budget = none)
      ∧ (dbgOn s c 2 = true → ((s.plane e.1 e.2).budget = none ∨ (s.ctx c).dbgop = none) →
        (candOf (s.updPlane e.1 e.2 fun p => { p with budget := some 1 }) e.1 e.2 ≠ none →
          ∃ t, exec (.dbgcmdStep c) s = .next t ∧ Framed s t ∧ (t.plane e.1 e.2).budget = some 1 ∧ (t.ctx c).dbgop = some s.ids
            ∧ (t.ctx c).dbgcmd = 2)
        ∧ (candOf (s.updPlane e.1 e.2 fun p => { p with budget := some 1 }) e.1 e.2 = none → (s.ctx c).dbgrec = none →
          bitOf (s.ctx c).dbgen 1 = false →
          ∃ t, exec (.dbgcmdStep c) s = .next t ∧ Framed s t ∧ (t.ctx c).dbgcmd = 0 ∧ (t.ctx c).dbgst = 15))
      ∧ (∀ k, (s.ctx c).dbgop = some k → (s.ctx c).dbgcmd = 2 → (s.plane e.1 e.2).budget = some 0 →
        let p := s.plane e.1 e.2
        (p.ops.find? (fun o => decide (k ≤ o.id) && o.slot == p.lastFire) = none → (s.ctx c).dbgrec = none → (s.ctx c).dbglate = none →
          ∃ t, exec (.stepReport c) s = .next t ∧ Framed s t ∧ (t.ctx c).dbgcmd = 0
            ∧ (t.ctx c).dbgst = p.lastFire + (if (s.ctx c).dbgdone then 16 else 0)
            ∧ (t.plane e.1 e.2).budget = none ∧ (bitOf (s.ctx c).dbgen 1 = true → (t.inst p.inst).fault = true))
        ∧ (∀ slot x, (s.ctx c).dbgrec = some (slot, x) → bitOf (s.ctx c).dbgen 1 = false →
          ∃ t, exec (.stepReport c) s = .next t ∧ Framed s t ∧ (t.ctx c).dbgcmd = 0
            ∧ (t.ctx c).dbgst = p.lastFire + 48 + x.code * 64)))
    ∧ ∀ n l, let p := s.plane n l
      let c := ctxOf s n l
      p.inst ≠ 0 →
      (∀ q, mget? (s.ctx c).pats p.pid = some q → q.ver = p.patVer → p.parity = none →
        exec (.planeParity n l) s = .next (s.updPlane n l fun p => { p with parity := some (s.cycle + slow s n (reloadTime s n l q)) }))
      ∧ (∀ q due, mget? (s.ctx c).pats p.pid = some q → q.ver = p.patVer → p.parity = some due → due ≤ s.cycle →
        let w := s.updPlane n l (reloadPlane (imageWords s n l q) (seamOut s n l))
        let d := w.updDev fun d => { d with parcnt := min (d.parcnt + 1) (2 ^ 64 - 1) }
        ∃ t, exec (.planeParity n l) s = .next t ∧ t = headFault d n l .planeParity ∧ t.mem = s.mem ∧ SameRegs s t
          ∧ t.dev = { s.dev with parcnt := min (s.dev.parcnt + 1) (2 ^ 64 - 1) } ∧ (t.plane n l).parity = none
          ∧ (let k := s.core (coreOf (panelOf s n l))
            k.queue.length < 16 → k.late = [] → descheduled s c = false → (t.plane n l).stop = p.stop) ∧ (t.inst p.inst).fault = true)
      ∧ (mget? (s.ctx c).pats p.pid = none → ∃ t, exec (.planeParity n l) s = .next t ∧ Framed s t ∧ (t.inst p.inst).fault = true
        ∧ ∃ id, (t.plane n l).stop = .fault id)

/-! ### Tenancy and ports -/

/-- A host command comes over a connection that carries Flosy and is taken in its turn (R402, R403, R417). -/
def Sys2Proof.Said.Taken (s : State) (h : Flosy) (k : CmdKind) : Prop :=
  carriesFlosy s h = true ∧ connBusy s h = false ∧ commandOk s h k = true

/-- `t` holds one more reply than `s` (R415). -/
def Sys2Proof.Said.Answered (s t : State) (h : Flosy) (op stat : Nat) (data : List Byte) : Prop :=
  t.replies = s.replies ++ [{ conn := h.conn, link := h.link, tag := h.tag, op := op, stat := stat, data := data }]

/-- R272, R387 to R413: a slice ends, an ESL goes to the outgoing VF's sources once earlier letters are saved, panels and letters
change tenant, partitions and limiters are written and banks split, ports change mode, links fail, come up, retry and give up,
connections are set up, and another device's access performs once, one behind a memory link that is down answers a load with a fault and a store not at all. -/
def Obligations.TenancyAndPorts : Prop :=
  ∀ (s : State),
    (∀ pt, ringMany (s.part pt) = true → sliceOver s (s.part pt) = true →
      exec (.sliceEnd pt) s = .next { s with parts := mset s.parts pt { s.part pt with ended := true } })
    ∧ (∀ pt k, let v := s.part pt
      let out := runningVf v
      nextPlace s v = some k → v.ended = true → ringMany v = true → vfBasted s ((ringOf v).getD k 255) = true →
      othersSaved s v ((ringOf v).getD k 255) = true → eslEmerged s pt = true →
      (∀ i ∈ instsOf s out, (s.inst i).st ≠ .cutting ∧ (∀ due, (s.inst i).st ≠ .casting due) ∧ ∀ due o e m, (s.inst i).st ≠ .moving due o e m) →
      ∃ t, exec (.eslInjection pt) s = .next t ∧ SameRegs s t ∧ t.part pt = { v with rcur := k, swaps := v.swaps + 1, sliceFrom := s.cycle, ended := false }
        ∧ ∀ i ∈ instsOf s out, (s.inst i).st = .live → savedDirect (s.inst i) = false → ∀ n l, (s.plane n l).inst = i →
          injects n (s.plane n l) = true → (t.plane n l).inject = some (eslMark v.swaps))
    ∧ (∀ p pt u w, partAt s p = some pt →
      let l := runLetter (s.part pt)
      let t := swapDead s pt p l.other
      (t.panel p).swapping = true → panelIdle t p l.other = true →
      ((t.panel p).exch = none → exchMoves t p l = true →
        let due := t.cycle + slow t (.panel p 64) 2304
        t.cycle < due → exec (.panelExchange p) s = .next (t.updPanel p fun q => { q with exch := some due }))
      ∧ ((∀ due, (t.panel p).exch = some due → due ≤ t.cycle) → ((t.panel p).exch = none → exchMoves t p l = false) →
        exchOut t p l.other = some u → exchIn u p l = some w →
        exec (.panelExchange p) s = .next (w.updPanel p fun q => { q with swapping := false, exch := none })))
    ∧ (∀ p pt k, partAt s p = some pt → nextPlace s (s.part pt) = some k →
      3 ≤ ((ringOf (s.part pt)).filter fun x => x != 255).length →
      let l := (runLetter (s.part pt)).other
      let vf := (ringOf (s.part pt)).getD k 255
      (∀ i t0 t1 t2, i ≠ 0 → holderOf s p l = some i → ofVf s vf (s.inst i).ctx = false → (s.inst i).st = .live → letterDone s i = true →
        needUnits s i = some t0 → writePieces t0 (s.inst i).ctx (cswVa t0 i) (trailerPieces t0 i) = (t1, .ok ()) →
        writeUnits false t1 (s.inst i).ctx (cswVa t1 i + unitSize) (s.inst i).letter
          (rectPanels (s.inst i).origin (s.inst i).pat.fw (s.inst i).pat.fh) = (t2, .ok ()) →
        ∃ t, exec (.outgoingLetterSave p) s = .next t ∧ t.mem = t2.mem ∧ (t.inst i).st = .saved ∧ ∀ n m, (t.plane n m).inst ≠ i)
      ∧ (∀ i u w, holderOf s p l = none →
        (instsOf s vf).find? (fun i => (s.inst i).st == .saved && !(s.ctx (s.inst i).ctx).preempt
          && (rectPanels (s.inst i).origin (s.inst i).pat.fw (s.inst i).pat.fh).contains p && letterFree s i l) = some i →
        treeRead s i = (u, .ok ()) →
        let m : Move := { old := (s.inst i).origin, new := (s.inst i).origin, lm := decide (l ≠ (s.inst i).letter) }
        readUnits false u (s.inst i).ctx (cswVa u i + unitSize) m i (s.inst i).letter
          (rectPanels (s.inst i).origin (s.inst i).pat.fw (s.inst i).pat.fh) = (w, .ok ()) →
        ∃ t, exec (.outgoingLetterSave p) s = .next t ∧ t.mem = w.mem ∧ (t.inst i).st = .live ∧ (t.inst i).letter = l))
    ∧ (∀ h pt (v : BitVec 64), Said.Taken s h .other → pt < 64 →
      let x := prectMask v.toNat
      let old := s.part pt
      let ok : Prop := prectFits x = true ∧ changeFree s old.prect x = true ∧ old.rewrite = none
        ∧ ∀ q < 64, q ≠ pt → prectMeet x (prectNext (s.part q)) = false ∧ prectMeet x (s.part q).prect = false
      (ok → x ≠ old.prect → ∃ t, exec (.prectWrite h pt v) s = .next t ∧ Framed { s with parts := t.parts, dev := t.dev, replies := t.replies } t
        ∧ Said.Answered s t h 2 0 [] ∧ t.parts = mset s.parts pt { old with rewrite := some (x, s.cycle + 256) })
      ∧ (¬ok → ∃ t, exec (.prectWrite h pt v) s = .next t ∧ Said.Answered s t h 2 1 [] ∧ t.parts = s.parts))
    ∧ (∀ pt w due, (s.part pt).rewrite = some (w, due) → due ≤ s.cycle → changeFree s (s.part pt).prect w = true →
      let u := { s with parts := mset s.parts pt { s.part pt with prect := w, rewrite := none } }
      ∃ t, exec (.selvageRewrite pt) s = .next t ∧ t = { u with banks := t.banks } ∧ ∀ lvl sw, 1 ≤ lvl → lvl ≤ 7 → sw < 4 ^ (7 - lvl) →
        (mget t.banks (lvl, sw)).split = ((mget s.banks (lvl, sw)).split
          || (mustSplit u lvl sw && (mget s.banks (lvl, sw)).ways.toList.all fun w => w.claim.isNone)))
    ∧ (∀ h vf (k : Fin 3) (v : BitVec 64), Said.Taken s h .other → vf < 192 →
      let rate := v.toNat % 2 ^ 32
      let burst := field v.toNat 63 32
      (burst ≠ 0 → ∃ t, exec (.vflimWrite h vf k v) s = .next t ∧ Said.Answered s t h 2 0 []
        ∧ (t.vf vf).lims[k] = { rate := rate, burst := burst, level := burst } ∧ t.mem = s.mem ∧ SameRegs s t)
      ∧ (burst = 0 → ∃ t, exec (.vflimWrite h vf k v) s = .next t ∧ Said.Answered s t h 2 1 [] ∧ t.vfs = s.vfs))
    ∧ (∀ h q (v : BitVec 64), Said.Taken s h .other → q < 16 →
      let w := v.toNat % 2 ^ 8
      let old := (s.port q).pcfg
      let ok : Prop := w % 8 < 5 ∧ genOk w = true ∧ (bitOf old 3 = true → w % 8 = old % 8 ∧ bitOf w 6 = bitOf old 6)
      (ok → ∃ t, exec (.pcfgWrite h q v) s = .next t ∧ t.mem = s.mem ∧ SameRegs s t ∧ Said.Answered s t h 2 0 [] ∧ (t.port q).pcfg = w
        ∧ (bitOf old 3 = true → bitOf w 3 = false → ∀ k < 4, bitOf (t.port q).lup k = false)
        ∧ ((bitOf old 3 = false ∨ bitOf w 3 = true) → (t.port q).lup = (s.port q).lup))
      ∧ (¬ok → ∃ t, exec (.pcfgWrite h q v) s = .next t ∧ Said.Answered s t h 2 1 [] ∧ t.ports = s.ports))
    ∧ (∀ k < 64,
      (linkUp s k = true → ∃ t, exec (.linkDown k) s = .next t ∧ t.mem = s.mem ∧ SameRegs s t ∧ linkUp t k = false
        ∧ bitOf (t.port (k / 4)).ldn (k % 4) = true ∧ t.notes = s.notes ++ [{ event := 1, detail := k, conn := s.dev.hostconn }])
      ∧ (linkUp s k = false → linkExists s k = true → ∃ t, exec (.linkUp k) s = .next t ∧ linkUp t k = true
        ∧ t = updPort s (k / 4) fun p => { p with lup := p.lup + 2 ^ (k % 4), tries := p.tries.set (Fin.ofNat 4 (k % 4)) 0 })
      ∧ (linkUp s k = true → bitOf (s.port (k / 4)).pcfg 4 = true →
        let n := flitTries s k
        (n < 64 → exec (.linkLevelRetry k) s = .next (updPort { s with free := s.free + 1 } (k / 4) fun p =>
          { p with llrc := min (p.llrc + 1) (2 ^ 24 - 1), tries := p.tries.set (Fin.ofNat 4 k) n }))
        ∧ (64 ≤ n → ∃ t, exec (.linkLevelRetry k) s = .next t ∧ linkUp t k = false ∧ bitOf (t.port (k / 4)).ldn (k % 4) = true
          ∧ t.notes = s.notes ++ [{ event := 1, detail := k, conn := s.dev.hostconn }])))
    ∧ (∀ k < 48, k ∉ s.dev.linksDown → exec (.memoryLinkDown k) s =
      .next (notify (s.updDev fun d => { d with linksDown := d.linksDown ++ [k] }) 2 k))
    ∧ (∀ q < 16,
      (∀ k, (k = .rud ∨ k = .rod ∨ k = .uud) → (s.port q).pdcs.length < 16384 →
        exec (.connectionSetUp q k) s = .next (updPort s q fun p => { p with pdcs := p.pdcs ++ [k] }))
      ∧ (bitOf (s.port q).pcfg 7 = true → (s.port q).qps < 1024 →
        exec (.connectionSetUp q .roceRc) s = .next (updPort s q fun p => { p with qps := p.qps + 1 })))
    ∧ ∀ src seq c va op, src < 9216 → s.dev.domen = true →
      (mget s.served (src, seq) = 0 →
        let s1 := { s with served := mset s.served (src, seq) 1 }
        ∀ u q, translate s1 c va = (u, some q) → pageFault (some q) (actRight (peerAct op)) = none →
        let a : Access := { ctx := c, space := .device, act := peerAct op, va := va, home := pageHome q va }
        (homeDown u a.home = true →
          (∀ x, op = .store x → exec (.peerAccessArrival src seq c va op) s = .next u)
          ∧ (op = .load → ∃ t, exec (.peerAccessArrival src seq c va op) s = .next t ∧ t.mem = s.mem ∧ SameRegs s t
            ∧ t.peerOut = s.peerOut ++ [{ src := src, seq := seq, fault := some .eccUncorrectable }]))
        ∧ (homeDown u a.home = false → pathFault u a = none → ∀ w v, actAt u a = (w, .ok v) → ∃ t, exec (.peerAccessArrival src seq c va op) s = .next t ∧ t.mem = w.mem ∧ SameRegs s t ∧ mget t.served (src, seq) = 1
          ∧ t.peerOut = s.peerOut ++ [{ src := src, seq := seq, val := v }]
          ∧ (op = .load → t.mem = s.mem ∧ ((∀ p, homePage u c va = some p → p.d = false) → v = memWord s.mem a.home))))
      ∧ (mget s.served (src, seq) ≠ 0 → exec (.peerAccessArrival src seq c va op) s = .next s)

/-! ### Host and power -/

/-- R5, R272, R309 to R312, R322, R401 to R403, R414 to R426: host commands and power. What comes over no connection that carries Flosy
is no command; one whose connection is busy waits, one in the wrong boot state is refused; a command taken in its turn reads or writes a
register or device memory, writes a signal, rings a queue, makes it resident, switches it out, enables, resumes or disables
it, changes an island's power, or attests under both identity keys; a drained queue is disabled; a transition completes; power-on boots accepted
images or recovers; a reading at the trip point turns every island but 23 off, and once more in recovery, until firmware recovers. -/
def Obligations.HostAndPower : Prop :=
  ∀ (s : State) (h : Flosy), let w := noteLink0 s h
    (∀ off len,
      (carriesFlosy s h = false → exec (.regRd h off len) s = .next s)
      ∧ (carriesFlosy s h = true → connBusy s h = true →
        exec (.regRd h off len) s = .next (w.updDev fun d => { d with hostq := d.hostq ++ [(h, .regRd off len)] }))
      ∧ (carriesFlosy s h = true → connBusy s h = false → commandOk s h .regRd = false →
        exec (.regRd h off len) s = .next (reply w h 1 1 [])))
    ∧ (Said.Taken s h .other →
      (∀ off len (v : BitVec 64), len = 8 →
        (∀ old u, regGet w off = .ok old → regSet w off v.toNat = .ok u →
          ∃ t, exec (.regWr h off len v) s = .next t ∧ t = reply u h 2 0 []
            ∧ (off = 0x10 → t.dev.hostconn = v.toNat % 2 ^ 18)
            ∧ (off = 0x38 → t.dev.ttrip = v.toNat)
            ∧ (off = 0x10000 → t.dev.ctxsel = v.toNat % 2 ^ 16)
            ∧ (off = 0x10008 → (t.ctx s.dev.ctxsel).ptroot = field v.toNat 51 12 * 2 ^ 12 + v.toNat % 2)
            ∧ (off = 0x10020 → v.toNat % 2 = 1 → (t.ctx s.dev.ctxsel).sdgo = true)
            ∧ (off = 0x100400 → t.dev.devnum = v.toNat % 2 ^ 14))
        ∧ (∀ old e, regGet w off = .ok old → regSet w off v.toNat = .error e →
          ∃ t, exec (.regWr h off len v) s = .next t ∧ t = reply w h 2 e []))
      ∧ (∀ c va len u, len ≤ 8192 →
        (∀ bs, readCtx w c va len = (u, .ok bs) → rangeDown u c va len = false →
          ∃ t, exec (.memRd h c va len) s = .next t ∧ t.mem = s.mem ∧ SameRegs s t ∧ Said.Answered s t h 3 0 bs)
        ∧ (∀ e, readCtx w c va len = (u, .error e) →
          ∃ t, exec (.memRd h c va len) s = .next t ∧ t.mem = s.mem ∧ SameRegs s t ∧ Said.Answered s t h 3 4 []))
      ∧ (∀ c va data u, data.length ≤ 8192 → checkCtx w c .write va data.length = (u, none) →
        rangeDown u c va data.length = false →
        ∃ t, exec (.memWr h c va data) s = .next t ∧ t.mem = (writeCtx u c va data).1.mem ∧ SameRegs s t ∧ Said.Answered s t h 4 0 [])
      ∧ (∀ c va (v : BitVec 64) u, va % 8 = 0 → signalOp w c va .write (fun _ => signedOf 64 v.toNat) = (u, none) →
        ∃ t, exec (.sigwr h c va v) s = .next t ∧ t.mem = u.mem ∧ SameRegs s t ∧ Said.Answered s t h 7 0 [])
      ∧ (∀ c qcb k, resident? s c qcb = some k →
        let q := mget s.queues k
        (∀ tail : BitVec 64, ∃ t, exec (.doorbell h c qcb tail) s = .next t ∧ SameRegs s t ∧ Said.Answered s t h 5 0 []
          ∧ (mget t.queues k).tail = max q.tail tail.toNat
          ∧ (q.prog + 2 ^ q.log2 < max q.tail tail.toNat → (mget t.queues k).state = 3 ∧ (mget t.queues k).errc ≠ 0))
        ∧ (∃ t, exec (.switchOut h c qcb) s = .next t ∧ SameRegs s t ∧ Said.Answered s t h 6 0 [] ∧ (mget t.queues k).res = false)
        ∧ (∃ t, exec (.enable h c qcb) s = .next t ∧ SameRegs s t ∧ Said.Answered s t h 6 0 []
          ∧ (mget t.queues k).state = (if q.state = 0 then 1 else q.state))
        ∧ (q.tail ≤ q.prog + 2 ^ q.log2 → ∃ t, exec (.resume h c qcb) s = .next t ∧ SameRegs s t ∧ Said.Answered s t h 6 0 []
          ∧ (mget t.queues k).state = (if 2 ≤ q.state then 1 else q.state) ∧ (2 ≤ q.state → (mget t.queues k).errc = 0))
        ∧ (∃ t, exec (.disable h c qcb) s = .next t ∧ SameRegs s t ∧ t.mem = s.mem ∧ t.replies = s.replies
          ∧ (mget t.queues k).disabling = true ∧ (mget t.queues k).waiters = q.waiters ++ [h]))
      ∧ (∀ c qcb u bs, (s.queues.map (·.1)).Nodup → qcb % 128 = 0 → resident? s c qcb = none → residentCount s < 512 → readCtx w c qcb 128 = (u, .ok bs) →
        qcbLegal (leNat bs) = true →
        let v := leNat bs
        ∃ t k, exec (.makeResident h c qcb) s = .next t ∧ SameRegs s t ∧ Said.Answered s t h 6 0 [] ∧ (mget t.queues k).res = true
          ∧ (mget t.queues k).ctx = c ∧ (mget t.queues k).qcb = qcb ∧ (mget t.queues k).base = field v 56 0
          ∧ (mget t.queues k).log2 = field v 68 64 ∧ (mget t.queues k).cls = field v 73 72
          ∧ (queueRec s c qcb = none → (mget t.queues k).tail = field v 191 128 ∧ (mget t.queues k).prog = field v 255 192
            ∧ (mget t.queues k).disp = field v 319 256)
          ∧ (∀ j, queueRec s c qcb = some j → k = j ∧ (mget t.queues k).tail = max (mget s.queues j).tail (field v 191 128)
            ∧ (mget t.queues k).prog = (advanceProg (mget s.queues j).prog (mget s.queues j).comp (mget s.queues j).comp.length).1)))
    ∧ (Said.Taken s h .regRd → ∀ off len v, (len = 4 ∨ len = 8) → regGet w off = .ok v →
      ∃ t, exec (.regRd h off len) s = .next t ∧ Framed { s with dev := t.dev, replies := t.replies } t
        ∧ Said.Answered s t h 1 0 (leBytes v len) ∧ (off = 0 → v = s.dev.devid) ∧ (off = 8 → v = s.dev.bootst)
        ∧ ∀ i < 24, off = 0x100 + 8 * i → v = islandStatus s i)
    ∧ (∀ q, (mget s.queues q).disabling = true → queueRuns s q = false →
      ∃ t, exec (.queueDisabled q) s = .next t ∧ SameRegs s t ∧ (mget t.queues q).state = 0 ∧ (mget t.queues q).disabling = false
        ∧ t.replies = s.replies ++ (mget s.queues q).waiters.map fun x => { conn := x.conn, link := x.link, tag := x.tag, op := 6 })
    ∧ (Said.Taken s h .power → ∀ i st,
      (s.dev.power = none → s.dev.powerq = [] → powerRefused w i st = false →
        ∃ t, exec (.power h i st) s = .next t ∧ t.mem = s.mem ∧ SameRegs s t ∧ t.replies = s.replies
          ∧ t.dev.power = some (i, st, s.cycle + powerTime (mget s.dev.islands i) st, h))
      ∧ (s.dev.power = none → powerRefused w i st = true →
        ∃ t, exec (.power h i st) s = .next t ∧ Said.Answered s t h 8 1 [] ∧ t.dev.power = none)
      ∧ (s.dev.power ≠ none → ∃ t, exec (.power h i st) s = .next t ∧ t.dev.power = s.dev.power
        ∧ t.dev.powerq = s.dev.powerq ++ [(i, st, h)]))
    ∧ (∀ i st due, s.dev.power = some (i, st, due, h) → due ≤ s.cycle → s.dev.powerq = [] →
      let lost : Prop := st = 0 ∨ (8 ≤ st ∧ mget s.dev.islands i = 0)
      ∃ t, exec (.powerTransitionComplete i) s = .next t ∧ Said.Answered s t h 8 0 [] ∧ mget t.dev.islands i = st ∧ t.dev.power = none
        ∧ (¬lost → t.mem = s.mem ∧ SameRegs s t)
        ∧ (lost → (∀ n, islandOf n = i → t.node n = {}) ∧ (∀ a, homeIsland a = i → memRead t.mem a = 0)
          ∧ ∀ a, homeIsland a ≠ i → memRead t.mem a = memRead s.mem a))
    ∧ (Said.Taken s h .attest → ∀ nonce, nonce.length = 64 →
      let d := s.dev
      let r := nonce ++ leBytes d.devid 4 ++ leBytes d.devnum 2
        ++ (d.images.flatMap fun (x : Accepted) => x.digest ++ leBytes x.version 8) ++ leBytes d.rollback 8
      ∃ t, exec (.attest h nonce) s = .next t ∧ Said.Answered s t h 9 0 (r ++ Config.edSign d.ident.edPriv r ++ Config.mlSign d.ident.mlPriv r) ∧ t.mem = s.mem ∧ SameRegs s t)
    ∧ (∀ rollback (f : FwImage), imageAccepted rollback f = true ↔ f.digest = Config.sha512 f.bytes ∧ rollback ≤ f.version
      ∧ Config.edVerify Config.rootKeys.1 f.digest f.sigE = true ∧ Config.mlVerify Config.rootKeys.2 f.digest f.sigM = true)
    ∧ (∀ imgs,
      (imgs ≠ [] → (∀ f ∈ imgs, imageAccepted s.dev.rollback f = true) →
        ∃ t, exec (.powerOnReset imgs) s = .next t ∧ t.dev.bootst = 1 ∧ t.mem = [] ∧ t.cycle = 0 ∧ t.nodes = []
          ∧ t.dev.images = (imgs.map fun f => { digest := f.digest, version := f.version }) ∧ t.dev.ident = bootIdentity
          ∧ t.dev.rollback = s.dev.rollback ∧ ∀ k < 24, mget t.dev.islands k = if 20 ≤ k then 15 else 0)
      ∧ ((imgs = [] ∨ ∃ f ∈ imgs, imageAccepted s.dev.rollback f = false) →
        ∃ t, exec (.powerOnReset imgs) s = .next t ∧ t.dev.bootst = 2 ∧ t.mem = [] ∧ t.nodes = [] ∧ t.dev.ident = bootIdentity ∧ linkUp t 0 = true ∧ (t.port 0).pcfg % 8 = 1
          ∧ ∀ k < 24, mget t.dev.islands k = if k = 23 then 15 else 0))
    ∧ (∀ temp,
      (temp < s.dev.ttrip → exec (.thermalTrip temp) s = .next (s.updDev fun d => { d with temp := temp }))
      ∧ (s.dev.bootst = 3 → s.dev.ttrip ≤ s.dev.temp → s.dev.power = none → (∀ k < 23, mget s.dev.islands k = 0) →
        exec (.thermalTrip temp) s = .next (s.updDev fun d => { d with temp := temp }))
      ∧ (s.dev.ttrip ≤ temp →
        (s.dev.bootst ≠ 3 ∨ s.dev.temp < s.dev.ttrip ∨ s.dev.power ≠ none ∨ ∃ k < 23, mget s.dev.islands k ≠ 0) →
        ∃ t, exec (.thermalTrip temp) s = .next t ∧ t.dev.bootst = 3 ∧ t.dev.temp = temp ∧ t.nodes = [] ∧ linkUp t 0 = true
          ∧ (∀ k < 24, mget t.dev.islands k = if k = 23 then 15 else 0)
          ∧ (∃ x, t.notes = s.notes ++ [{ event := 3, detail := temp % 2 ^ 24, conn := x }])
          ∧ ∀ a, homeIsland a < 23 → memRead t.mem a = 0))
    ∧ (s.dev.bootst = 3 → 8 ≤ mget s.dev.islands 22 →
      exec .tripRecovery s = .next (s.updDev fun d => { d with bootst := 1, irmap := d.irboot }))

/-! ### The whole machine -/

/-- R2, R5, R14, R187, R272, R387, R401, R419, R420: the values that the spec gives after power-on reset, where it gives one:
the cycle counter is 0; only island 23 runs; the registers of the device window, the tenancy block and a context; a plane's
slots are invalid and its registers, predicates and ports empty. That memory that nothing has written reads 0 is the model's
(log 4). -/
def Obligations.ResetState : Prop :=
  let r := State.reset
  r.cycle = 0 ∧ r.memOk ∧ (∀ a, memRead r.mem a = 0)
    ∧ (∀ k, k < 23 → islandRuns r k = false) ∧ islandRuns r 23 = true
    ∧ regGet r 0x000 = .ok 0x00010007 ∧ regGet r 0x008 = .ok 0 ∧ regGet r 0x010 = .ok 0 ∧ regGet r 0x018 = .ok 0
    ∧ regGet r 0x020 = .ok 0 ∧ regGet r 0x038 = .ok 0x690
    ∧ (∀ pt < 64, regGet r (0x20000 + 8 * pt) = .ok 0 ∧ regGet r (0x20200 + 8 * pt) = .ok 0xFFFFFFFF)
    ∧ (∀ vf < 192, regGet r (0x20400 + 16 * vf) = .ok 0) ∧ (∀ lvl sw, (mget r.banks (lvl, sw)).sw = 0xFFFFFFFF)
    ∧ (∀ q < 16, regGet r (0x100000 + 64 * q) = .ok 0)
    ∧ (∀ c, (r.ctx c).maxcls = 3 ∧ (r.ctx c).markto = 1024 ∧ (r.ctx c).waitb = 4096 ∧ (r.ctx c).wdog = 0 ∧ (r.ctx c).dbgen = 0
        ∧ (r.ctx c).ptroot = 0)
    ∧ (∀ n l, let p := r.plane n l
        p.active = false ∧ (∀ k : Fin 16, tV (p.slots[k]).1 = false) ∧ (∀ k : Fin 8, p.g[k] = {} ∧ p.h[k] = {} ∧ p.p[k] = false)
        ∧ ∀ k : Fin 4, p.ins[k].fifo = [] ∧ p.ins[k].residue = 0 ∧ p.outs[k].slot = none)
    ∧ r.queues = [] ∧ r.insts = []

/-- What the memory hierarchy chapter needs of every step: from any state whose memory is in its canonical form, a step that
gives a next state leaves memory in that form (log 4), so equal memories are equal lists. -/
def Obligations.MemoryCanonicalKept : Prop := StepKeeps State.memOk

/-- R15, R91, R107, R118, R135, R193: a step takes the first pending turn (log 1), and the unit whose turn it is runs exactly
the instruction that its word decodes to: a node the slot that is chosen, whose firing counts first; a sequencer its micro-word,
then its next position; a core its handler's position, then the next one; an event its own meaning; a Flosy message the command of its header (R415, R416).
Words that do not decode take their fault. No instruction is refused: each answers a next state. -/
def Obligations.StepRunsDecodedInstruction : Prop :=
  (∀ (s : State) t ts, s.turns = t :: ts → nextTurn s = (t, { s with turns := ts }) ∧ step s = turnStep t { s with turns := ts })
    ∧ (∀ (s : State) n d l k, nodeExists n = true → powered s n = true → choose s n = some (d, l, .slot k) →
      let u := countIssue s n l d (.slot k)
      (∀ i, slotInstr n (actWords u n l k).2 = .ok i → turnStep (.issue n) s = exec i { u with cur := .slot n l k })
      ∧ (∀ e, slotInstr n (actWords u n l k).2 = .error e →
        turnStep (.issue n) s = .next (slotFault { u with cur := .slot n l k } n l k e.cause [])))
    ∧ (∀ (s u : State) n l, nodeExists n = true → powered s n = true → microRead s n = (u, none) →
      (∀ i, microFetch u n = some (l, .ok i) → ∀ t, exec i { u with cur := .micro n l } = .next t →
        turnStep (.micro n) s = .next (microAdvance t n))
      ∧ (∀ e, microFetch u n = some (l, .error e) →
        turnStep (.micro n) s = .next (bspFault { u with cur := .micro n l } n .bespokeIllegal)))
    ∧ (∀ (s u : State) c, c < 1024 → powered s (.panel (corePanel c) 0) = true →
      (∀ sw i, coreFetch s c = (u, .run sw i) → ∀ t, exec i { u with cur := .core c } = .next t →
        turnStep (.core c) s = .next (coreAdvance t c (u.core c).serving sw))
      ∧ (∀ e, coreFetch s c = (u, .fault e) → turnStep (.core c) s = .next (handlerFault { u with cur := .core c } c e)))
    ∧ (∀ (s : State) i, isWord i = false → eventExists i = true → eventPowered s i = true → (∀ n l, i ≠ .markAction n l) →
      (∀ n l, i ≠ .autoEosForward n l) → turnStep (.event i) s = exec i { s with cur := .device })
    ∧ (∀ (s : State), s.dev.hostq = [] → turnStep .tick s = .next (tick s))
    ∧ (∀ (s : State) (h : Flosy) (x : FlosyHeader) data c, carriesFlosy s { h with tag := x.ftag } = true → commandOf x data = some c →
      turnStep (.message h (x.bytes ++ data)) s = runCommand { h with tag := x.ftag } c { s with cur := .device })
    ∧ ∀ (s : State) i, ∃ t, exec i s = .next t
end

