-- ==== Sys2Proof/Laws/Memory.lean ====
section
/-! SUPPORT. The laws of memory at its homes: reading after a write, and that every memory operation keeps the
canonical form. -/

namespace Sys2Proof.Machine
open Sys2Proof

/-- The canonical form above a bound: the first address is at least `lo`, and the form holds. -/
def memFrom (lo : Nat) (m : List Host.Cell) : Prop := (∀ c ∈ m.head?, lo ≤ c.1) ∧ Memory.wf m = true

theorem memWf_cons (c : Host.Cell) (m : List Host.Cell) :
    Memory.wf (c :: m) = true ↔ c.2 ≠ unwritten ∧ memFrom (c.1 + 1) m := by
  cases m with
  | nil => simp [Memory.wf, memFrom]
  | cons d t => simp [Memory.wf, memFrom, and_assoc]

theorem memFrom_tail {c : Host.Cell} {m : List Host.Cell} (h : Memory.wf (c :: m) = true) : memFrom (c.1 + 1) m :=
  ((memWf_cons c m).1 h).2

theorem memFrom_mono {lo hi : Nat} {m : List Host.Cell} (h : memFrom hi m) (l : lo ≤ hi) : memFrom lo m :=
  ⟨fun c hc => l.trans (h.1 c hc), h.2⟩

theorem memFrom_cons {lo : Nat} {c : Host.Cell} {m : List Host.Cell} (hl : lo ≤ c.1) (hv : c.2 ≠ unwritten)
    (h : memFrom (c.1 + 1) m) : memFrom lo (c :: m) :=
  ⟨by simpa using hl, (memWf_cons c m).2 ⟨hv, h⟩⟩

/-- Every address of a canonical memory above a bound is above it. -/
theorem memFrom_mem {m : List Host.Cell} : ∀ {lo : Nat}, memFrom lo m → ∀ c ∈ m, lo ≤ c.1 := by
  induction m with
  | nil => intro _ _ c hc; cases hc
  | cons d t ih =>
    intro lo h c hc
    rcases List.mem_cons.1 hc with rfl | hc
    · exact h.1 c rfl
    · have h1 : lo ≤ d.1 := h.1 d rfl
      have h2 := ih (memFrom_tail h.2) c hc
      omega

/-- A byte write keeps the canonical form above a bound that its address meets. -/
theorem memFrom_memWrite (a : Nat) (v : Byte) {m : List Host.Cell} :
    ∀ {lo : Nat}, memFrom lo m → lo ≤ a → memFrom lo (memWrite m a v) := by
  induction m with
  | nil =>
    intro lo _ ha
    by_cases hv : v = unwritten
    · simp [memWrite, hv, memFrom, Memory.wf]
    · simpa [memWrite, hv, memFrom, Memory.wf] using ha
  | cons c t ih =>
    intro lo h ha
    obtain ⟨hc, ht⟩ := (memWf_cons c t).1 h.2
    have hlo : lo ≤ c.1 := h.1 c rfl
    unfold memWrite
    split
    · next he =>
      split
      · exact memFrom_mono ht (by omega)
      · next hv => exact memFrom_cons ha hv (he ▸ ht)
    · split
      · next hlt =>
        split
        · exact h
        · next hv => exact memFrom_cons ha hv ⟨by simpa using hlt, h.2⟩
      · next hne hge => exact memFrom_cons hlo hc (ih ht (by omega))

/-- A byte write keeps the canonical form. -/
theorem memWf_memWrite {m : List Host.Cell} (h : Memory.wf m = true) (a : Nat) (v : Byte) :
    Memory.wf (memWrite m a v) = true :=
  (memFrom_memWrite a v (lo := 0) ⟨fun _ _ => Nat.zero_le _, h⟩ (Nat.zero_le _)).2

/-- Writing bytes keeps the canonical form. -/
theorem memWf_memPut (bs : List Byte) : ∀ {m : List Host.Cell} (a : Nat), Memory.wf m = true →
    Memory.wf (memPut m a bs) = true := by
  induction bs with
  | nil => intro m a h; exact h
  | cons b t ih => intro m a h; exact ih (a + 1) (memWf_memWrite h a b)

/-- Writing a word keeps the canonical form. -/
theorem memWf_memPutWord {m : List Host.Cell} (h : Memory.wf m = true) (a : Nat) (w : Word) :
    Memory.wf (memPutWord m a w) = true := memWf_memPut _ a h

/-- Writing a doubleword keeps the canonical form. -/
theorem memWf_memPutDouble {m : List Host.Cell} (h : Memory.wf m = true) (a v : Nat) :
    Memory.wf (memPutDouble m a v) = true := memWf_memPut _ a h

theorem memFrom_filter (p : Host.Cell → Bool) {m : List Host.Cell} :
    ∀ {lo : Nat}, memFrom lo m → memFrom lo (m.filter p) := by
  induction m with
  | nil => intro lo h; exact h
  | cons c t ih =>
    intro lo h
    obtain ⟨hc, ht⟩ := (memWf_cons c t).1 h.2
    have hlo : lo ≤ c.1 := h.1 c rfl
    by_cases hp : p c = true
    · rw [List.filter_cons_of_pos hp]
      exact memFrom_cons hlo hc (ih ht)
    · rw [List.filter_cons_of_neg hp]
      exact memFrom_mono (ih ht) (by omega)

/-- Dropping cells keeps the canonical form. -/
theorem memWf_filter {m : List Host.Cell} (h : Memory.wf m = true) (p : Host.Cell → Bool) :
    Memory.wf (m.filter p) = true :=
  (memFrom_filter p (lo := 0) ⟨fun _ _ => Nat.zero_le _, h⟩).2

/-- Clearing a range keeps the canonical form. -/
theorem memWf_memZero {m : List Host.Cell} (h : Memory.wf m = true) (lo hi : Nat) :
    Memory.wf (memZero m lo hi) = true := memWf_filter h _

/-- The memory at reset is canonical. -/
theorem memWf_reset : Memory.wf State.reset.mem = true := rfl

/-- A memory with every address above one reads there as unwritten. -/
theorem memRead_of_memFrom {m : List Host.Cell} {a : Nat} (h : memFrom (a + 1) m) : memRead m a = unwritten := by
  induction m with
  | nil => rfl
  | cons c t ih =>
    have hc := memFrom_mem h c (List.mem_cons_self ..)
    have : c.1 ≠ a := by omega
    simp only [memRead, this, if_false]
    exact ih (memFrom_mono (memFrom_tail h.2) (by omega))

/-- A byte that was written reads as the value written. -/
theorem memRead_memWrite_self (a : Nat) (v : Byte) {m : List Host.Cell} :
    ∀ {lo : Nat}, memFrom lo m → memRead (memWrite m a v) a = v := by
  induction m with
  | nil =>
    intro _ _
    by_cases hv : v = unwritten <;> simp [memWrite, memRead, hv]
  | cons c t ih =>
    intro lo h
    have ht := memFrom_tail h.2
    unfold memWrite
    split
    · next he =>
      split
      · next hv => rw [hv]; exact memRead_of_memFrom (he ▸ ht)
      · simp [memRead]
    · next hne =>
      split
      · next hlt =>
        split
        · next hv => rw [hv]; exact memRead_of_memFrom ⟨by simpa using hlt, h.2⟩
        · simp [memRead]
      · simp only [memRead, hne, if_false]
        exact ih ht

/-- A byte write leaves every other byte alone. -/
theorem memRead_memWrite_of_ne {a b : Nat} (v : Byte) (hab : a ≠ b) (m : List Host.Cell) :
    memRead (memWrite m a v) b = memRead m b := by
  induction m with
  | nil => by_cases hv : v = unwritten <;> simp [memWrite, memRead, hv, hab]
  | cons c t ih =>
    unfold memWrite
    split
    · next he =>
      have hcb : c.1 ≠ b := he ▸ hab
      split <;> simp [memRead, hcb, hab]
    · split
      · split <;> simp [memRead, hab]
      · simp [memRead, ih]

/-- Writing bytes leaves every byte outside them alone. -/
theorem memRead_memPut_of_out {b : Nat} (bs : List Byte) : ∀ (m : List Host.Cell) (a : Nat),
    (b < a ∨ a + bs.length ≤ b) → memRead (memPut m a bs) b = memRead m b := by
  induction bs with
  | nil => intro m a _; rfl
  | cons x t ih =>
    intro m a h
    simp only [List.length_cons] at h
    rw [memPut, ih _ _ (by omega), memRead_memWrite_of_ne x (by omega)]

/-- A word write leaves every byte outside its four alone. -/
theorem memRead_memPutWord_of_out {a b : Nat} (w : Word) (m : List Host.Cell) (h : b < a ∨ a + 4 ≤ b) :
    memRead (memPutWord m a w) b = memRead m b := memRead_memPut_of_out _ m a (by simpa [bytesOfWord] using h)

/-- Reading back the bytes written. -/
theorem memBytes_memPut (bs : List Byte) : ∀ (m : List Host.Cell) (a : Nat), Memory.wf m = true →
    memBytes (memPut m a bs) a bs.length = bs := by
  induction bs with
  | nil => intro m a _; rfl
  | cons x t ih =>
    intro m a h
    simp only [memPut, List.length_cons, memBytes]
    rw [ih _ _ (memWf_memWrite h a x), memRead_memPut_of_out t _ _ (by omega),
      memRead_memWrite_self a x (lo := 0) ⟨fun _ _ => Nat.zero_le _, h⟩]

/-- The word of the bytes of a word is the word (R4). -/
theorem wordOfBytes_bytesOfWord (w : Word) : wordOfBytes (bytesOfWord w) = w := by
  apply BitVec.eq_of_toNat_eq
  have := w.isLt
  simp only [wordOfBytes, bytesOfWord, BitVec.toNat_ofNat]
  omega

/-- A word that was written reads back (R205, R300). -/
theorem memWord_memPutWord {m : List Host.Cell} (h : Memory.wf m = true) (a : Nat) (w : Word) :
    memWord (memPutWord m a w) a = w := by
  have := memBytes_memPut (bytesOfWord w) m a h
  simp only [memWord, memPutWord]
  rw [show (4 : Nat) = (bytesOfWord w).length from rfl, this, wordOfBytes_bytesOfWord]

end Sys2Proof.Machine
end

