-- ==== Sys2Proof/Laws/State.lean ====
section
/-! SUPPORT. One lemma for each field of `State` under each of its named updates, so that no proof unfolds
a record update; and what reading a node, plane, port or unit gives after each. -/

namespace Sys2Proof.Machine
open Sys2Proof

/-! ### `setNode` -/

@[simp] theorem State.setNode_turns (s : State) (n : NodeId) (v : Node) : (s.setNode n v).turns = s.turns := rfl
@[simp] theorem State.setNode_turnNo (s : State) (n : NodeId) (v : Node) : (s.setNode n v).turnNo = s.turnNo := rfl
@[simp] theorem State.setNode_free (s : State) (n : NodeId) (v : Node) : (s.setNode n v).free = s.free := rfl
@[simp] theorem State.setNode_cur (s : State) (n : NodeId) (v : Node) : (s.setNode n v).cur = s.cur := rfl
@[simp] theorem State.setNode_ids (s : State) (n : NodeId) (v : Node) : (s.setNode n v).ids = s.ids := rfl
@[simp] theorem State.setNode_cycle (s : State) (n : NodeId) (v : Node) : (s.setNode n v).cycle = s.cycle := rfl
@[simp] theorem State.setNode_mem (s : State) (n : NodeId) (v : Node) : (s.setNode n v).mem = s.mem := rfl
@[simp] theorem State.setNode_nodes (s : State) (n : NodeId) (v : Node) : (s.setNode n v).nodes = mset s.nodes n v := rfl
@[simp] theorem State.setNode_panels (s : State) (n : NodeId) (v : Node) : (s.setNode n v).panels = s.panels := rfl
@[simp] theorem State.setNode_banks (s : State) (n : NodeId) (v : Node) : (s.setNode n v).banks = s.banks := rfl
@[simp] theorem State.setNode_ctxs (s : State) (n : NodeId) (v : Node) : (s.setNode n v).ctxs = s.ctxs := rfl
@[simp] theorem State.setNode_insts (s : State) (n : NodeId) (v : Node) : (s.setNode n v).insts = s.insts := rfl
@[simp] theorem State.setNode_reqs (s : State) (n : NodeId) (v : Node) : (s.setNode n v).reqs = s.reqs := rfl
@[simp] theorem State.setNode_bundles (s : State) (n : NodeId) (v : Node) : (s.setNode n v).bundles = s.bundles := rfl
@[simp] theorem State.setNode_accs (s : State) (n : NodeId) (v : Node) : (s.setNode n v).accs = s.accs := rfl
@[simp] theorem State.setNode_traps (s : State) (n : NodeId) (v : Node) : (s.setNode n v).traps = s.traps := rfl
@[simp] theorem State.setNode_cores (s : State) (n : NodeId) (v : Node) : (s.setNode n v).cores = s.cores := rfl
@[simp] theorem State.setNode_queues (s : State) (n : NodeId) (v : Node) : (s.setNode n v).queues = s.queues := rfl
@[simp] theorem State.setNode_runs (s : State) (n : NodeId) (v : Node) : (s.setNode n v).runs = s.runs := rfl
@[simp] theorem State.setNode_qcopies (s : State) (n : NodeId) (v : Node) : (s.setNode n v).qcopies = s.qcopies := rfl
@[simp] theorem State.setNode_copyNext (s : State) (n : NodeId) (v : Node) : (s.setNode n v).copyNext = s.copyNext := rfl
@[simp] theorem State.setNode_rr (s : State) (n : NodeId) (v : Node) : (s.setNode n v).rr = s.rr := rfl
@[simp] theorem State.setNode_dispAt (s : State) (n : NodeId) (v : Node) : (s.setNode n v).dispAt = s.dispAt := rfl
@[simp] theorem State.setNode_barEval (s : State) (n : NodeId) (v : Node) : (s.setNode n v).barEval = s.barEval := rfl
@[simp] theorem State.setNode_tiles (s : State) (n : NodeId) (v : Node) : (s.setNode n v).tiles = s.tiles := rfl
@[simp] theorem State.setNode_walks (s : State) (n : NodeId) (v : Node) : (s.setNode n v).walks = s.walks := rfl
@[simp] theorem State.setNode_handles (s : State) (n : NodeId) (v : Node) : (s.setNode n v).handles = s.handles := rfl
@[simp] theorem State.setNode_lunits (s : State) (n : NodeId) (v : Node) : (s.setNode n v).lunits = s.lunits := rfl
@[simp] theorem State.setNode_upsets (s : State) (n : NodeId) (v : Node) : (s.setNode n v).upsets = s.upsets := rfl
@[simp] theorem State.setNode_used (s : State) (n : NodeId) (v : Node) : (s.setNode n v).used = s.used := rfl
@[simp] theorem State.setNode_drr (s : State) (n : NodeId) (v : Node) : (s.setNode n v).drr = s.drr := rfl
@[simp] theorem State.setNode_presses (s : State) (n : NodeId) (v : Node) : (s.setNode n v).presses = s.presses := rfl
@[simp] theorem State.setNode_pcache (s : State) (n : NodeId) (v : Node) : (s.setNode n v).pcache = s.pcache := rfl
@[simp] theorem State.setNode_fetches (s : State) (n : NodeId) (v : Node) : (s.setNode n v).fetches = s.fetches := rfl
@[simp] theorem State.setNode_vfs (s : State) (n : NodeId) (v : Node) : (s.setNode n v).vfs = s.vfs := rfl
@[simp] theorem State.setNode_parts (s : State) (n : NodeId) (v : Node) : (s.setNode n v).parts = s.parts := rfl
@[simp] theorem State.setNode_ports (s : State) (n : NodeId) (v : Node) : (s.setNode n v).ports = s.ports := rfl
@[simp] theorem State.setNode_peers (s : State) (n : NodeId) (v : Node) : (s.setNode n v).peers = s.peers := rfl
@[simp] theorem State.setNode_ends (s : State) (n : NodeId) (v : Node) : (s.setNode n v).ends = s.ends := rfl
@[simp] theorem State.setNode_served (s : State) (n : NodeId) (v : Node) : (s.setNode n v).served = s.served := rfl
@[simp] theorem State.setNode_netOut (s : State) (n : NodeId) (v : Node) : (s.setNode n v).netOut = s.netOut := rfl
@[simp] theorem State.setNode_peerOut (s : State) (n : NodeId) (v : Node) : (s.setNode n v).peerOut = s.peerOut := rfl
@[simp] theorem State.setNode_replies (s : State) (n : NodeId) (v : Node) : (s.setNode n v).replies = s.replies := rfl
@[simp] theorem State.setNode_notes (s : State) (n : NodeId) (v : Node) : (s.setNode n v).notes = s.notes := rfl
@[simp] theorem State.setNode_dev (s : State) (n : NodeId) (v : Node) : (s.setNode n v).dev = s.dev := rfl

/-! ### `setPlane` -/

@[simp] theorem State.setPlane_turns (s : State) (n : NodeId) (l : Letter) (p : Plane) : (s.setPlane n l p).turns = s.turns := rfl
@[simp] theorem State.setPlane_turnNo (s : State) (n : NodeId) (l : Letter) (p : Plane) : (s.setPlane n l p).turnNo = s.turnNo := rfl
@[simp] theorem State.setPlane_free (s : State) (n : NodeId) (l : Letter) (p : Plane) : (s.setPlane n l p).free = s.free := rfl
@[simp] theorem State.setPlane_cur (s : State) (n : NodeId) (l : Letter) (p : Plane) : (s.setPlane n l p).cur = s.cur := rfl
@[simp] theorem State.setPlane_ids (s : State) (n : NodeId) (l : Letter) (p : Plane) : (s.setPlane n l p).ids = s.ids := rfl
@[simp] theorem State.setPlane_cycle (s : State) (n : NodeId) (l : Letter) (p : Plane) : (s.setPlane n l p).cycle = s.cycle := rfl
@[simp] theorem State.setPlane_mem (s : State) (n : NodeId) (l : Letter) (p : Plane) : (s.setPlane n l p).mem = s.mem := rfl
@[simp] theorem State.setPlane_panels (s : State) (n : NodeId) (l : Letter) (p : Plane) : (s.setPlane n l p).panels = s.panels := rfl
@[simp] theorem State.setPlane_banks (s : State) (n : NodeId) (l : Letter) (p : Plane) : (s.setPlane n l p).banks = s.banks := rfl
@[simp] theorem State.setPlane_ctxs (s : State) (n : NodeId) (l : Letter) (p : Plane) : (s.setPlane n l p).ctxs = s.ctxs := rfl
@[simp] theorem State.setPlane_insts (s : State) (n : NodeId) (l : Letter) (p : Plane) : (s.setPlane n l p).insts = s.insts := rfl
@[simp] theorem State.setPlane_reqs (s : State) (n : NodeId) (l : Letter) (p : Plane) : (s.setPlane n l p).reqs = s.reqs := rfl
@[simp] theorem State.setPlane_bundles (s : State) (n : NodeId) (l : Letter) (p : Plane) : (s.setPlane n l p).bundles = s.bundles := rfl
@[simp] theorem State.setPlane_accs (s : State) (n : NodeId) (l : Letter) (p : Plane) : (s.setPlane n l p).accs = s.accs := rfl
@[simp] theorem State.setPlane_traps (s : State) (n : NodeId) (l : Letter) (p : Plane) : (s.setPlane n l p).traps = s.traps := rfl
@[simp] theorem State.setPlane_cores (s : State) (n : NodeId) (l : Letter) (p : Plane) : (s.setPlane n l p).cores = s.cores := rfl
@[simp] theorem State.setPlane_queues (s : State) (n : NodeId) (l : Letter) (p : Plane) : (s.setPlane n l p).queues = s.queues := rfl
@[simp] theorem State.setPlane_runs (s : State) (n : NodeId) (l : Letter) (p : Plane) : (s.setPlane n l p).runs = s.runs := rfl
@[simp] theorem State.setPlane_qcopies (s : State) (n : NodeId) (l : Letter) (p : Plane) : (s.setPlane n l p).qcopies = s.qcopies := rfl
@[simp] theorem State.setPlane_copyNext (s : State) (n : NodeId) (l : Letter) (p : Plane) : (s.setPlane n l p).copyNext = s.copyNext := rfl
@[simp] theorem State.setPlane_rr (s : State) (n : NodeId) (l : Letter) (p : Plane) : (s.setPlane n l p).rr = s.rr := rfl
@[simp] theorem State.setPlane_dispAt (s : State) (n : NodeId) (l : Letter) (p : Plane) : (s.setPlane n l p).dispAt = s.dispAt := rfl
@[simp] theorem State.setPlane_barEval (s : State) (n : NodeId) (l : Letter) (p : Plane) : (s.setPlane n l p).barEval = s.barEval := rfl
@[simp] theorem State.setPlane_tiles (s : State) (n : NodeId) (l : Letter) (p : Plane) : (s.setPlane n l p).tiles = s.tiles := rfl
@[simp] theorem State.setPlane_walks (s : State) (n : NodeId) (l : Letter) (p : Plane) : (s.setPlane n l p).walks = s.walks := rfl
@[simp] theorem State.setPlane_handles (s : State) (n : NodeId) (l : Letter) (p : Plane) : (s.setPlane n l p).handles = s.handles := rfl
@[simp] theorem State.setPlane_lunits (s : State) (n : NodeId) (l : Letter) (p : Plane) : (s.setPlane n l p).lunits = s.lunits := rfl
@[simp] theorem State.setPlane_upsets (s : State) (n : NodeId) (l : Letter) (p : Plane) : (s.setPlane n l p).upsets = s.upsets := rfl
@[simp] theorem State.setPlane_used (s : State) (n : NodeId) (l : Letter) (p : Plane) : (s.setPlane n l p).used = s.used := rfl
@[simp] theorem State.setPlane_drr (s : State) (n : NodeId) (l : Letter) (p : Plane) : (s.setPlane n l p).drr = s.drr := rfl
@[simp] theorem State.setPlane_presses (s : State) (n : NodeId) (l : Letter) (p : Plane) : (s.setPlane n l p).presses = s.presses := rfl
@[simp] theorem State.setPlane_pcache (s : State) (n : NodeId) (l : Letter) (p : Plane) : (s.setPlane n l p).pcache = s.pcache := rfl
@[simp] theorem State.setPlane_fetches (s : State) (n : NodeId) (l : Letter) (p : Plane) : (s.setPlane n l p).fetches = s.fetches := rfl
@[simp] theorem State.setPlane_vfs (s : State) (n : NodeId) (l : Letter) (p : Plane) : (s.setPlane n l p).vfs = s.vfs := rfl
@[simp] theorem State.setPlane_parts (s : State) (n : NodeId) (l : Letter) (p : Plane) : (s.setPlane n l p).parts = s.parts := rfl
@[simp] theorem State.setPlane_ports (s : State) (n : NodeId) (l : Letter) (p : Plane) : (s.setPlane n l p).ports = s.ports := rfl
@[simp] theorem State.setPlane_peers (s : State) (n : NodeId) (l : Letter) (p : Plane) : (s.setPlane n l p).peers = s.peers := rfl
@[simp] theorem State.setPlane_ends (s : State) (n : NodeId) (l : Letter) (p : Plane) : (s.setPlane n l p).ends = s.ends := rfl
@[simp] theorem State.setPlane_served (s : State) (n : NodeId) (l : Letter) (p : Plane) : (s.setPlane n l p).served = s.served := rfl
@[simp] theorem State.setPlane_netOut (s : State) (n : NodeId) (l : Letter) (p : Plane) : (s.setPlane n l p).netOut = s.netOut := rfl
@[simp] theorem State.setPlane_peerOut (s : State) (n : NodeId) (l : Letter) (p : Plane) : (s.setPlane n l p).peerOut = s.peerOut := rfl
@[simp] theorem State.setPlane_replies (s : State) (n : NodeId) (l : Letter) (p : Plane) : (s.setPlane n l p).replies = s.replies := rfl
@[simp] theorem State.setPlane_notes (s : State) (n : NodeId) (l : Letter) (p : Plane) : (s.setPlane n l p).notes = s.notes := rfl
@[simp] theorem State.setPlane_dev (s : State) (n : NodeId) (l : Letter) (p : Plane) : (s.setPlane n l p).dev = s.dev := rfl

/-! ### `updPlane` -/

@[simp] theorem State.updPlane_turns (s : State) (n : NodeId) (l : Letter) (f : Plane → Plane) : (s.updPlane n l f).turns = s.turns := rfl
@[simp] theorem State.updPlane_turnNo (s : State) (n : NodeId) (l : Letter) (f : Plane → Plane) : (s.updPlane n l f).turnNo = s.turnNo := rfl
@[simp] theorem State.updPlane_free (s : State) (n : NodeId) (l : Letter) (f : Plane → Plane) : (s.updPlane n l f).free = s.free := rfl
@[simp] theorem State.updPlane_cur (s : State) (n : NodeId) (l : Letter) (f : Plane → Plane) : (s.updPlane n l f).cur = s.cur := rfl
@[simp] theorem State.updPlane_ids (s : State) (n : NodeId) (l : Letter) (f : Plane → Plane) : (s.updPlane n l f).ids = s.ids := rfl
@[simp] theorem State.updPlane_cycle (s : State) (n : NodeId) (l : Letter) (f : Plane → Plane) : (s.updPlane n l f).cycle = s.cycle := rfl
@[simp] theorem State.updPlane_mem (s : State) (n : NodeId) (l : Letter) (f : Plane → Plane) : (s.updPlane n l f).mem = s.mem := rfl
@[simp] theorem State.updPlane_panels (s : State) (n : NodeId) (l : Letter) (f : Plane → Plane) : (s.updPlane n l f).panels = s.panels := rfl
@[simp] theorem State.updPlane_banks (s : State) (n : NodeId) (l : Letter) (f : Plane → Plane) : (s.updPlane n l f).banks = s.banks := rfl
@[simp] theorem State.updPlane_ctxs (s : State) (n : NodeId) (l : Letter) (f : Plane → Plane) : (s.updPlane n l f).ctxs = s.ctxs := rfl
@[simp] theorem State.updPlane_insts (s : State) (n : NodeId) (l : Letter) (f : Plane → Plane) : (s.updPlane n l f).insts = s.insts := rfl
@[simp] theorem State.updPlane_reqs (s : State) (n : NodeId) (l : Letter) (f : Plane → Plane) : (s.updPlane n l f).reqs = s.reqs := rfl
@[simp] theorem State.updPlane_bundles (s : State) (n : NodeId) (l : Letter) (f : Plane → Plane) : (s.updPlane n l f).bundles = s.bundles := rfl
@[simp] theorem State.updPlane_accs (s : State) (n : NodeId) (l : Letter) (f : Plane → Plane) : (s.updPlane n l f).accs = s.accs := rfl
@[simp] theorem State.updPlane_traps (s : State) (n : NodeId) (l : Letter) (f : Plane → Plane) : (s.updPlane n l f).traps = s.traps := rfl
@[simp] theorem State.updPlane_cores (s : State) (n : NodeId) (l : Letter) (f : Plane → Plane) : (s.updPlane n l f).cores = s.cores := rfl
@[simp] theorem State.updPlane_queues (s : State) (n : NodeId) (l : Letter) (f : Plane → Plane) : (s.updPlane n l f).queues = s.queues := rfl
@[simp] theorem State.updPlane_runs (s : State) (n : NodeId) (l : Letter) (f : Plane → Plane) : (s.updPlane n l f).runs = s.runs := rfl
@[simp] theorem State.updPlane_qcopies (s : State) (n : NodeId) (l : Letter) (f : Plane → Plane) : (s.updPlane n l f).qcopies = s.qcopies := rfl
@[simp] theorem State.updPlane_copyNext (s : State) (n : NodeId) (l : Letter) (f : Plane → Plane) : (s.updPlane n l f).copyNext = s.copyNext := rfl
@[simp] theorem State.updPlane_rr (s : State) (n : NodeId) (l : Letter) (f : Plane → Plane) : (s.updPlane n l f).rr = s.rr := rfl
@[simp] theorem State.updPlane_dispAt (s : State) (n : NodeId) (l : Letter) (f : Plane → Plane) : (s.updPlane n l f).dispAt = s.dispAt := rfl
@[simp] theorem State.updPlane_barEval (s : State) (n : NodeId) (l : Letter) (f : Plane → Plane) : (s.updPlane n l f).barEval = s.barEval := rfl
@[simp] theorem State.updPlane_tiles (s : State) (n : NodeId) (l : Letter) (f : Plane → Plane) : (s.updPlane n l f).tiles = s.tiles := rfl
@[simp] theorem State.updPlane_walks (s : State) (n : NodeId) (l : Letter) (f : Plane → Plane) : (s.updPlane n l f).walks = s.walks := rfl
@[simp] theorem State.updPlane_handles (s : State) (n : NodeId) (l : Letter) (f : Plane → Plane) : (s.updPlane n l f).handles = s.handles := rfl
@[simp] theorem State.updPlane_lunits (s : State) (n : NodeId) (l : Letter) (f : Plane → Plane) : (s.updPlane n l f).lunits = s.lunits := rfl
@[simp] theorem State.updPlane_upsets (s : State) (n : NodeId) (l : Letter) (f : Plane → Plane) : (s.updPlane n l f).upsets = s.upsets := rfl
@[simp] theorem State.updPlane_used (s : State) (n : NodeId) (l : Letter) (f : Plane → Plane) : (s.updPlane n l f).used = s.used := rfl
@[simp] theorem State.updPlane_drr (s : State) (n : NodeId) (l : Letter) (f : Plane → Plane) : (s.updPlane n l f).drr = s.drr := rfl
@[simp] theorem State.updPlane_presses (s : State) (n : NodeId) (l : Letter) (f : Plane → Plane) : (s.updPlane n l f).presses = s.presses := rfl
@[simp] theorem State.updPlane_pcache (s : State) (n : NodeId) (l : Letter) (f : Plane → Plane) : (s.updPlane n l f).pcache = s.pcache := rfl
@[simp] theorem State.updPlane_fetches (s : State) (n : NodeId) (l : Letter) (f : Plane → Plane) : (s.updPlane n l f).fetches = s.fetches := rfl
@[simp] theorem State.updPlane_vfs (s : State) (n : NodeId) (l : Letter) (f : Plane → Plane) : (s.updPlane n l f).vfs = s.vfs := rfl
@[simp] theorem State.updPlane_parts (s : State) (n : NodeId) (l : Letter) (f : Plane → Plane) : (s.updPlane n l f).parts = s.parts := rfl
@[simp] theorem State.updPlane_ports (s : State) (n : NodeId) (l : Letter) (f : Plane → Plane) : (s.updPlane n l f).ports = s.ports := rfl
@[simp] theorem State.updPlane_peers (s : State) (n : NodeId) (l : Letter) (f : Plane → Plane) : (s.updPlane n l f).peers = s.peers := rfl
@[simp] theorem State.updPlane_ends (s : State) (n : NodeId) (l : Letter) (f : Plane → Plane) : (s.updPlane n l f).ends = s.ends := rfl
@[simp] theorem State.updPlane_served (s : State) (n : NodeId) (l : Letter) (f : Plane → Plane) : (s.updPlane n l f).served = s.served := rfl
@[simp] theorem State.updPlane_netOut (s : State) (n : NodeId) (l : Letter) (f : Plane → Plane) : (s.updPlane n l f).netOut = s.netOut := rfl
@[simp] theorem State.updPlane_peerOut (s : State) (n : NodeId) (l : Letter) (f : Plane → Plane) : (s.updPlane n l f).peerOut = s.peerOut := rfl
@[simp] theorem State.updPlane_replies (s : State) (n : NodeId) (l : Letter) (f : Plane → Plane) : (s.updPlane n l f).replies = s.replies := rfl
@[simp] theorem State.updPlane_notes (s : State) (n : NodeId) (l : Letter) (f : Plane → Plane) : (s.updPlane n l f).notes = s.notes := rfl
@[simp] theorem State.updPlane_dev (s : State) (n : NodeId) (l : Letter) (f : Plane → Plane) : (s.updPlane n l f).dev = s.dev := rfl

/-! ### `updIn` -/

@[simp] theorem State.updIn_turns (s : State) (n : NodeId) (l : Letter) (k : Fin 4) (f : InPort → InPort) : (s.updIn n l k f).turns = s.turns := rfl
@[simp] theorem State.updIn_turnNo (s : State) (n : NodeId) (l : Letter) (k : Fin 4) (f : InPort → InPort) : (s.updIn n l k f).turnNo = s.turnNo := rfl
@[simp] theorem State.updIn_free (s : State) (n : NodeId) (l : Letter) (k : Fin 4) (f : InPort → InPort) : (s.updIn n l k f).free = s.free := rfl
@[simp] theorem State.updIn_cur (s : State) (n : NodeId) (l : Letter) (k : Fin 4) (f : InPort → InPort) : (s.updIn n l k f).cur = s.cur := rfl
@[simp] theorem State.updIn_ids (s : State) (n : NodeId) (l : Letter) (k : Fin 4) (f : InPort → InPort) : (s.updIn n l k f).ids = s.ids := rfl
@[simp] theorem State.updIn_cycle (s : State) (n : NodeId) (l : Letter) (k : Fin 4) (f : InPort → InPort) : (s.updIn n l k f).cycle = s.cycle := rfl
@[simp] theorem State.updIn_mem (s : State) (n : NodeId) (l : Letter) (k : Fin 4) (f : InPort → InPort) : (s.updIn n l k f).mem = s.mem := rfl
@[simp] theorem State.updIn_panels (s : State) (n : NodeId) (l : Letter) (k : Fin 4) (f : InPort → InPort) : (s.updIn n l k f).panels = s.panels := rfl
@[simp] theorem State.updIn_banks (s : State) (n : NodeId) (l : Letter) (k : Fin 4) (f : InPort → InPort) : (s.updIn n l k f).banks = s.banks := rfl
@[simp] theorem State.updIn_ctxs (s : State) (n : NodeId) (l : Letter) (k : Fin 4) (f : InPort → InPort) : (s.updIn n l k f).ctxs = s.ctxs := rfl
@[simp] theorem State.updIn_insts (s : State) (n : NodeId) (l : Letter) (k : Fin 4) (f : InPort → InPort) : (s.updIn n l k f).insts = s.insts := rfl
@[simp] theorem State.updIn_reqs (s : State) (n : NodeId) (l : Letter) (k : Fin 4) (f : InPort → InPort) : (s.updIn n l k f).reqs = s.reqs := rfl
@[simp] theorem State.updIn_bundles (s : State) (n : NodeId) (l : Letter) (k : Fin 4) (f : InPort → InPort) : (s.updIn n l k f).bundles = s.bundles := rfl
@[simp] theorem State.updIn_accs (s : State) (n : NodeId) (l : Letter) (k : Fin 4) (f : InPort → InPort) : (s.updIn n l k f).accs = s.accs := rfl
@[simp] theorem State.updIn_traps (s : State) (n : NodeId) (l : Letter) (k : Fin 4) (f : InPort → InPort) : (s.updIn n l k f).traps = s.traps := rfl
@[simp] theorem State.updIn_cores (s : State) (n : NodeId) (l : Letter) (k : Fin 4) (f : InPort → InPort) : (s.updIn n l k f).cores = s.cores := rfl
@[simp] theorem State.updIn_queues (s : State) (n : NodeId) (l : Letter) (k : Fin 4) (f : InPort → InPort) : (s.updIn n l k f).queues = s.queues := rfl
@[simp] theorem State.updIn_runs (s : State) (n : NodeId) (l : Letter) (k : Fin 4) (f : InPort → InPort) : (s.updIn n l k f).runs = s.runs := rfl
@[simp] theorem State.updIn_qcopies (s : State) (n : NodeId) (l : Letter) (k : Fin 4) (f : InPort → InPort) : (s.updIn n l k f).qcopies = s.qcopies := rfl
@[simp] theorem State.updIn_copyNext (s : State) (n : NodeId) (l : Letter) (k : Fin 4) (f : InPort → InPort) : (s.updIn n l k f).copyNext = s.copyNext := rfl
@[simp] theorem State.updIn_rr (s : State) (n : NodeId) (l : Letter) (k : Fin 4) (f : InPort → InPort) : (s.updIn n l k f).rr = s.rr := rfl
@[simp] theorem State.updIn_dispAt (s : State) (n : NodeId) (l : Letter) (k : Fin 4) (f : InPort → InPort) : (s.updIn n l k f).dispAt = s.dispAt := rfl
@[simp] theorem State.updIn_barEval (s : State) (n : NodeId) (l : Letter) (k : Fin 4) (f : InPort → InPort) : (s.updIn n l k f).barEval = s.barEval := rfl
@[simp] theorem State.updIn_tiles (s : State) (n : NodeId) (l : Letter) (k : Fin 4) (f : InPort → InPort) : (s.updIn n l k f).tiles = s.tiles := rfl
@[simp] theorem State.updIn_walks (s : State) (n : NodeId) (l : Letter) (k : Fin 4) (f : InPort → InPort) : (s.updIn n l k f).walks = s.walks := rfl
@[simp] theorem State.updIn_handles (s : State) (n : NodeId) (l : Letter) (k : Fin 4) (f : InPort → InPort) : (s.updIn n l k f).handles = s.handles := rfl
@[simp] theorem State.updIn_lunits (s : State) (n : NodeId) (l : Letter) (k : Fin 4) (f : InPort → InPort) : (s.updIn n l k f).lunits = s.lunits := rfl
@[simp] theorem State.updIn_upsets (s : State) (n : NodeId) (l : Letter) (k : Fin 4) (f : InPort → InPort) : (s.updIn n l k f).upsets = s.upsets := rfl
@[simp] theorem State.updIn_used (s : State) (n : NodeId) (l : Letter) (k : Fin 4) (f : InPort → InPort) : (s.updIn n l k f).used = s.used := rfl
@[simp] theorem State.updIn_drr (s : State) (n : NodeId) (l : Letter) (k : Fin 4) (f : InPort → InPort) : (s.updIn n l k f).drr = s.drr := rfl
@[simp] theorem State.updIn_presses (s : State) (n : NodeId) (l : Letter) (k : Fin 4) (f : InPort → InPort) : (s.updIn n l k f).presses = s.presses := rfl
@[simp] theorem State.updIn_pcache (s : State) (n : NodeId) (l : Letter) (k : Fin 4) (f : InPort → InPort) : (s.updIn n l k f).pcache = s.pcache := rfl
@[simp] theorem State.updIn_fetches (s : State) (n : NodeId) (l : Letter) (k : Fin 4) (f : InPort → InPort) : (s.updIn n l k f).fetches = s.fetches := rfl
@[simp] theorem State.updIn_vfs (s : State) (n : NodeId) (l : Letter) (k : Fin 4) (f : InPort → InPort) : (s.updIn n l k f).vfs = s.vfs := rfl
@[simp] theorem State.updIn_parts (s : State) (n : NodeId) (l : Letter) (k : Fin 4) (f : InPort → InPort) : (s.updIn n l k f).parts = s.parts := rfl
@[simp] theorem State.updIn_ports (s : State) (n : NodeId) (l : Letter) (k : Fin 4) (f : InPort → InPort) : (s.updIn n l k f).ports = s.ports := rfl
@[simp] theorem State.updIn_peers (s : State) (n : NodeId) (l : Letter) (k : Fin 4) (f : InPort → InPort) : (s.updIn n l k f).peers = s.peers := rfl
@[simp] theorem State.updIn_ends (s : State) (n : NodeId) (l : Letter) (k : Fin 4) (f : InPort → InPort) : (s.updIn n l k f).ends = s.ends := rfl
@[simp] theorem State.updIn_served (s : State) (n : NodeId) (l : Letter) (k : Fin 4) (f : InPort → InPort) : (s.updIn n l k f).served = s.served := rfl
@[simp] theorem State.updIn_netOut (s : State) (n : NodeId) (l : Letter) (k : Fin 4) (f : InPort → InPort) : (s.updIn n l k f).netOut = s.netOut := rfl
@[simp] theorem State.updIn_peerOut (s : State) (n : NodeId) (l : Letter) (k : Fin 4) (f : InPort → InPort) : (s.updIn n l k f).peerOut = s.peerOut := rfl
@[simp] theorem State.updIn_replies (s : State) (n : NodeId) (l : Letter) (k : Fin 4) (f : InPort → InPort) : (s.updIn n l k f).replies = s.replies := rfl
@[simp] theorem State.updIn_notes (s : State) (n : NodeId) (l : Letter) (k : Fin 4) (f : InPort → InPort) : (s.updIn n l k f).notes = s.notes := rfl
@[simp] theorem State.updIn_dev (s : State) (n : NodeId) (l : Letter) (k : Fin 4) (f : InPort → InPort) : (s.updIn n l k f).dev = s.dev := rfl

/-! ### `updOut` -/

@[simp] theorem State.updOut_turns (s : State) (n : NodeId) (l : Letter) (k : Fin 4) (f : OutPort → OutPort) : (s.updOut n l k f).turns = s.turns := rfl
@[simp] theorem State.updOut_turnNo (s : State) (n : NodeId) (l : Letter) (k : Fin 4) (f : OutPort → OutPort) : (s.updOut n l k f).turnNo = s.turnNo := rfl
@[simp] theorem State.updOut_free (s : State) (n : NodeId) (l : Letter) (k : Fin 4) (f : OutPort → OutPort) : (s.updOut n l k f).free = s.free := rfl
@[simp] theorem State.updOut_cur (s : State) (n : NodeId) (l : Letter) (k : Fin 4) (f : OutPort → OutPort) : (s.updOut n l k f).cur = s.cur := rfl
@[simp] theorem State.updOut_ids (s : State) (n : NodeId) (l : Letter) (k : Fin 4) (f : OutPort → OutPort) : (s.updOut n l k f).ids = s.ids := rfl
@[simp] theorem State.updOut_cycle (s : State) (n : NodeId) (l : Letter) (k : Fin 4) (f : OutPort → OutPort) : (s.updOut n l k f).cycle = s.cycle := rfl
@[simp] theorem State.updOut_mem (s : State) (n : NodeId) (l : Letter) (k : Fin 4) (f : OutPort → OutPort) : (s.updOut n l k f).mem = s.mem := rfl
@[simp] theorem State.updOut_panels (s : State) (n : NodeId) (l : Letter) (k : Fin 4) (f : OutPort → OutPort) : (s.updOut n l k f).panels = s.panels := rfl
@[simp] theorem State.updOut_banks (s : State) (n : NodeId) (l : Letter) (k : Fin 4) (f : OutPort → OutPort) : (s.updOut n l k f).banks = s.banks := rfl
@[simp] theorem State.updOut_ctxs (s : State) (n : NodeId) (l : Letter) (k : Fin 4) (f : OutPort → OutPort) : (s.updOut n l k f).ctxs = s.ctxs := rfl
@[simp] theorem State.updOut_insts (s : State) (n : NodeId) (l : Letter) (k : Fin 4) (f : OutPort → OutPort) : (s.updOut n l k f).insts = s.insts := rfl
@[simp] theorem State.updOut_reqs (s : State) (n : NodeId) (l : Letter) (k : Fin 4) (f : OutPort → OutPort) : (s.updOut n l k f).reqs = s.reqs := rfl
@[simp] theorem State.updOut_bundles (s : State) (n : NodeId) (l : Letter) (k : Fin 4) (f : OutPort → OutPort) : (s.updOut n l k f).bundles = s.bundles := rfl
@[simp] theorem State.updOut_accs (s : State) (n : NodeId) (l : Letter) (k : Fin 4) (f : OutPort → OutPort) : (s.updOut n l k f).accs = s.accs := rfl
@[simp] theorem State.updOut_traps (s : State) (n : NodeId) (l : Letter) (k : Fin 4) (f : OutPort → OutPort) : (s.updOut n l k f).traps = s.traps := rfl
@[simp] theorem State.updOut_cores (s : State) (n : NodeId) (l : Letter) (k : Fin 4) (f : OutPort → OutPort) : (s.updOut n l k f).cores = s.cores := rfl
@[simp] theorem State.updOut_queues (s : State) (n : NodeId) (l : Letter) (k : Fin 4) (f : OutPort → OutPort) : (s.updOut n l k f).queues = s.queues := rfl
@[simp] theorem State.updOut_runs (s : State) (n : NodeId) (l : Letter) (k : Fin 4) (f : OutPort → OutPort) : (s.updOut n l k f).runs = s.runs := rfl
@[simp] theorem State.updOut_qcopies (s : State) (n : NodeId) (l : Letter) (k : Fin 4) (f : OutPort → OutPort) : (s.updOut n l k f).qcopies = s.qcopies := rfl
@[simp] theorem State.updOut_copyNext (s : State) (n : NodeId) (l : Letter) (k : Fin 4) (f : OutPort → OutPort) : (s.updOut n l k f).copyNext = s.copyNext := rfl
@[simp] theorem State.updOut_rr (s : State) (n : NodeId) (l : Letter) (k : Fin 4) (f : OutPort → OutPort) : (s.updOut n l k f).rr = s.rr := rfl
@[simp] theorem State.updOut_dispAt (s : State) (n : NodeId) (l : Letter) (k : Fin 4) (f : OutPort → OutPort) : (s.updOut n l k f).dispAt = s.dispAt := rfl
@[simp] theorem State.updOut_barEval (s : State) (n : NodeId) (l : Letter) (k : Fin 4) (f : OutPort → OutPort) : (s.updOut n l k f).barEval = s.barEval := rfl
@[simp] theorem State.updOut_tiles (s : State) (n : NodeId) (l : Letter) (k : Fin 4) (f : OutPort → OutPort) : (s.updOut n l k f).tiles = s.tiles := rfl
@[simp] theorem State.updOut_walks (s : State) (n : NodeId) (l : Letter) (k : Fin 4) (f : OutPort → OutPort) : (s.updOut n l k f).walks = s.walks := rfl
@[simp] theorem State.updOut_handles (s : State) (n : NodeId) (l : Letter) (k : Fin 4) (f : OutPort → OutPort) : (s.updOut n l k f).handles = s.handles := rfl
@[simp] theorem State.updOut_lunits (s : State) (n : NodeId) (l : Letter) (k : Fin 4) (f : OutPort → OutPort) : (s.updOut n l k f).lunits = s.lunits := rfl
@[simp] theorem State.updOut_upsets (s : State) (n : NodeId) (l : Letter) (k : Fin 4) (f : OutPort → OutPort) : (s.updOut n l k f).upsets = s.upsets := rfl
@[simp] theorem State.updOut_used (s : State) (n : NodeId) (l : Letter) (k : Fin 4) (f : OutPort → OutPort) : (s.updOut n l k f).used = s.used := rfl
@[simp] theorem State.updOut_drr (s : State) (n : NodeId) (l : Letter) (k : Fin 4) (f : OutPort → OutPort) : (s.updOut n l k f).drr = s.drr := rfl
@[simp] theorem State.updOut_presses (s : State) (n : NodeId) (l : Letter) (k : Fin 4) (f : OutPort → OutPort) : (s.updOut n l k f).presses = s.presses := rfl
@[simp] theorem State.updOut_pcache (s : State) (n : NodeId) (l : Letter) (k : Fin 4) (f : OutPort → OutPort) : (s.updOut n l k f).pcache = s.pcache := rfl
@[simp] theorem State.updOut_fetches (s : State) (n : NodeId) (l : Letter) (k : Fin 4) (f : OutPort → OutPort) : (s.updOut n l k f).fetches = s.fetches := rfl
@[simp] theorem State.updOut_vfs (s : State) (n : NodeId) (l : Letter) (k : Fin 4) (f : OutPort → OutPort) : (s.updOut n l k f).vfs = s.vfs := rfl
@[simp] theorem State.updOut_parts (s : State) (n : NodeId) (l : Letter) (k : Fin 4) (f : OutPort → OutPort) : (s.updOut n l k f).parts = s.parts := rfl
@[simp] theorem State.updOut_ports (s : State) (n : NodeId) (l : Letter) (k : Fin 4) (f : OutPort → OutPort) : (s.updOut n l k f).ports = s.ports := rfl
@[simp] theorem State.updOut_peers (s : State) (n : NodeId) (l : Letter) (k : Fin 4) (f : OutPort → OutPort) : (s.updOut n l k f).peers = s.peers := rfl
@[simp] theorem State.updOut_ends (s : State) (n : NodeId) (l : Letter) (k : Fin 4) (f : OutPort → OutPort) : (s.updOut n l k f).ends = s.ends := rfl
@[simp] theorem State.updOut_served (s : State) (n : NodeId) (l : Letter) (k : Fin 4) (f : OutPort → OutPort) : (s.updOut n l k f).served = s.served := rfl
@[simp] theorem State.updOut_netOut (s : State) (n : NodeId) (l : Letter) (k : Fin 4) (f : OutPort → OutPort) : (s.updOut n l k f).netOut = s.netOut := rfl
@[simp] theorem State.updOut_peerOut (s : State) (n : NodeId) (l : Letter) (k : Fin 4) (f : OutPort → OutPort) : (s.updOut n l k f).peerOut = s.peerOut := rfl
@[simp] theorem State.updOut_replies (s : State) (n : NodeId) (l : Letter) (k : Fin 4) (f : OutPort → OutPort) : (s.updOut n l k f).replies = s.replies := rfl
@[simp] theorem State.updOut_notes (s : State) (n : NodeId) (l : Letter) (k : Fin 4) (f : OutPort → OutPort) : (s.updOut n l k f).notes = s.notes := rfl
@[simp] theorem State.updOut_dev (s : State) (n : NodeId) (l : Letter) (k : Fin 4) (f : OutPort → OutPort) : (s.updOut n l k f).dev = s.dev := rfl

/-! ### `pushOp` -/

@[simp] theorem State.pushOp_turns (s : State) (n : NodeId) (l : Letter) (o : Op) : (s.pushOp n l o).turns = s.turns := rfl
@[simp] theorem State.pushOp_turnNo (s : State) (n : NodeId) (l : Letter) (o : Op) : (s.pushOp n l o).turnNo = s.turnNo := rfl
@[simp] theorem State.pushOp_free (s : State) (n : NodeId) (l : Letter) (o : Op) : (s.pushOp n l o).free = s.free := rfl
@[simp] theorem State.pushOp_cur (s : State) (n : NodeId) (l : Letter) (o : Op) : (s.pushOp n l o).cur = s.cur := rfl
@[simp] theorem State.pushOp_ids (s : State) (n : NodeId) (l : Letter) (o : Op) : (s.pushOp n l o).ids = s.ids := rfl
@[simp] theorem State.pushOp_cycle (s : State) (n : NodeId) (l : Letter) (o : Op) : (s.pushOp n l o).cycle = s.cycle := rfl
@[simp] theorem State.pushOp_mem (s : State) (n : NodeId) (l : Letter) (o : Op) : (s.pushOp n l o).mem = s.mem := rfl
@[simp] theorem State.pushOp_panels (s : State) (n : NodeId) (l : Letter) (o : Op) : (s.pushOp n l o).panels = s.panels := rfl
@[simp] theorem State.pushOp_banks (s : State) (n : NodeId) (l : Letter) (o : Op) : (s.pushOp n l o).banks = s.banks := rfl
@[simp] theorem State.pushOp_ctxs (s : State) (n : NodeId) (l : Letter) (o : Op) : (s.pushOp n l o).ctxs = s.ctxs := rfl
@[simp] theorem State.pushOp_insts (s : State) (n : NodeId) (l : Letter) (o : Op) : (s.pushOp n l o).insts = s.insts := rfl
@[simp] theorem State.pushOp_reqs (s : State) (n : NodeId) (l : Letter) (o : Op) : (s.pushOp n l o).reqs = s.reqs := rfl
@[simp] theorem State.pushOp_bundles (s : State) (n : NodeId) (l : Letter) (o : Op) : (s.pushOp n l o).bundles = s.bundles := rfl
@[simp] theorem State.pushOp_accs (s : State) (n : NodeId) (l : Letter) (o : Op) : (s.pushOp n l o).accs = s.accs := rfl
@[simp] theorem State.pushOp_traps (s : State) (n : NodeId) (l : Letter) (o : Op) : (s.pushOp n l o).traps = s.traps := rfl
@[simp] theorem State.pushOp_cores (s : State) (n : NodeId) (l : Letter) (o : Op) : (s.pushOp n l o).cores = s.cores := rfl
@[simp] theorem State.pushOp_queues (s : State) (n : NodeId) (l : Letter) (o : Op) : (s.pushOp n l o).queues = s.queues := rfl
@[simp] theorem State.pushOp_runs (s : State) (n : NodeId) (l : Letter) (o : Op) : (s.pushOp n l o).runs = s.runs := rfl
@[simp] theorem State.pushOp_qcopies (s : State) (n : NodeId) (l : Letter) (o : Op) : (s.pushOp n l o).qcopies = s.qcopies := rfl
@[simp] theorem State.pushOp_copyNext (s : State) (n : NodeId) (l : Letter) (o : Op) : (s.pushOp n l o).copyNext = s.copyNext := rfl
@[simp] theorem State.pushOp_rr (s : State) (n : NodeId) (l : Letter) (o : Op) : (s.pushOp n l o).rr = s.rr := rfl
@[simp] theorem State.pushOp_dispAt (s : State) (n : NodeId) (l : Letter) (o : Op) : (s.pushOp n l o).dispAt = s.dispAt := rfl
@[simp] theorem State.pushOp_barEval (s : State) (n : NodeId) (l : Letter) (o : Op) : (s.pushOp n l o).barEval = s.barEval := rfl
@[simp] theorem State.pushOp_tiles (s : State) (n : NodeId) (l : Letter) (o : Op) : (s.pushOp n l o).tiles = s.tiles := rfl
@[simp] theorem State.pushOp_walks (s : State) (n : NodeId) (l : Letter) (o : Op) : (s.pushOp n l o).walks = s.walks := rfl
@[simp] theorem State.pushOp_handles (s : State) (n : NodeId) (l : Letter) (o : Op) : (s.pushOp n l o).handles = s.handles := rfl
@[simp] theorem State.pushOp_lunits (s : State) (n : NodeId) (l : Letter) (o : Op) : (s.pushOp n l o).lunits = s.lunits := rfl
@[simp] theorem State.pushOp_upsets (s : State) (n : NodeId) (l : Letter) (o : Op) : (s.pushOp n l o).upsets = s.upsets := rfl
@[simp] theorem State.pushOp_used (s : State) (n : NodeId) (l : Letter) (o : Op) : (s.pushOp n l o).used = s.used := rfl
@[simp] theorem State.pushOp_drr (s : State) (n : NodeId) (l : Letter) (o : Op) : (s.pushOp n l o).drr = s.drr := rfl
@[simp] theorem State.pushOp_presses (s : State) (n : NodeId) (l : Letter) (o : Op) : (s.pushOp n l o).presses = s.presses := rfl
@[simp] theorem State.pushOp_pcache (s : State) (n : NodeId) (l : Letter) (o : Op) : (s.pushOp n l o).pcache = s.pcache := rfl
@[simp] theorem State.pushOp_fetches (s : State) (n : NodeId) (l : Letter) (o : Op) : (s.pushOp n l o).fetches = s.fetches := rfl
@[simp] theorem State.pushOp_vfs (s : State) (n : NodeId) (l : Letter) (o : Op) : (s.pushOp n l o).vfs = s.vfs := rfl
@[simp] theorem State.pushOp_parts (s : State) (n : NodeId) (l : Letter) (o : Op) : (s.pushOp n l o).parts = s.parts := rfl
@[simp] theorem State.pushOp_ports (s : State) (n : NodeId) (l : Letter) (o : Op) : (s.pushOp n l o).ports = s.ports := rfl
@[simp] theorem State.pushOp_peers (s : State) (n : NodeId) (l : Letter) (o : Op) : (s.pushOp n l o).peers = s.peers := rfl
@[simp] theorem State.pushOp_ends (s : State) (n : NodeId) (l : Letter) (o : Op) : (s.pushOp n l o).ends = s.ends := rfl
@[simp] theorem State.pushOp_served (s : State) (n : NodeId) (l : Letter) (o : Op) : (s.pushOp n l o).served = s.served := rfl
@[simp] theorem State.pushOp_netOut (s : State) (n : NodeId) (l : Letter) (o : Op) : (s.pushOp n l o).netOut = s.netOut := rfl
@[simp] theorem State.pushOp_peerOut (s : State) (n : NodeId) (l : Letter) (o : Op) : (s.pushOp n l o).peerOut = s.peerOut := rfl
@[simp] theorem State.pushOp_replies (s : State) (n : NodeId) (l : Letter) (o : Op) : (s.pushOp n l o).replies = s.replies := rfl
@[simp] theorem State.pushOp_notes (s : State) (n : NodeId) (l : Letter) (o : Op) : (s.pushOp n l o).notes = s.notes := rfl
@[simp] theorem State.pushOp_dev (s : State) (n : NodeId) (l : Letter) (o : Op) : (s.pushOp n l o).dev = s.dev := rfl

/-! ### `updOp` -/

@[simp] theorem State.updOp_turns (s : State) (n : NodeId) (l : Letter) (id : Nat) (f : Op → Op) : (s.updOp n l id f).turns = s.turns := rfl
@[simp] theorem State.updOp_turnNo (s : State) (n : NodeId) (l : Letter) (id : Nat) (f : Op → Op) : (s.updOp n l id f).turnNo = s.turnNo := rfl
@[simp] theorem State.updOp_free (s : State) (n : NodeId) (l : Letter) (id : Nat) (f : Op → Op) : (s.updOp n l id f).free = s.free := rfl
@[simp] theorem State.updOp_cur (s : State) (n : NodeId) (l : Letter) (id : Nat) (f : Op → Op) : (s.updOp n l id f).cur = s.cur := rfl
@[simp] theorem State.updOp_ids (s : State) (n : NodeId) (l : Letter) (id : Nat) (f : Op → Op) : (s.updOp n l id f).ids = s.ids := rfl
@[simp] theorem State.updOp_cycle (s : State) (n : NodeId) (l : Letter) (id : Nat) (f : Op → Op) : (s.updOp n l id f).cycle = s.cycle := rfl
@[simp] theorem State.updOp_mem (s : State) (n : NodeId) (l : Letter) (id : Nat) (f : Op → Op) : (s.updOp n l id f).mem = s.mem := rfl
@[simp] theorem State.updOp_panels (s : State) (n : NodeId) (l : Letter) (id : Nat) (f : Op → Op) : (s.updOp n l id f).panels = s.panels := rfl
@[simp] theorem State.updOp_banks (s : State) (n : NodeId) (l : Letter) (id : Nat) (f : Op → Op) : (s.updOp n l id f).banks = s.banks := rfl
@[simp] theorem State.updOp_ctxs (s : State) (n : NodeId) (l : Letter) (id : Nat) (f : Op → Op) : (s.updOp n l id f).ctxs = s.ctxs := rfl
@[simp] theorem State.updOp_insts (s : State) (n : NodeId) (l : Letter) (id : Nat) (f : Op → Op) : (s.updOp n l id f).insts = s.insts := rfl
@[simp] theorem State.updOp_reqs (s : State) (n : NodeId) (l : Letter) (id : Nat) (f : Op → Op) : (s.updOp n l id f).reqs = s.reqs := rfl
@[simp] theorem State.updOp_bundles (s : State) (n : NodeId) (l : Letter) (id : Nat) (f : Op → Op) : (s.updOp n l id f).bundles = s.bundles := rfl
@[simp] theorem State.updOp_accs (s : State) (n : NodeId) (l : Letter) (id : Nat) (f : Op → Op) : (s.updOp n l id f).accs = s.accs := rfl
@[simp] theorem State.updOp_traps (s : State) (n : NodeId) (l : Letter) (id : Nat) (f : Op → Op) : (s.updOp n l id f).traps = s.traps := rfl
@[simp] theorem State.updOp_cores (s : State) (n : NodeId) (l : Letter) (id : Nat) (f : Op → Op) : (s.updOp n l id f).cores = s.cores := rfl
@[simp] theorem State.updOp_queues (s : State) (n : NodeId) (l : Letter) (id : Nat) (f : Op → Op) : (s.updOp n l id f).queues = s.queues := rfl
@[simp] theorem State.updOp_runs (s : State) (n : NodeId) (l : Letter) (id : Nat) (f : Op → Op) : (s.updOp n l id f).runs = s.runs := rfl
@[simp] theorem State.updOp_qcopies (s : State) (n : NodeId) (l : Letter) (id : Nat) (f : Op → Op) : (s.updOp n l id f).qcopies = s.qcopies := rfl
@[simp] theorem State.updOp_copyNext (s : State) (n : NodeId) (l : Letter) (id : Nat) (f : Op → Op) : (s.updOp n l id f).copyNext = s.copyNext := rfl
@[simp] theorem State.updOp_rr (s : State) (n : NodeId) (l : Letter) (id : Nat) (f : Op → Op) : (s.updOp n l id f).rr = s.rr := rfl
@[simp] theorem State.updOp_dispAt (s : State) (n : NodeId) (l : Letter) (id : Nat) (f : Op → Op) : (s.updOp n l id f).dispAt = s.dispAt := rfl
@[simp] theorem State.updOp_barEval (s : State) (n : NodeId) (l : Letter) (id : Nat) (f : Op → Op) : (s.updOp n l id f).barEval = s.barEval := rfl
@[simp] theorem State.updOp_tiles (s : State) (n : NodeId) (l : Letter) (id : Nat) (f : Op → Op) : (s.updOp n l id f).tiles = s.tiles := rfl
@[simp] theorem State.updOp_walks (s : State) (n : NodeId) (l : Letter) (id : Nat) (f : Op → Op) : (s.updOp n l id f).walks = s.walks := rfl
@[simp] theorem State.updOp_handles (s : State) (n : NodeId) (l : Letter) (id : Nat) (f : Op → Op) : (s.updOp n l id f).handles = s.handles := rfl
@[simp] theorem State.updOp_lunits (s : State) (n : NodeId) (l : Letter) (id : Nat) (f : Op → Op) : (s.updOp n l id f).lunits = s.lunits := rfl
@[simp] theorem State.updOp_upsets (s : State) (n : NodeId) (l : Letter) (id : Nat) (f : Op → Op) : (s.updOp n l id f).upsets = s.upsets := rfl
@[simp] theorem State.updOp_used (s : State) (n : NodeId) (l : Letter) (id : Nat) (f : Op → Op) : (s.updOp n l id f).used = s.used := rfl
@[simp] theorem State.updOp_drr (s : State) (n : NodeId) (l : Letter) (id : Nat) (f : Op → Op) : (s.updOp n l id f).drr = s.drr := rfl
@[simp] theorem State.updOp_presses (s : State) (n : NodeId) (l : Letter) (id : Nat) (f : Op → Op) : (s.updOp n l id f).presses = s.presses := rfl
@[simp] theorem State.updOp_pcache (s : State) (n : NodeId) (l : Letter) (id : Nat) (f : Op → Op) : (s.updOp n l id f).pcache = s.pcache := rfl
@[simp] theorem State.updOp_fetches (s : State) (n : NodeId) (l : Letter) (id : Nat) (f : Op → Op) : (s.updOp n l id f).fetches = s.fetches := rfl
@[simp] theorem State.updOp_vfs (s : State) (n : NodeId) (l : Letter) (id : Nat) (f : Op → Op) : (s.updOp n l id f).vfs = s.vfs := rfl
@[simp] theorem State.updOp_parts (s : State) (n : NodeId) (l : Letter) (id : Nat) (f : Op → Op) : (s.updOp n l id f).parts = s.parts := rfl
@[simp] theorem State.updOp_ports (s : State) (n : NodeId) (l : Letter) (id : Nat) (f : Op → Op) : (s.updOp n l id f).ports = s.ports := rfl
@[simp] theorem State.updOp_peers (s : State) (n : NodeId) (l : Letter) (id : Nat) (f : Op → Op) : (s.updOp n l id f).peers = s.peers := rfl
@[simp] theorem State.updOp_ends (s : State) (n : NodeId) (l : Letter) (id : Nat) (f : Op → Op) : (s.updOp n l id f).ends = s.ends := rfl
@[simp] theorem State.updOp_served (s : State) (n : NodeId) (l : Letter) (id : Nat) (f : Op → Op) : (s.updOp n l id f).served = s.served := rfl
@[simp] theorem State.updOp_netOut (s : State) (n : NodeId) (l : Letter) (id : Nat) (f : Op → Op) : (s.updOp n l id f).netOut = s.netOut := rfl
@[simp] theorem State.updOp_peerOut (s : State) (n : NodeId) (l : Letter) (id : Nat) (f : Op → Op) : (s.updOp n l id f).peerOut = s.peerOut := rfl
@[simp] theorem State.updOp_replies (s : State) (n : NodeId) (l : Letter) (id : Nat) (f : Op → Op) : (s.updOp n l id f).replies = s.replies := rfl
@[simp] theorem State.updOp_notes (s : State) (n : NodeId) (l : Letter) (id : Nat) (f : Op → Op) : (s.updOp n l id f).notes = s.notes := rfl
@[simp] theorem State.updOp_dev (s : State) (n : NodeId) (l : Letter) (id : Nat) (f : Op → Op) : (s.updOp n l id f).dev = s.dev := rfl

/-! ### `delOp` -/

@[simp] theorem State.delOp_turns (s : State) (n : NodeId) (l : Letter) (id : Nat) : (s.delOp n l id).turns = s.turns := rfl
@[simp] theorem State.delOp_turnNo (s : State) (n : NodeId) (l : Letter) (id : Nat) : (s.delOp n l id).turnNo = s.turnNo := rfl
@[simp] theorem State.delOp_free (s : State) (n : NodeId) (l : Letter) (id : Nat) : (s.delOp n l id).free = s.free := rfl
@[simp] theorem State.delOp_cur (s : State) (n : NodeId) (l : Letter) (id : Nat) : (s.delOp n l id).cur = s.cur := rfl
@[simp] theorem State.delOp_ids (s : State) (n : NodeId) (l : Letter) (id : Nat) : (s.delOp n l id).ids = s.ids := rfl
@[simp] theorem State.delOp_cycle (s : State) (n : NodeId) (l : Letter) (id : Nat) : (s.delOp n l id).cycle = s.cycle := rfl
@[simp] theorem State.delOp_mem (s : State) (n : NodeId) (l : Letter) (id : Nat) : (s.delOp n l id).mem = s.mem := rfl
@[simp] theorem State.delOp_panels (s : State) (n : NodeId) (l : Letter) (id : Nat) : (s.delOp n l id).panels = s.panels := rfl
@[simp] theorem State.delOp_banks (s : State) (n : NodeId) (l : Letter) (id : Nat) : (s.delOp n l id).banks = s.banks := rfl
@[simp] theorem State.delOp_ctxs (s : State) (n : NodeId) (l : Letter) (id : Nat) : (s.delOp n l id).ctxs = s.ctxs := rfl
@[simp] theorem State.delOp_insts (s : State) (n : NodeId) (l : Letter) (id : Nat) : (s.delOp n l id).insts = s.insts := rfl
@[simp] theorem State.delOp_reqs (s : State) (n : NodeId) (l : Letter) (id : Nat) : (s.delOp n l id).reqs = s.reqs := rfl
@[simp] theorem State.delOp_bundles (s : State) (n : NodeId) (l : Letter) (id : Nat) : (s.delOp n l id).bundles = s.bundles := rfl
@[simp] theorem State.delOp_accs (s : State) (n : NodeId) (l : Letter) (id : Nat) : (s.delOp n l id).accs = s.accs := rfl
@[simp] theorem State.delOp_traps (s : State) (n : NodeId) (l : Letter) (id : Nat) : (s.delOp n l id).traps = s.traps := rfl
@[simp] theorem State.delOp_cores (s : State) (n : NodeId) (l : Letter) (id : Nat) : (s.delOp n l id).cores = s.cores := rfl
@[simp] theorem State.delOp_queues (s : State) (n : NodeId) (l : Letter) (id : Nat) : (s.delOp n l id).queues = s.queues := rfl
@[simp] theorem State.delOp_runs (s : State) (n : NodeId) (l : Letter) (id : Nat) : (s.delOp n l id).runs = s.runs := rfl
@[simp] theorem State.delOp_qcopies (s : State) (n : NodeId) (l : Letter) (id : Nat) : (s.delOp n l id).qcopies = s.qcopies := rfl
@[simp] theorem State.delOp_copyNext (s : State) (n : NodeId) (l : Letter) (id : Nat) : (s.delOp n l id).copyNext = s.copyNext := rfl
@[simp] theorem State.delOp_rr (s : State) (n : NodeId) (l : Letter) (id : Nat) : (s.delOp n l id).rr = s.rr := rfl
@[simp] theorem State.delOp_dispAt (s : State) (n : NodeId) (l : Letter) (id : Nat) : (s.delOp n l id).dispAt = s.dispAt := rfl
@[simp] theorem State.delOp_barEval (s : State) (n : NodeId) (l : Letter) (id : Nat) : (s.delOp n l id).barEval = s.barEval := rfl
@[simp] theorem State.delOp_tiles (s : State) (n : NodeId) (l : Letter) (id : Nat) : (s.delOp n l id).tiles = s.tiles := rfl
@[simp] theorem State.delOp_walks (s : State) (n : NodeId) (l : Letter) (id : Nat) : (s.delOp n l id).walks = s.walks := rfl
@[simp] theorem State.delOp_handles (s : State) (n : NodeId) (l : Letter) (id : Nat) : (s.delOp n l id).handles = s.handles := rfl
@[simp] theorem State.delOp_lunits (s : State) (n : NodeId) (l : Letter) (id : Nat) : (s.delOp n l id).lunits = s.lunits := rfl
@[simp] theorem State.delOp_upsets (s : State) (n : NodeId) (l : Letter) (id : Nat) : (s.delOp n l id).upsets = s.upsets := rfl
@[simp] theorem State.delOp_used (s : State) (n : NodeId) (l : Letter) (id : Nat) : (s.delOp n l id).used = s.used := rfl
@[simp] theorem State.delOp_drr (s : State) (n : NodeId) (l : Letter) (id : Nat) : (s.delOp n l id).drr = s.drr := rfl
@[simp] theorem State.delOp_presses (s : State) (n : NodeId) (l : Letter) (id : Nat) : (s.delOp n l id).presses = s.presses := rfl
@[simp] theorem State.delOp_pcache (s : State) (n : NodeId) (l : Letter) (id : Nat) : (s.delOp n l id).pcache = s.pcache := rfl
@[simp] theorem State.delOp_fetches (s : State) (n : NodeId) (l : Letter) (id : Nat) : (s.delOp n l id).fetches = s.fetches := rfl
@[simp] theorem State.delOp_vfs (s : State) (n : NodeId) (l : Letter) (id : Nat) : (s.delOp n l id).vfs = s.vfs := rfl
@[simp] theorem State.delOp_parts (s : State) (n : NodeId) (l : Letter) (id : Nat) : (s.delOp n l id).parts = s.parts := rfl
@[simp] theorem State.delOp_ports (s : State) (n : NodeId) (l : Letter) (id : Nat) : (s.delOp n l id).ports = s.ports := rfl
@[simp] theorem State.delOp_peers (s : State) (n : NodeId) (l : Letter) (id : Nat) : (s.delOp n l id).peers = s.peers := rfl
@[simp] theorem State.delOp_ends (s : State) (n : NodeId) (l : Letter) (id : Nat) : (s.delOp n l id).ends = s.ends := rfl
@[simp] theorem State.delOp_served (s : State) (n : NodeId) (l : Letter) (id : Nat) : (s.delOp n l id).served = s.served := rfl
@[simp] theorem State.delOp_netOut (s : State) (n : NodeId) (l : Letter) (id : Nat) : (s.delOp n l id).netOut = s.netOut := rfl
@[simp] theorem State.delOp_peerOut (s : State) (n : NodeId) (l : Letter) (id : Nat) : (s.delOp n l id).peerOut = s.peerOut := rfl
@[simp] theorem State.delOp_replies (s : State) (n : NodeId) (l : Letter) (id : Nat) : (s.delOp n l id).replies = s.replies := rfl
@[simp] theorem State.delOp_notes (s : State) (n : NodeId) (l : Letter) (id : Nat) : (s.delOp n l id).notes = s.notes := rfl
@[simp] theorem State.delOp_dev (s : State) (n : NodeId) (l : Letter) (id : Nat) : (s.delOp n l id).dev = s.dev := rfl

/-! ### `updPanel` -/

@[simp] theorem State.updPanel_turns (s : State) (p : Nat) (f : Panel → Panel) : (s.updPanel p f).turns = s.turns := rfl
@[simp] theorem State.updPanel_turnNo (s : State) (p : Nat) (f : Panel → Panel) : (s.updPanel p f).turnNo = s.turnNo := rfl
@[simp] theorem State.updPanel_free (s : State) (p : Nat) (f : Panel → Panel) : (s.updPanel p f).free = s.free := rfl
@[simp] theorem State.updPanel_cur (s : State) (p : Nat) (f : Panel → Panel) : (s.updPanel p f).cur = s.cur := rfl
@[simp] theorem State.updPanel_ids (s : State) (p : Nat) (f : Panel → Panel) : (s.updPanel p f).ids = s.ids := rfl
@[simp] theorem State.updPanel_cycle (s : State) (p : Nat) (f : Panel → Panel) : (s.updPanel p f).cycle = s.cycle := rfl
@[simp] theorem State.updPanel_mem (s : State) (p : Nat) (f : Panel → Panel) : (s.updPanel p f).mem = s.mem := rfl
@[simp] theorem State.updPanel_nodes (s : State) (p : Nat) (f : Panel → Panel) : (s.updPanel p f).nodes = s.nodes := rfl
@[simp] theorem State.updPanel_panels (s : State) (p : Nat) (f : Panel → Panel) : (s.updPanel p f).panels = mupd s.panels p f := rfl
@[simp] theorem State.updPanel_banks (s : State) (p : Nat) (f : Panel → Panel) : (s.updPanel p f).banks = s.banks := rfl
@[simp] theorem State.updPanel_ctxs (s : State) (p : Nat) (f : Panel → Panel) : (s.updPanel p f).ctxs = s.ctxs := rfl
@[simp] theorem State.updPanel_insts (s : State) (p : Nat) (f : Panel → Panel) : (s.updPanel p f).insts = s.insts := rfl
@[simp] theorem State.updPanel_reqs (s : State) (p : Nat) (f : Panel → Panel) : (s.updPanel p f).reqs = s.reqs := rfl
@[simp] theorem State.updPanel_bundles (s : State) (p : Nat) (f : Panel → Panel) : (s.updPanel p f).bundles = s.bundles := rfl
@[simp] theorem State.updPanel_accs (s : State) (p : Nat) (f : Panel → Panel) : (s.updPanel p f).accs = s.accs := rfl
@[simp] theorem State.updPanel_traps (s : State) (p : Nat) (f : Panel → Panel) : (s.updPanel p f).traps = s.traps := rfl
@[simp] theorem State.updPanel_cores (s : State) (p : Nat) (f : Panel → Panel) : (s.updPanel p f).cores = s.cores := rfl
@[simp] theorem State.updPanel_queues (s : State) (p : Nat) (f : Panel → Panel) : (s.updPanel p f).queues = s.queues := rfl
@[simp] theorem State.updPanel_runs (s : State) (p : Nat) (f : Panel → Panel) : (s.updPanel p f).runs = s.runs := rfl
@[simp] theorem State.updPanel_qcopies (s : State) (p : Nat) (f : Panel → Panel) : (s.updPanel p f).qcopies = s.qcopies := rfl
@[simp] theorem State.updPanel_copyNext (s : State) (p : Nat) (f : Panel → Panel) : (s.updPanel p f).copyNext = s.copyNext := rfl
@[simp] theorem State.updPanel_rr (s : State) (p : Nat) (f : Panel → Panel) : (s.updPanel p f).rr = s.rr := rfl
@[simp] theorem State.updPanel_dispAt (s : State) (p : Nat) (f : Panel → Panel) : (s.updPanel p f).dispAt = s.dispAt := rfl
@[simp] theorem State.updPanel_barEval (s : State) (p : Nat) (f : Panel → Panel) : (s.updPanel p f).barEval = s.barEval := rfl
@[simp] theorem State.updPanel_tiles (s : State) (p : Nat) (f : Panel → Panel) : (s.updPanel p f).tiles = s.tiles := rfl
@[simp] theorem State.updPanel_walks (s : State) (p : Nat) (f : Panel → Panel) : (s.updPanel p f).walks = s.walks := rfl
@[simp] theorem State.updPanel_handles (s : State) (p : Nat) (f : Panel → Panel) : (s.updPanel p f).handles = s.handles := rfl
@[simp] theorem State.updPanel_lunits (s : State) (p : Nat) (f : Panel → Panel) : (s.updPanel p f).lunits = s.lunits := rfl
@[simp] theorem State.updPanel_upsets (s : State) (p : Nat) (f : Panel → Panel) : (s.updPanel p f).upsets = s.upsets := rfl
@[simp] theorem State.updPanel_used (s : State) (p : Nat) (f : Panel → Panel) : (s.updPanel p f).used = s.used := rfl
@[simp] theorem State.updPanel_drr (s : State) (p : Nat) (f : Panel → Panel) : (s.updPanel p f).drr = s.drr := rfl
@[simp] theorem State.updPanel_presses (s : State) (p : Nat) (f : Panel → Panel) : (s.updPanel p f).presses = s.presses := rfl
@[simp] theorem State.updPanel_pcache (s : State) (p : Nat) (f : Panel → Panel) : (s.updPanel p f).pcache = s.pcache := rfl
@[simp] theorem State.updPanel_fetches (s : State) (p : Nat) (f : Panel → Panel) : (s.updPanel p f).fetches = s.fetches := rfl
@[simp] theorem State.updPanel_vfs (s : State) (p : Nat) (f : Panel → Panel) : (s.updPanel p f).vfs = s.vfs := rfl
@[simp] theorem State.updPanel_parts (s : State) (p : Nat) (f : Panel → Panel) : (s.updPanel p f).parts = s.parts := rfl
@[simp] theorem State.updPanel_ports (s : State) (p : Nat) (f : Panel → Panel) : (s.updPanel p f).ports = s.ports := rfl
@[simp] theorem State.updPanel_peers (s : State) (p : Nat) (f : Panel → Panel) : (s.updPanel p f).peers = s.peers := rfl
@[simp] theorem State.updPanel_ends (s : State) (p : Nat) (f : Panel → Panel) : (s.updPanel p f).ends = s.ends := rfl
@[simp] theorem State.updPanel_served (s : State) (p : Nat) (f : Panel → Panel) : (s.updPanel p f).served = s.served := rfl
@[simp] theorem State.updPanel_netOut (s : State) (p : Nat) (f : Panel → Panel) : (s.updPanel p f).netOut = s.netOut := rfl
@[simp] theorem State.updPanel_peerOut (s : State) (p : Nat) (f : Panel → Panel) : (s.updPanel p f).peerOut = s.peerOut := rfl
@[simp] theorem State.updPanel_replies (s : State) (p : Nat) (f : Panel → Panel) : (s.updPanel p f).replies = s.replies := rfl
@[simp] theorem State.updPanel_notes (s : State) (p : Nat) (f : Panel → Panel) : (s.updPanel p f).notes = s.notes := rfl
@[simp] theorem State.updPanel_dev (s : State) (p : Nat) (f : Panel → Panel) : (s.updPanel p f).dev = s.dev := rfl

/-! ### `updSide` -/

@[simp] theorem State.updSide_turns (s : State) (p : Nat) (l : Letter) (f : PanelSide → PanelSide) : (s.updSide p l f).turns = s.turns := rfl
@[simp] theorem State.updSide_turnNo (s : State) (p : Nat) (l : Letter) (f : PanelSide → PanelSide) : (s.updSide p l f).turnNo = s.turnNo := rfl
@[simp] theorem State.updSide_free (s : State) (p : Nat) (l : Letter) (f : PanelSide → PanelSide) : (s.updSide p l f).free = s.free := rfl
@[simp] theorem State.updSide_cur (s : State) (p : Nat) (l : Letter) (f : PanelSide → PanelSide) : (s.updSide p l f).cur = s.cur := rfl
@[simp] theorem State.updSide_ids (s : State) (p : Nat) (l : Letter) (f : PanelSide → PanelSide) : (s.updSide p l f).ids = s.ids := rfl
@[simp] theorem State.updSide_cycle (s : State) (p : Nat) (l : Letter) (f : PanelSide → PanelSide) : (s.updSide p l f).cycle = s.cycle := rfl
@[simp] theorem State.updSide_mem (s : State) (p : Nat) (l : Letter) (f : PanelSide → PanelSide) : (s.updSide p l f).mem = s.mem := rfl
@[simp] theorem State.updSide_nodes (s : State) (p : Nat) (l : Letter) (f : PanelSide → PanelSide) : (s.updSide p l f).nodes = s.nodes := rfl
@[simp] theorem State.updSide_banks (s : State) (p : Nat) (l : Letter) (f : PanelSide → PanelSide) : (s.updSide p l f).banks = s.banks := rfl
@[simp] theorem State.updSide_ctxs (s : State) (p : Nat) (l : Letter) (f : PanelSide → PanelSide) : (s.updSide p l f).ctxs = s.ctxs := rfl
@[simp] theorem State.updSide_insts (s : State) (p : Nat) (l : Letter) (f : PanelSide → PanelSide) : (s.updSide p l f).insts = s.insts := rfl
@[simp] theorem State.updSide_reqs (s : State) (p : Nat) (l : Letter) (f : PanelSide → PanelSide) : (s.updSide p l f).reqs = s.reqs := rfl
@[simp] theorem State.updSide_bundles (s : State) (p : Nat) (l : Letter) (f : PanelSide → PanelSide) : (s.updSide p l f).bundles = s.bundles := rfl
@[simp] theorem State.updSide_accs (s : State) (p : Nat) (l : Letter) (f : PanelSide → PanelSide) : (s.updSide p l f).accs = s.accs := rfl
@[simp] theorem State.updSide_traps (s : State) (p : Nat) (l : Letter) (f : PanelSide → PanelSide) : (s.updSide p l f).traps = s.traps := rfl
@[simp] theorem State.updSide_cores (s : State) (p : Nat) (l : Letter) (f : PanelSide → PanelSide) : (s.updSide p l f).cores = s.cores := rfl
@[simp] theorem State.updSide_queues (s : State) (p : Nat) (l : Letter) (f : PanelSide → PanelSide) : (s.updSide p l f).queues = s.queues := rfl
@[simp] theorem State.updSide_runs (s : State) (p : Nat) (l : Letter) (f : PanelSide → PanelSide) : (s.updSide p l f).runs = s.runs := rfl
@[simp] theorem State.updSide_qcopies (s : State) (p : Nat) (l : Letter) (f : PanelSide → PanelSide) : (s.updSide p l f).qcopies = s.qcopies := rfl
@[simp] theorem State.updSide_copyNext (s : State) (p : Nat) (l : Letter) (f : PanelSide → PanelSide) : (s.updSide p l f).copyNext = s.copyNext := rfl
@[simp] theorem State.updSide_rr (s : State) (p : Nat) (l : Letter) (f : PanelSide → PanelSide) : (s.updSide p l f).rr = s.rr := rfl
@[simp] theorem State.updSide_dispAt (s : State) (p : Nat) (l : Letter) (f : PanelSide → PanelSide) : (s.updSide p l f).dispAt = s.dispAt := rfl
@[simp] theorem State.updSide_barEval (s : State) (p : Nat) (l : Letter) (f : PanelSide → PanelSide) : (s.updSide p l f).barEval = s.barEval := rfl
@[simp] theorem State.updSide_tiles (s : State) (p : Nat) (l : Letter) (f : PanelSide → PanelSide) : (s.updSide p l f).tiles = s.tiles := rfl
@[simp] theorem State.updSide_walks (s : State) (p : Nat) (l : Letter) (f : PanelSide → PanelSide) : (s.updSide p l f).walks = s.walks := rfl
@[simp] theorem State.updSide_handles (s : State) (p : Nat) (l : Letter) (f : PanelSide → PanelSide) : (s.updSide p l f).handles = s.handles := rfl
@[simp] theorem State.updSide_lunits (s : State) (p : Nat) (l : Letter) (f : PanelSide → PanelSide) : (s.updSide p l f).lunits = s.lunits := rfl
@[simp] theorem State.updSide_upsets (s : State) (p : Nat) (l : Letter) (f : PanelSide → PanelSide) : (s.updSide p l f).upsets = s.upsets := rfl
@[simp] theorem State.updSide_used (s : State) (p : Nat) (l : Letter) (f : PanelSide → PanelSide) : (s.updSide p l f).used = s.used := rfl
@[simp] theorem State.updSide_drr (s : State) (p : Nat) (l : Letter) (f : PanelSide → PanelSide) : (s.updSide p l f).drr = s.drr := rfl
@[simp] theorem State.updSide_presses (s : State) (p : Nat) (l : Letter) (f : PanelSide → PanelSide) : (s.updSide p l f).presses = s.presses := rfl
@[simp] theorem State.updSide_pcache (s : State) (p : Nat) (l : Letter) (f : PanelSide → PanelSide) : (s.updSide p l f).pcache = s.pcache := rfl
@[simp] theorem State.updSide_fetches (s : State) (p : Nat) (l : Letter) (f : PanelSide → PanelSide) : (s.updSide p l f).fetches = s.fetches := rfl
@[simp] theorem State.updSide_vfs (s : State) (p : Nat) (l : Letter) (f : PanelSide → PanelSide) : (s.updSide p l f).vfs = s.vfs := rfl
@[simp] theorem State.updSide_parts (s : State) (p : Nat) (l : Letter) (f : PanelSide → PanelSide) : (s.updSide p l f).parts = s.parts := rfl
@[simp] theorem State.updSide_ports (s : State) (p : Nat) (l : Letter) (f : PanelSide → PanelSide) : (s.updSide p l f).ports = s.ports := rfl
@[simp] theorem State.updSide_peers (s : State) (p : Nat) (l : Letter) (f : PanelSide → PanelSide) : (s.updSide p l f).peers = s.peers := rfl
@[simp] theorem State.updSide_ends (s : State) (p : Nat) (l : Letter) (f : PanelSide → PanelSide) : (s.updSide p l f).ends = s.ends := rfl
@[simp] theorem State.updSide_served (s : State) (p : Nat) (l : Letter) (f : PanelSide → PanelSide) : (s.updSide p l f).served = s.served := rfl
@[simp] theorem State.updSide_netOut (s : State) (p : Nat) (l : Letter) (f : PanelSide → PanelSide) : (s.updSide p l f).netOut = s.netOut := rfl
@[simp] theorem State.updSide_peerOut (s : State) (p : Nat) (l : Letter) (f : PanelSide → PanelSide) : (s.updSide p l f).peerOut = s.peerOut := rfl
@[simp] theorem State.updSide_replies (s : State) (p : Nat) (l : Letter) (f : PanelSide → PanelSide) : (s.updSide p l f).replies = s.replies := rfl
@[simp] theorem State.updSide_notes (s : State) (p : Nat) (l : Letter) (f : PanelSide → PanelSide) : (s.updSide p l f).notes = s.notes := rfl
@[simp] theorem State.updSide_dev (s : State) (p : Nat) (l : Letter) (f : PanelSide → PanelSide) : (s.updSide p l f).dev = s.dev := rfl

/-! ### `updInst` -/

@[simp] theorem State.updInst_turns (s : State) (i : Nat) (f : Inst → Inst) : (s.updInst i f).turns = s.turns := rfl
@[simp] theorem State.updInst_turnNo (s : State) (i : Nat) (f : Inst → Inst) : (s.updInst i f).turnNo = s.turnNo := rfl
@[simp] theorem State.updInst_free (s : State) (i : Nat) (f : Inst → Inst) : (s.updInst i f).free = s.free := rfl
@[simp] theorem State.updInst_cur (s : State) (i : Nat) (f : Inst → Inst) : (s.updInst i f).cur = s.cur := rfl
@[simp] theorem State.updInst_ids (s : State) (i : Nat) (f : Inst → Inst) : (s.updInst i f).ids = s.ids := rfl
@[simp] theorem State.updInst_cycle (s : State) (i : Nat) (f : Inst → Inst) : (s.updInst i f).cycle = s.cycle := rfl
@[simp] theorem State.updInst_mem (s : State) (i : Nat) (f : Inst → Inst) : (s.updInst i f).mem = s.mem := rfl
@[simp] theorem State.updInst_nodes (s : State) (i : Nat) (f : Inst → Inst) : (s.updInst i f).nodes = s.nodes := rfl
@[simp] theorem State.updInst_panels (s : State) (i : Nat) (f : Inst → Inst) : (s.updInst i f).panels = s.panels := rfl
@[simp] theorem State.updInst_banks (s : State) (i : Nat) (f : Inst → Inst) : (s.updInst i f).banks = s.banks := rfl
@[simp] theorem State.updInst_ctxs (s : State) (i : Nat) (f : Inst → Inst) : (s.updInst i f).ctxs = s.ctxs := rfl
@[simp] theorem State.updInst_insts (s : State) (i : Nat) (f : Inst → Inst) : (s.updInst i f).insts = mupd s.insts i f := rfl
@[simp] theorem State.updInst_reqs (s : State) (i : Nat) (f : Inst → Inst) : (s.updInst i f).reqs = s.reqs := rfl
@[simp] theorem State.updInst_bundles (s : State) (i : Nat) (f : Inst → Inst) : (s.updInst i f).bundles = s.bundles := rfl
@[simp] theorem State.updInst_accs (s : State) (i : Nat) (f : Inst → Inst) : (s.updInst i f).accs = s.accs := rfl
@[simp] theorem State.updInst_traps (s : State) (i : Nat) (f : Inst → Inst) : (s.updInst i f).traps = s.traps := rfl
@[simp] theorem State.updInst_cores (s : State) (i : Nat) (f : Inst → Inst) : (s.updInst i f).cores = s.cores := rfl
@[simp] theorem State.updInst_queues (s : State) (i : Nat) (f : Inst → Inst) : (s.updInst i f).queues = s.queues := rfl
@[simp] theorem State.updInst_runs (s : State) (i : Nat) (f : Inst → Inst) : (s.updInst i f).runs = s.runs := rfl
@[simp] theorem State.updInst_qcopies (s : State) (i : Nat) (f : Inst → Inst) : (s.updInst i f).qcopies = s.qcopies := rfl
@[simp] theorem State.updInst_copyNext (s : State) (i : Nat) (f : Inst → Inst) : (s.updInst i f).copyNext = s.copyNext := rfl
@[simp] theorem State.updInst_rr (s : State) (i : Nat) (f : Inst → Inst) : (s.updInst i f).rr = s.rr := rfl
@[simp] theorem State.updInst_dispAt (s : State) (i : Nat) (f : Inst → Inst) : (s.updInst i f).dispAt = s.dispAt := rfl
@[simp] theorem State.updInst_barEval (s : State) (i : Nat) (f : Inst → Inst) : (s.updInst i f).barEval = s.barEval := rfl
@[simp] theorem State.updInst_tiles (s : State) (i : Nat) (f : Inst → Inst) : (s.updInst i f).tiles = s.tiles := rfl
@[simp] theorem State.updInst_walks (s : State) (i : Nat) (f : Inst → Inst) : (s.updInst i f).walks = s.walks := rfl
@[simp] theorem State.updInst_handles (s : State) (i : Nat) (f : Inst → Inst) : (s.updInst i f).handles = s.handles := rfl
@[simp] theorem State.updInst_lunits (s : State) (i : Nat) (f : Inst → Inst) : (s.updInst i f).lunits = s.lunits := rfl
@[simp] theorem State.updInst_upsets (s : State) (i : Nat) (f : Inst → Inst) : (s.updInst i f).upsets = s.upsets := rfl
@[simp] theorem State.updInst_used (s : State) (i : Nat) (f : Inst → Inst) : (s.updInst i f).used = s.used := rfl
@[simp] theorem State.updInst_drr (s : State) (i : Nat) (f : Inst → Inst) : (s.updInst i f).drr = s.drr := rfl
@[simp] theorem State.updInst_presses (s : State) (i : Nat) (f : Inst → Inst) : (s.updInst i f).presses = s.presses := rfl
@[simp] theorem State.updInst_pcache (s : State) (i : Nat) (f : Inst → Inst) : (s.updInst i f).pcache = s.pcache := rfl
@[simp] theorem State.updInst_fetches (s : State) (i : Nat) (f : Inst → Inst) : (s.updInst i f).fetches = s.fetches := rfl
@[simp] theorem State.updInst_vfs (s : State) (i : Nat) (f : Inst → Inst) : (s.updInst i f).vfs = s.vfs := rfl
@[simp] theorem State.updInst_parts (s : State) (i : Nat) (f : Inst → Inst) : (s.updInst i f).parts = s.parts := rfl
@[simp] theorem State.updInst_ports (s : State) (i : Nat) (f : Inst → Inst) : (s.updInst i f).ports = s.ports := rfl
@[simp] theorem State.updInst_peers (s : State) (i : Nat) (f : Inst → Inst) : (s.updInst i f).peers = s.peers := rfl
@[simp] theorem State.updInst_ends (s : State) (i : Nat) (f : Inst → Inst) : (s.updInst i f).ends = s.ends := rfl
@[simp] theorem State.updInst_served (s : State) (i : Nat) (f : Inst → Inst) : (s.updInst i f).served = s.served := rfl
@[simp] theorem State.updInst_netOut (s : State) (i : Nat) (f : Inst → Inst) : (s.updInst i f).netOut = s.netOut := rfl
@[simp] theorem State.updInst_peerOut (s : State) (i : Nat) (f : Inst → Inst) : (s.updInst i f).peerOut = s.peerOut := rfl
@[simp] theorem State.updInst_replies (s : State) (i : Nat) (f : Inst → Inst) : (s.updInst i f).replies = s.replies := rfl
@[simp] theorem State.updInst_notes (s : State) (i : Nat) (f : Inst → Inst) : (s.updInst i f).notes = s.notes := rfl
@[simp] theorem State.updInst_dev (s : State) (i : Nat) (f : Inst → Inst) : (s.updInst i f).dev = s.dev := rfl

/-! ### `updCtx` -/

@[simp] theorem State.updCtx_turns (s : State) (c : Nat) (f : Ctx → Ctx) : (s.updCtx c f).turns = s.turns := rfl
@[simp] theorem State.updCtx_turnNo (s : State) (c : Nat) (f : Ctx → Ctx) : (s.updCtx c f).turnNo = s.turnNo := rfl
@[simp] theorem State.updCtx_free (s : State) (c : Nat) (f : Ctx → Ctx) : (s.updCtx c f).free = s.free := rfl
@[simp] theorem State.updCtx_cur (s : State) (c : Nat) (f : Ctx → Ctx) : (s.updCtx c f).cur = s.cur := rfl
@[simp] theorem State.updCtx_ids (s : State) (c : Nat) (f : Ctx → Ctx) : (s.updCtx c f).ids = s.ids := rfl
@[simp] theorem State.updCtx_cycle (s : State) (c : Nat) (f : Ctx → Ctx) : (s.updCtx c f).cycle = s.cycle := rfl
@[simp] theorem State.updCtx_mem (s : State) (c : Nat) (f : Ctx → Ctx) : (s.updCtx c f).mem = s.mem := rfl
@[simp] theorem State.updCtx_nodes (s : State) (c : Nat) (f : Ctx → Ctx) : (s.updCtx c f).nodes = s.nodes := rfl
@[simp] theorem State.updCtx_panels (s : State) (c : Nat) (f : Ctx → Ctx) : (s.updCtx c f).panels = s.panels := rfl
@[simp] theorem State.updCtx_banks (s : State) (c : Nat) (f : Ctx → Ctx) : (s.updCtx c f).banks = s.banks := rfl
@[simp] theorem State.updCtx_ctxs (s : State) (c : Nat) (f : Ctx → Ctx) : (s.updCtx c f).ctxs = mupd s.ctxs c f := rfl
@[simp] theorem State.updCtx_insts (s : State) (c : Nat) (f : Ctx → Ctx) : (s.updCtx c f).insts = s.insts := rfl
@[simp] theorem State.updCtx_reqs (s : State) (c : Nat) (f : Ctx → Ctx) : (s.updCtx c f).reqs = s.reqs := rfl
@[simp] theorem State.updCtx_bundles (s : State) (c : Nat) (f : Ctx → Ctx) : (s.updCtx c f).bundles = s.bundles := rfl
@[simp] theorem State.updCtx_accs (s : State) (c : Nat) (f : Ctx → Ctx) : (s.updCtx c f).accs = s.accs := rfl
@[simp] theorem State.updCtx_traps (s : State) (c : Nat) (f : Ctx → Ctx) : (s.updCtx c f).traps = s.traps := rfl
@[simp] theorem State.updCtx_cores (s : State) (c : Nat) (f : Ctx → Ctx) : (s.updCtx c f).cores = s.cores := rfl
@[simp] theorem State.updCtx_queues (s : State) (c : Nat) (f : Ctx → Ctx) : (s.updCtx c f).queues = s.queues := rfl
@[simp] theorem State.updCtx_runs (s : State) (c : Nat) (f : Ctx → Ctx) : (s.updCtx c f).runs = s.runs := rfl
@[simp] theorem State.updCtx_qcopies (s : State) (c : Nat) (f : Ctx → Ctx) : (s.updCtx c f).qcopies = s.qcopies := rfl
@[simp] theorem State.updCtx_copyNext (s : State) (c : Nat) (f : Ctx → Ctx) : (s.updCtx c f).copyNext = s.copyNext := rfl
@[simp] theorem State.updCtx_rr (s : State) (c : Nat) (f : Ctx → Ctx) : (s.updCtx c f).rr = s.rr := rfl
@[simp] theorem State.updCtx_dispAt (s : State) (c : Nat) (f : Ctx → Ctx) : (s.updCtx c f).dispAt = s.dispAt := rfl
@[simp] theorem State.updCtx_barEval (s : State) (c : Nat) (f : Ctx → Ctx) : (s.updCtx c f).barEval = s.barEval := rfl
@[simp] theorem State.updCtx_tiles (s : State) (c : Nat) (f : Ctx → Ctx) : (s.updCtx c f).tiles = s.tiles := rfl
@[simp] theorem State.updCtx_walks (s : State) (c : Nat) (f : Ctx → Ctx) : (s.updCtx c f).walks = s.walks := rfl
@[simp] theorem State.updCtx_handles (s : State) (c : Nat) (f : Ctx → Ctx) : (s.updCtx c f).handles = s.handles := rfl
@[simp] theorem State.updCtx_lunits (s : State) (c : Nat) (f : Ctx → Ctx) : (s.updCtx c f).lunits = s.lunits := rfl
@[simp] theorem State.updCtx_upsets (s : State) (c : Nat) (f : Ctx → Ctx) : (s.updCtx c f).upsets = s.upsets := rfl
@[simp] theorem State.updCtx_used (s : State) (c : Nat) (f : Ctx → Ctx) : (s.updCtx c f).used = s.used := rfl
@[simp] theorem State.updCtx_drr (s : State) (c : Nat) (f : Ctx → Ctx) : (s.updCtx c f).drr = s.drr := rfl
@[simp] theorem State.updCtx_presses (s : State) (c : Nat) (f : Ctx → Ctx) : (s.updCtx c f).presses = s.presses := rfl
@[simp] theorem State.updCtx_pcache (s : State) (c : Nat) (f : Ctx → Ctx) : (s.updCtx c f).pcache = s.pcache := rfl
@[simp] theorem State.updCtx_fetches (s : State) (c : Nat) (f : Ctx → Ctx) : (s.updCtx c f).fetches = s.fetches := rfl
@[simp] theorem State.updCtx_vfs (s : State) (c : Nat) (f : Ctx → Ctx) : (s.updCtx c f).vfs = s.vfs := rfl
@[simp] theorem State.updCtx_parts (s : State) (c : Nat) (f : Ctx → Ctx) : (s.updCtx c f).parts = s.parts := rfl
@[simp] theorem State.updCtx_ports (s : State) (c : Nat) (f : Ctx → Ctx) : (s.updCtx c f).ports = s.ports := rfl
@[simp] theorem State.updCtx_peers (s : State) (c : Nat) (f : Ctx → Ctx) : (s.updCtx c f).peers = s.peers := rfl
@[simp] theorem State.updCtx_ends (s : State) (c : Nat) (f : Ctx → Ctx) : (s.updCtx c f).ends = s.ends := rfl
@[simp] theorem State.updCtx_served (s : State) (c : Nat) (f : Ctx → Ctx) : (s.updCtx c f).served = s.served := rfl
@[simp] theorem State.updCtx_netOut (s : State) (c : Nat) (f : Ctx → Ctx) : (s.updCtx c f).netOut = s.netOut := rfl
@[simp] theorem State.updCtx_peerOut (s : State) (c : Nat) (f : Ctx → Ctx) : (s.updCtx c f).peerOut = s.peerOut := rfl
@[simp] theorem State.updCtx_replies (s : State) (c : Nat) (f : Ctx → Ctx) : (s.updCtx c f).replies = s.replies := rfl
@[simp] theorem State.updCtx_notes (s : State) (c : Nat) (f : Ctx → Ctx) : (s.updCtx c f).notes = s.notes := rfl
@[simp] theorem State.updCtx_dev (s : State) (c : Nat) (f : Ctx → Ctx) : (s.updCtx c f).dev = s.dev := rfl

/-! ### `updCore` -/

@[simp] theorem State.updCore_turns (s : State) (c : Nat) (f : Core → Core) : (s.updCore c f).turns = s.turns := rfl
@[simp] theorem State.updCore_turnNo (s : State) (c : Nat) (f : Core → Core) : (s.updCore c f).turnNo = s.turnNo := rfl
@[simp] theorem State.updCore_free (s : State) (c : Nat) (f : Core → Core) : (s.updCore c f).free = s.free := rfl
@[simp] theorem State.updCore_cur (s : State) (c : Nat) (f : Core → Core) : (s.updCore c f).cur = s.cur := rfl
@[simp] theorem State.updCore_ids (s : State) (c : Nat) (f : Core → Core) : (s.updCore c f).ids = s.ids := rfl
@[simp] theorem State.updCore_cycle (s : State) (c : Nat) (f : Core → Core) : (s.updCore c f).cycle = s.cycle := rfl
@[simp] theorem State.updCore_mem (s : State) (c : Nat) (f : Core → Core) : (s.updCore c f).mem = s.mem := rfl
@[simp] theorem State.updCore_nodes (s : State) (c : Nat) (f : Core → Core) : (s.updCore c f).nodes = s.nodes := rfl
@[simp] theorem State.updCore_panels (s : State) (c : Nat) (f : Core → Core) : (s.updCore c f).panels = s.panels := rfl
@[simp] theorem State.updCore_banks (s : State) (c : Nat) (f : Core → Core) : (s.updCore c f).banks = s.banks := rfl
@[simp] theorem State.updCore_ctxs (s : State) (c : Nat) (f : Core → Core) : (s.updCore c f).ctxs = s.ctxs := rfl
@[simp] theorem State.updCore_insts (s : State) (c : Nat) (f : Core → Core) : (s.updCore c f).insts = s.insts := rfl
@[simp] theorem State.updCore_reqs (s : State) (c : Nat) (f : Core → Core) : (s.updCore c f).reqs = s.reqs := rfl
@[simp] theorem State.updCore_bundles (s : State) (c : Nat) (f : Core → Core) : (s.updCore c f).bundles = s.bundles := rfl
@[simp] theorem State.updCore_accs (s : State) (c : Nat) (f : Core → Core) : (s.updCore c f).accs = s.accs := rfl
@[simp] theorem State.updCore_traps (s : State) (c : Nat) (f : Core → Core) : (s.updCore c f).traps = s.traps := rfl
@[simp] theorem State.updCore_cores (s : State) (c : Nat) (f : Core → Core) : (s.updCore c f).cores = mupd s.cores c f := rfl
@[simp] theorem State.updCore_queues (s : State) (c : Nat) (f : Core → Core) : (s.updCore c f).queues = s.queues := rfl
@[simp] theorem State.updCore_runs (s : State) (c : Nat) (f : Core → Core) : (s.updCore c f).runs = s.runs := rfl
@[simp] theorem State.updCore_qcopies (s : State) (c : Nat) (f : Core → Core) : (s.updCore c f).qcopies = s.qcopies := rfl
@[simp] theorem State.updCore_copyNext (s : State) (c : Nat) (f : Core → Core) : (s.updCore c f).copyNext = s.copyNext := rfl
@[simp] theorem State.updCore_rr (s : State) (c : Nat) (f : Core → Core) : (s.updCore c f).rr = s.rr := rfl
@[simp] theorem State.updCore_dispAt (s : State) (c : Nat) (f : Core → Core) : (s.updCore c f).dispAt = s.dispAt := rfl
@[simp] theorem State.updCore_barEval (s : State) (c : Nat) (f : Core → Core) : (s.updCore c f).barEval = s.barEval := rfl
@[simp] theorem State.updCore_tiles (s : State) (c : Nat) (f : Core → Core) : (s.updCore c f).tiles = s.tiles := rfl
@[simp] theorem State.updCore_walks (s : State) (c : Nat) (f : Core → Core) : (s.updCore c f).walks = s.walks := rfl
@[simp] theorem State.updCore_handles (s : State) (c : Nat) (f : Core → Core) : (s.updCore c f).handles = s.handles := rfl
@[simp] theorem State.updCore_lunits (s : State) (c : Nat) (f : Core → Core) : (s.updCore c f).lunits = s.lunits := rfl
@[simp] theorem State.updCore_upsets (s : State) (c : Nat) (f : Core → Core) : (s.updCore c f).upsets = s.upsets := rfl
@[simp] theorem State.updCore_used (s : State) (c : Nat) (f : Core → Core) : (s.updCore c f).used = s.used := rfl
@[simp] theorem State.updCore_drr (s : State) (c : Nat) (f : Core → Core) : (s.updCore c f).drr = s.drr := rfl
@[simp] theorem State.updCore_presses (s : State) (c : Nat) (f : Core → Core) : (s.updCore c f).presses = s.presses := rfl
@[simp] theorem State.updCore_pcache (s : State) (c : Nat) (f : Core → Core) : (s.updCore c f).pcache = s.pcache := rfl
@[simp] theorem State.updCore_fetches (s : State) (c : Nat) (f : Core → Core) : (s.updCore c f).fetches = s.fetches := rfl
@[simp] theorem State.updCore_vfs (s : State) (c : Nat) (f : Core → Core) : (s.updCore c f).vfs = s.vfs := rfl
@[simp] theorem State.updCore_parts (s : State) (c : Nat) (f : Core → Core) : (s.updCore c f).parts = s.parts := rfl
@[simp] theorem State.updCore_ports (s : State) (c : Nat) (f : Core → Core) : (s.updCore c f).ports = s.ports := rfl
@[simp] theorem State.updCore_peers (s : State) (c : Nat) (f : Core → Core) : (s.updCore c f).peers = s.peers := rfl
@[simp] theorem State.updCore_ends (s : State) (c : Nat) (f : Core → Core) : (s.updCore c f).ends = s.ends := rfl
@[simp] theorem State.updCore_served (s : State) (c : Nat) (f : Core → Core) : (s.updCore c f).served = s.served := rfl
@[simp] theorem State.updCore_netOut (s : State) (c : Nat) (f : Core → Core) : (s.updCore c f).netOut = s.netOut := rfl
@[simp] theorem State.updCore_peerOut (s : State) (c : Nat) (f : Core → Core) : (s.updCore c f).peerOut = s.peerOut := rfl
@[simp] theorem State.updCore_replies (s : State) (c : Nat) (f : Core → Core) : (s.updCore c f).replies = s.replies := rfl
@[simp] theorem State.updCore_notes (s : State) (c : Nat) (f : Core → Core) : (s.updCore c f).notes = s.notes := rfl
@[simp] theorem State.updCore_dev (s : State) (c : Nat) (f : Core → Core) : (s.updCore c f).dev = s.dev := rfl

/-! ### `updDev` -/

@[simp] theorem State.updDev_turns (s : State) (f : Dev → Dev) : (s.updDev f).turns = s.turns := rfl
@[simp] theorem State.updDev_turnNo (s : State) (f : Dev → Dev) : (s.updDev f).turnNo = s.turnNo := rfl
@[simp] theorem State.updDev_free (s : State) (f : Dev → Dev) : (s.updDev f).free = s.free := rfl
@[simp] theorem State.updDev_cur (s : State) (f : Dev → Dev) : (s.updDev f).cur = s.cur := rfl
@[simp] theorem State.updDev_ids (s : State) (f : Dev → Dev) : (s.updDev f).ids = s.ids := rfl
@[simp] theorem State.updDev_cycle (s : State) (f : Dev → Dev) : (s.updDev f).cycle = s.cycle := rfl
@[simp] theorem State.updDev_mem (s : State) (f : Dev → Dev) : (s.updDev f).mem = s.mem := rfl
@[simp] theorem State.updDev_nodes (s : State) (f : Dev → Dev) : (s.updDev f).nodes = s.nodes := rfl
@[simp] theorem State.updDev_panels (s : State) (f : Dev → Dev) : (s.updDev f).panels = s.panels := rfl
@[simp] theorem State.updDev_banks (s : State) (f : Dev → Dev) : (s.updDev f).banks = s.banks := rfl
@[simp] theorem State.updDev_ctxs (s : State) (f : Dev → Dev) : (s.updDev f).ctxs = s.ctxs := rfl
@[simp] theorem State.updDev_insts (s : State) (f : Dev → Dev) : (s.updDev f).insts = s.insts := rfl
@[simp] theorem State.updDev_reqs (s : State) (f : Dev → Dev) : (s.updDev f).reqs = s.reqs := rfl
@[simp] theorem State.updDev_bundles (s : State) (f : Dev → Dev) : (s.updDev f).bundles = s.bundles := rfl
@[simp] theorem State.updDev_accs (s : State) (f : Dev → Dev) : (s.updDev f).accs = s.accs := rfl
@[simp] theorem State.updDev_traps (s : State) (f : Dev → Dev) : (s.updDev f).traps = s.traps := rfl
@[simp] theorem State.updDev_cores (s : State) (f : Dev → Dev) : (s.updDev f).cores = s.cores := rfl
@[simp] theorem State.updDev_queues (s : State) (f : Dev → Dev) : (s.updDev f).queues = s.queues := rfl
@[simp] theorem State.updDev_runs (s : State) (f : Dev → Dev) : (s.updDev f).runs = s.runs := rfl
@[simp] theorem State.updDev_qcopies (s : State) (f : Dev → Dev) : (s.updDev f).qcopies = s.qcopies := rfl
@[simp] theorem State.updDev_copyNext (s : State) (f : Dev → Dev) : (s.updDev f).copyNext = s.copyNext := rfl
@[simp] theorem State.updDev_rr (s : State) (f : Dev → Dev) : (s.updDev f).rr = s.rr := rfl
@[simp] theorem State.updDev_dispAt (s : State) (f : Dev → Dev) : (s.updDev f).dispAt = s.dispAt := rfl
@[simp] theorem State.updDev_barEval (s : State) (f : Dev → Dev) : (s.updDev f).barEval = s.barEval := rfl
@[simp] theorem State.updDev_tiles (s : State) (f : Dev → Dev) : (s.updDev f).tiles = s.tiles := rfl
@[simp] theorem State.updDev_walks (s : State) (f : Dev → Dev) : (s.updDev f).walks = s.walks := rfl
@[simp] theorem State.updDev_handles (s : State) (f : Dev → Dev) : (s.updDev f).handles = s.handles := rfl
@[simp] theorem State.updDev_lunits (s : State) (f : Dev → Dev) : (s.updDev f).lunits = s.lunits := rfl
@[simp] theorem State.updDev_upsets (s : State) (f : Dev → Dev) : (s.updDev f).upsets = s.upsets := rfl
@[simp] theorem State.updDev_used (s : State) (f : Dev → Dev) : (s.updDev f).used = s.used := rfl
@[simp] theorem State.updDev_drr (s : State) (f : Dev → Dev) : (s.updDev f).drr = s.drr := rfl
@[simp] theorem State.updDev_presses (s : State) (f : Dev → Dev) : (s.updDev f).presses = s.presses := rfl
@[simp] theorem State.updDev_pcache (s : State) (f : Dev → Dev) : (s.updDev f).pcache = s.pcache := rfl
@[simp] theorem State.updDev_fetches (s : State) (f : Dev → Dev) : (s.updDev f).fetches = s.fetches := rfl
@[simp] theorem State.updDev_vfs (s : State) (f : Dev → Dev) : (s.updDev f).vfs = s.vfs := rfl
@[simp] theorem State.updDev_parts (s : State) (f : Dev → Dev) : (s.updDev f).parts = s.parts := rfl
@[simp] theorem State.updDev_ports (s : State) (f : Dev → Dev) : (s.updDev f).ports = s.ports := rfl
@[simp] theorem State.updDev_peers (s : State) (f : Dev → Dev) : (s.updDev f).peers = s.peers := rfl
@[simp] theorem State.updDev_ends (s : State) (f : Dev → Dev) : (s.updDev f).ends = s.ends := rfl
@[simp] theorem State.updDev_served (s : State) (f : Dev → Dev) : (s.updDev f).served = s.served := rfl
@[simp] theorem State.updDev_netOut (s : State) (f : Dev → Dev) : (s.updDev f).netOut = s.netOut := rfl
@[simp] theorem State.updDev_peerOut (s : State) (f : Dev → Dev) : (s.updDev f).peerOut = s.peerOut := rfl
@[simp] theorem State.updDev_replies (s : State) (f : Dev → Dev) : (s.updDev f).replies = s.replies := rfl
@[simp] theorem State.updDev_notes (s : State) (f : Dev → Dev) : (s.updDev f).notes = s.notes := rfl
@[simp] theorem State.updDev_dev (s : State) (f : Dev → Dev) : (s.updDev f).dev = f s.dev := rfl

/-! ### `fresh` -/

@[simp] theorem State.fresh_turns (s : State) : (s.fresh).turns = s.turns := rfl
@[simp] theorem State.fresh_turnNo (s : State) : (s.fresh).turnNo = s.turnNo := rfl
@[simp] theorem State.fresh_free (s : State) : (s.fresh).free = s.free := rfl
@[simp] theorem State.fresh_cur (s : State) : (s.fresh).cur = s.cur := rfl
@[simp] theorem State.fresh_ids (s : State) : (s.fresh).ids = s.ids + 1 := rfl
@[simp] theorem State.fresh_cycle (s : State) : (s.fresh).cycle = s.cycle := rfl
@[simp] theorem State.fresh_mem (s : State) : (s.fresh).mem = s.mem := rfl
@[simp] theorem State.fresh_nodes (s : State) : (s.fresh).nodes = s.nodes := rfl
@[simp] theorem State.fresh_panels (s : State) : (s.fresh).panels = s.panels := rfl
@[simp] theorem State.fresh_banks (s : State) : (s.fresh).banks = s.banks := rfl
@[simp] theorem State.fresh_ctxs (s : State) : (s.fresh).ctxs = s.ctxs := rfl
@[simp] theorem State.fresh_insts (s : State) : (s.fresh).insts = s.insts := rfl
@[simp] theorem State.fresh_reqs (s : State) : (s.fresh).reqs = s.reqs := rfl
@[simp] theorem State.fresh_bundles (s : State) : (s.fresh).bundles = s.bundles := rfl
@[simp] theorem State.fresh_accs (s : State) : (s.fresh).accs = s.accs := rfl
@[simp] theorem State.fresh_traps (s : State) : (s.fresh).traps = s.traps := rfl
@[simp] theorem State.fresh_cores (s : State) : (s.fresh).cores = s.cores := rfl
@[simp] theorem State.fresh_queues (s : State) : (s.fresh).queues = s.queues := rfl
@[simp] theorem State.fresh_runs (s : State) : (s.fresh).runs = s.runs := rfl
@[simp] theorem State.fresh_qcopies (s : State) : (s.fresh).qcopies = s.qcopies := rfl
@[simp] theorem State.fresh_copyNext (s : State) : (s.fresh).copyNext = s.copyNext := rfl
@[simp] theorem State.fresh_rr (s : State) : (s.fresh).rr = s.rr := rfl
@[simp] theorem State.fresh_dispAt (s : State) : (s.fresh).dispAt = s.dispAt := rfl
@[simp] theorem State.fresh_barEval (s : State) : (s.fresh).barEval = s.barEval := rfl
@[simp] theorem State.fresh_tiles (s : State) : (s.fresh).tiles = s.tiles := rfl
@[simp] theorem State.fresh_walks (s : State) : (s.fresh).walks = s.walks := rfl
@[simp] theorem State.fresh_handles (s : State) : (s.fresh).handles = s.handles := rfl
@[simp] theorem State.fresh_lunits (s : State) : (s.fresh).lunits = s.lunits := rfl
@[simp] theorem State.fresh_upsets (s : State) : (s.fresh).upsets = s.upsets := rfl
@[simp] theorem State.fresh_used (s : State) : (s.fresh).used = s.used := rfl
@[simp] theorem State.fresh_drr (s : State) : (s.fresh).drr = s.drr := rfl
@[simp] theorem State.fresh_presses (s : State) : (s.fresh).presses = s.presses := rfl
@[simp] theorem State.fresh_pcache (s : State) : (s.fresh).pcache = s.pcache := rfl
@[simp] theorem State.fresh_fetches (s : State) : (s.fresh).fetches = s.fetches := rfl
@[simp] theorem State.fresh_vfs (s : State) : (s.fresh).vfs = s.vfs := rfl
@[simp] theorem State.fresh_parts (s : State) : (s.fresh).parts = s.parts := rfl
@[simp] theorem State.fresh_ports (s : State) : (s.fresh).ports = s.ports := rfl
@[simp] theorem State.fresh_peers (s : State) : (s.fresh).peers = s.peers := rfl
@[simp] theorem State.fresh_ends (s : State) : (s.fresh).ends = s.ends := rfl
@[simp] theorem State.fresh_served (s : State) : (s.fresh).served = s.served := rfl
@[simp] theorem State.fresh_netOut (s : State) : (s.fresh).netOut = s.netOut := rfl
@[simp] theorem State.fresh_peerOut (s : State) : (s.fresh).peerOut = s.peerOut := rfl
@[simp] theorem State.fresh_replies (s : State) : (s.fresh).replies = s.replies := rfl
@[simp] theorem State.fresh_notes (s : State) : (s.fresh).notes = s.notes := rfl
@[simp] theorem State.fresh_dev (s : State) : (s.fresh).dev = s.dev := rfl

/-! ### `setMem` -/

@[simp] theorem State.setMem_turns (s : State) (m : List Host.Cell) : (s.setMem m).turns = s.turns := rfl
@[simp] theorem State.setMem_turnNo (s : State) (m : List Host.Cell) : (s.setMem m).turnNo = s.turnNo := rfl
@[simp] theorem State.setMem_free (s : State) (m : List Host.Cell) : (s.setMem m).free = s.free := rfl
@[simp] theorem State.setMem_cur (s : State) (m : List Host.Cell) : (s.setMem m).cur = s.cur := rfl
@[simp] theorem State.setMem_ids (s : State) (m : List Host.Cell) : (s.setMem m).ids = s.ids := rfl
@[simp] theorem State.setMem_cycle (s : State) (m : List Host.Cell) : (s.setMem m).cycle = s.cycle := rfl
@[simp] theorem State.setMem_mem (s : State) (m : List Host.Cell) : (s.setMem m).mem = m := rfl
@[simp] theorem State.setMem_nodes (s : State) (m : List Host.Cell) : (s.setMem m).nodes = s.nodes := rfl
@[simp] theorem State.setMem_panels (s : State) (m : List Host.Cell) : (s.setMem m).panels = s.panels := rfl
@[simp] theorem State.setMem_banks (s : State) (m : List Host.Cell) : (s.setMem m).banks = s.banks := rfl
@[simp] theorem State.setMem_ctxs (s : State) (m : List Host.Cell) : (s.setMem m).ctxs = s.ctxs := rfl
@[simp] theorem State.setMem_insts (s : State) (m : List Host.Cell) : (s.setMem m).insts = s.insts := rfl
@[simp] theorem State.setMem_reqs (s : State) (m : List Host.Cell) : (s.setMem m).reqs = s.reqs := rfl
@[simp] theorem State.setMem_bundles (s : State) (m : List Host.Cell) : (s.setMem m).bundles = s.bundles := rfl
@[simp] theorem State.setMem_accs (s : State) (m : List Host.Cell) : (s.setMem m).accs = s.accs := rfl
@[simp] theorem State.setMem_traps (s : State) (m : List Host.Cell) : (s.setMem m).traps = s.traps := rfl
@[simp] theorem State.setMem_cores (s : State) (m : List Host.Cell) : (s.setMem m).cores = s.cores := rfl
@[simp] theorem State.setMem_queues (s : State) (m : List Host.Cell) : (s.setMem m).queues = s.queues := rfl
@[simp] theorem State.setMem_runs (s : State) (m : List Host.Cell) : (s.setMem m).runs = s.runs := rfl
@[simp] theorem State.setMem_qcopies (s : State) (m : List Host.Cell) : (s.setMem m).qcopies = s.qcopies := rfl
@[simp] theorem State.setMem_copyNext (s : State) (m : List Host.Cell) : (s.setMem m).copyNext = s.copyNext := rfl
@[simp] theorem State.setMem_rr (s : State) (m : List Host.Cell) : (s.setMem m).rr = s.rr := rfl
@[simp] theorem State.setMem_dispAt (s : State) (m : List Host.Cell) : (s.setMem m).dispAt = s.dispAt := rfl
@[simp] theorem State.setMem_barEval (s : State) (m : List Host.Cell) : (s.setMem m).barEval = s.barEval := rfl
@[simp] theorem State.setMem_tiles (s : State) (m : List Host.Cell) : (s.setMem m).tiles = s.tiles := rfl
@[simp] theorem State.setMem_walks (s : State) (m : List Host.Cell) : (s.setMem m).walks = s.walks := rfl
@[simp] theorem State.setMem_handles (s : State) (m : List Host.Cell) : (s.setMem m).handles = s.handles := rfl
@[simp] theorem State.setMem_lunits (s : State) (m : List Host.Cell) : (s.setMem m).lunits = s.lunits := rfl
@[simp] theorem State.setMem_upsets (s : State) (m : List Host.Cell) : (s.setMem m).upsets = s.upsets := rfl
@[simp] theorem State.setMem_used (s : State) (m : List Host.Cell) : (s.setMem m).used = s.used := rfl
@[simp] theorem State.setMem_drr (s : State) (m : List Host.Cell) : (s.setMem m).drr = s.drr := rfl
@[simp] theorem State.setMem_presses (s : State) (m : List Host.Cell) : (s.setMem m).presses = s.presses := rfl
@[simp] theorem State.setMem_pcache (s : State) (m : List Host.Cell) : (s.setMem m).pcache = s.pcache := rfl
@[simp] theorem State.setMem_fetches (s : State) (m : List Host.Cell) : (s.setMem m).fetches = s.fetches := rfl
@[simp] theorem State.setMem_vfs (s : State) (m : List Host.Cell) : (s.setMem m).vfs = s.vfs := rfl
@[simp] theorem State.setMem_parts (s : State) (m : List Host.Cell) : (s.setMem m).parts = s.parts := rfl
@[simp] theorem State.setMem_ports (s : State) (m : List Host.Cell) : (s.setMem m).ports = s.ports := rfl
@[simp] theorem State.setMem_peers (s : State) (m : List Host.Cell) : (s.setMem m).peers = s.peers := rfl
@[simp] theorem State.setMem_ends (s : State) (m : List Host.Cell) : (s.setMem m).ends = s.ends := rfl
@[simp] theorem State.setMem_served (s : State) (m : List Host.Cell) : (s.setMem m).served = s.served := rfl
@[simp] theorem State.setMem_netOut (s : State) (m : List Host.Cell) : (s.setMem m).netOut = s.netOut := rfl
@[simp] theorem State.setMem_peerOut (s : State) (m : List Host.Cell) : (s.setMem m).peerOut = s.peerOut := rfl
@[simp] theorem State.setMem_replies (s : State) (m : List Host.Cell) : (s.setMem m).replies = s.replies := rfl
@[simp] theorem State.setMem_notes (s : State) (m : List Host.Cell) : (s.setMem m).notes = s.notes := rfl
@[simp] theorem State.setMem_dev (s : State) (m : List Host.Cell) : (s.setMem m).dev = s.dev := rfl
/-! ### Maps -/

section Maps
variable {κ ν : Type} [DecidableEq κ]

/-- A key that was set holds its value. -/
@[simp] theorem mget?_mset_self (m : Map κ ν) (k : κ) (v : ν) : mget? (mset m k v) k = some v := by
  induction m with
  | nil => simp [mset, mget?]
  | cons e t ih =>
    by_cases h : e.1 = k
    · simp [mset, mget?, h]
    · simp [mset, mget?, h, ih]

/-- Setting a key leaves the others alone. -/
theorem mget?_mset_of_ne (m : Map κ ν) {k j : κ} (v : ν) (h : k ≠ j) : mget? (mset m k v) j = mget? m j := by
  induction m with
  | nil => simp [mset, mget?, h]
  | cons e t ih =>
    by_cases he : e.1 = k
    · subst he
      simp [mset, mget?, h]
    · by_cases hj : e.1 = j
      · subst hj
        simp [mset, mget?, he]
      · simp [mset, mget?, he, hj, ih]

/-- A key that was set reads as its value. -/
@[simp] theorem mget_mset_self [Inhabited ν] (m : Map κ ν) (k : κ) (v : ν) : mget (mset m k v) k = v := by
  simp [mget]

/-- Setting a key leaves what the others read as. -/
theorem mget_mset_of_ne [Inhabited ν] (m : Map κ ν) {k j : κ} (v : ν) (h : k ≠ j) : mget (mset m k v) j = mget m j := by
  simp [mget, mget?_mset_of_ne m v h]

/-- A changed key reads as the changed value. -/
@[simp] theorem mget_mupd_self [Inhabited ν] (m : Map κ ν) (k : κ) (f : ν → ν) : mget (mupd m k f) k = f (mget m k) := by
  simp [mupd]

/-- Changing a key leaves what the others read as. -/
theorem mget_mupd_of_ne [Inhabited ν] (m : Map κ ν) {k j : κ} (f : ν → ν) (h : k ≠ j) :
    mget (mupd m k f) j = mget m j := by
  simp [mupd, mget_mset_of_ne m _ h]

/-- A removed key is not listed. -/
@[simp] theorem mget?_mdel_self (m : Map κ ν) (k : κ) : mget? (mdel m k) k = none := by
  induction m with
  | nil => rfl
  | cons e t ih =>
    by_cases h : e.1 = k
    · simpa [mdel, h] using ih
    · have : mdel (e :: t) k = e :: mdel t k := by simp [mdel, h]
      simp [this, mget?, h, ih]

/-- Removing a key leaves the others listed. -/
theorem mget?_mdel_of_ne (m : Map κ ν) {k j : κ} (h : k ≠ j) : mget? (mdel m k) j = mget? m j := by
  induction m with
  | nil => rfl
  | cons e t ih =>
    by_cases he : e.1 = k
    · have : mdel (e :: t) k = mdel t k := by simp [mdel, he]
      have hj : ¬ e.1 = j := fun x => h (he ▸ x)
      simp [this, mget?, hj, ih]
    · have : mdel (e :: t) k = e :: mdel t k := by simp [mdel, he]
      by_cases hj : e.1 = j
      · simp [this, mget?, hj]
      · simp [this, mget?, hj, ih]

/-- Changing every listed value changes a listed one. -/
theorem mget?_mmap (m : Map κ ν) (f : κ → ν → ν) (k : κ) : mget? (mmap m f) k = (mget? m k).map (f k) := by
  induction m with
  | nil => rfl
  | cons e t ih =>
    have : mmap (e :: t) f = (e.1, f e.1 e.2) :: mmap t f := rfl
    by_cases h : e.1 = k
    · subst h; simp [this, mget?]
    · simp [this, mget?, h, ih]

end Maps

/-! ### Units read after an update -/

@[simp] theorem State.setNode_node_self (s : State) (n : NodeId) (v : Node) : (s.setNode n v).node n = v := by
  simp [State.node]

theorem State.setNode_node_of_ne (s : State) {n m : NodeId} (v : Node) (h : n ≠ m) :
    (s.setNode n v).node m = s.node m := by
  simp [State.node, mget_mset_of_ne _ _ h]

@[simp] theorem Node.setPlane_plane_self (v : Node) (l : Letter) (p : Plane) : (v.setPlane l p).plane l = p := by
  cases l <;> rfl

@[simp] theorem Node.setPlane_plane_other (v : Node) (l : Letter) (p : Plane) :
    (v.setPlane l p).plane l.other = v.plane l.other := by
  cases l <;> rfl

theorem Node.setPlane_plane_of_ne (v : Node) {l k : Letter} (p : Plane) (h : l ≠ k) :
    (v.setPlane l p).plane k = v.plane k := by
  cases l <;> cases k <;> first | rfl | exact absurd rfl h

@[simp] theorem State.setPlane_plane_self (s : State) (n : NodeId) (l : Letter) (p : Plane) :
    (s.setPlane n l p).plane n l = p := by
  simp [State.setPlane, State.plane]

theorem State.setPlane_plane_of_ne (s : State) {n m : NodeId} {l k : Letter} (p : Plane) (h : ¬(n = m ∧ l = k)) :
    (s.setPlane n l p).plane m k = s.plane m k := by
  by_cases hn : n = m
  · subst hn
    have hl : l ≠ k := fun x => h ⟨rfl, x⟩
    simp [State.setPlane, State.plane, Node.setPlane_plane_of_ne _ _ hl]
  · simp [State.setPlane, State.plane, State.setNode_node_of_ne _ _ hn]

@[simp] theorem State.updPlane_plane_self (s : State) (n : NodeId) (l : Letter) (f : Plane → Plane) :
    (s.updPlane n l f).plane n l = f (s.plane n l) := by
  simp [State.updPlane]

theorem State.updPlane_plane_of_ne (s : State) {n m : NodeId} {l k : Letter} (f : Plane → Plane)
    (h : ¬(n = m ∧ l = k)) : (s.updPlane n l f).plane m k = s.plane m k := by
  simp [State.updPlane, State.setPlane_plane_of_ne _ _ h]

@[simp] theorem State.updPanel_panel_self (s : State) (p : Nat) (f : Panel → Panel) :
    (s.updPanel p f).panel p = f (s.panel p) := by
  simp [State.panel]

theorem State.updPanel_panel_of_ne (s : State) {p q : Nat} (f : Panel → Panel) (h : p ≠ q) :
    (s.updPanel p f).panel q = s.panel q := by
  simp [State.panel, mget_mupd_of_ne _ _ h]

@[simp] theorem State.updInst_inst_self (s : State) (i : Nat) (f : Inst → Inst) :
    (s.updInst i f).inst i = f (s.inst i) := by
  simp [State.inst]

theorem State.updInst_inst_of_ne (s : State) {i j : Nat} (f : Inst → Inst) (h : i ≠ j) :
    (s.updInst i f).inst j = s.inst j := by
  simp [State.inst, mget_mupd_of_ne _ _ h]

@[simp] theorem State.updCtx_ctx_self (s : State) (c : Nat) (f : Ctx → Ctx) : (s.updCtx c f).ctx c = f (s.ctx c) := by
  simp [State.ctx]

theorem State.updCtx_ctx_of_ne (s : State) {c d : Nat} (f : Ctx → Ctx) (h : c ≠ d) :
    (s.updCtx c f).ctx d = s.ctx d := by
  simp [State.ctx, mget_mupd_of_ne _ _ h]

@[simp] theorem State.updCore_core_self (s : State) (c : Nat) (f : Core → Core) :
    (s.updCore c f).core c = f (s.core c) := by
  simp [State.core]

theorem State.updCore_core_of_ne (s : State) {c d : Nat} (f : Core → Core) (h : c ≠ d) :
    (s.updCore c f).core d = s.core d := by
  simp [State.core, mget_mupd_of_ne _ _ h]

/-- Units of one kind are read alike in states that hold the same map of them. -/
theorem State.node_congr {s t : State} (h : t.nodes = s.nodes) (n : NodeId) : t.node n = s.node n := by
  simp [State.node, h]

theorem State.plane_congr {s t : State} (h : t.nodes = s.nodes) (n : NodeId) (l : Letter) :
    t.plane n l = s.plane n l := by
  simp [State.plane, State.node_congr h]

theorem State.panel_congr {s t : State} (h : t.panels = s.panels) (p : Nat) : t.panel p = s.panel p := by
  simp [State.panel, h]

theorem State.inst_congr {s t : State} (h : t.insts = s.insts) (i : Nat) : t.inst i = s.inst i := by
  simp [State.inst, h]

theorem State.ctx_congr {s t : State} (h : t.ctxs = s.ctxs) (c : Nat) : t.ctx c = s.ctx c := by
  simp [State.ctx, h]

theorem State.core_congr {s t : State} (h : t.cores = s.cores) (c : Nat) : t.core c = s.core c := by
  simp [State.core, h]

end Sys2Proof.Machine
end

