-- ==== Sys2Proof/Laws/Ops.lean ====
section
/-! SUPPORT. What the shared operations can do, once for each: taking a trap, settling and consuming heads,
issuing an operation, and ending an instruction's issue. -/

namespace Sys2Proof.Machine
open Sys2Proof

/-! ### The frame -/

theorem framed_refl (s : State) : Framed s s := ⟨rfl, fun _ _ => ⟨rfl, rfl, rfl⟩⟩

theorem Framed.trans {s t u : State} (h : Framed s t) (k : Framed t u) : Framed s u := by
  refine ⟨k.1.trans h.1, fun n l => ?_⟩
  obtain ⟨a, b, c⟩ := h.2 n l
  obtain ⟨d, e, f⟩ := k.2 n l
  exact ⟨d.trans a, e.trans b, f.trans c⟩

theorem Framed.mem_eq {s t : State} (h : Framed s t) : t.mem = s.mem :=
  show t.rest.mem = s.rest.mem by rw [h.1]
theorem Framed.cycle_eq {s t : State} (h : Framed s t) : t.cycle = s.cycle :=
  show t.rest.cycle = s.rest.cycle by rw [h.1]
theorem Framed.panels_eq {s t : State} (h : Framed s t) : t.panels = s.panels :=
  show t.rest.panels = s.rest.panels by rw [h.1]
theorem Framed.accs_eq {s t : State} (h : Framed s t) : t.accs = s.accs :=
  show t.rest.accs = s.rest.accs by rw [h.1]
theorem Framed.dev_eq {s t : State} (h : Framed s t) : t.dev = s.dev :=
  show t.rest.dev = s.rest.dev by rw [h.1]

/-- States whose rests agree and whose nodes are equal are framed. -/
theorem framed_of_nodes {s t : State} (h : t.rest = s.rest) (hn : t.nodes = s.nodes) : Framed s t :=
  ⟨h, fun n l => by rw [State.plane_congr hn]; exact ⟨rfl, rfl, rfl⟩⟩

/-- Changing a plane elsewhere than in its registers is framed. -/
theorem framed_updPlane (s : State) (n : NodeId) (l : Letter) (f : Plane → Plane)
    (h : ∀ p, (f p).g = p.g ∧ (f p).h = p.h ∧ (f p).p = p.p) : Framed s (s.updPlane n l f) := by
  refine ⟨rfl, fun m k => ?_⟩
  by_cases e : n = m ∧ l = k
  · obtain ⟨rfl, rfl⟩ := e
    simpa using h _
  · rw [State.updPlane_plane_of_ne _ _ e]
    exact ⟨rfl, rfl, rfl⟩

theorem framed_updIn (s : State) (n : NodeId) (l : Letter) (k : Fin 4) (f : InPort → InPort) :
    Framed s (s.updIn n l k f) := framed_updPlane _ _ _ _ fun _ => ⟨rfl, rfl, rfl⟩

theorem framed_updOut (s : State) (n : NodeId) (l : Letter) (k : Fin 4) (f : OutPort → OutPort) :
    Framed s (s.updOut n l k f) := framed_updPlane _ _ _ _ fun _ => ⟨rfl, rfl, rfl⟩

theorem framed_pushOp (s : State) (n : NodeId) (l : Letter) (o : Op) : Framed s (s.pushOp n l o) :=
  framed_updPlane _ _ _ _ fun _ => ⟨rfl, rfl, rfl⟩

theorem framed_fresh (s : State) : Framed s s.fresh := framed_of_nodes rfl rfl

theorem framed_updInst (s : State) (i : Nat) (f : Inst → Inst) : Framed s (s.updInst i f) := framed_of_nodes rfl rfl

theorem framed_updCtx (s : State) (c : Nat) (f : Ctx → Ctx) : Framed s (s.updCtx c f) := framed_of_nodes rfl rfl

theorem framed_updCore (s : State) (c : Nat) (f : Core → Core) : Framed s (s.updCore c f) := framed_of_nodes rfl rfl

/-! ### Taking a trap (R362 to R366) -/

theorem framed_noteFault (s : State) (c : Nat) (t : Trap) : Framed s (noteFault s c t) := by
  unfold noteFault
  dsimp only
  split
  · exact framed_updCtx _ _ _
  · exact framed_refl s

theorem framed_waitTrap (s : State) (c id : Nat) (t : Trap) : Framed s (waitTrap s c id t) :=
  (framed_updCore s c _).trans (framed_updPlane _ _ _ _ fun p => by split <;> exact ⟨rfl, rfl, rfl⟩)

theorem framed_enqTrap (s : State) (id : Nat) (t : Trap) : Framed s (enqTrap s id t) := by
  unfold enqTrap
  dsimp only
  split
  · exact framed_updCore _ _ _
  · exact framed_waitTrap _ _ _ _

theorem framed_queueTrap (s : State) (id : Nat) (t : Trap) : Framed s (queueTrap s id t) := by
  unfold queueTrap
  dsimp only
  refine (framed_of_nodes (s := s) (t := { s with traps := mset s.traps id t }) rfl rfl).trans ?_
  split
  · split
    · exact framed_of_nodes rfl rfl
    · exact framed_waitTrap _ _ _ _
  · exact framed_enqTrap _ _ _

theorem stopPlane_regs (p : Plane) (c : Cls) (id : Nat) (w : Word) :
    (stopPlane p c id w).g = p.g ∧ (stopPlane p c id w).h = p.h ∧ (stopPlane p c id w).p = p.p := by
  cases c <;> exact ⟨rfl, rfl, rfl⟩

theorem framed_abandonReplay (s : State) (i : Nat) : Framed s (abandonReplay s i) := by
  unfold abandonReplay
  split
  · exact framed_refl s
  · refine ⟨rfl, ?_⟩
    intro n l
    simp only [State.plane, State.node, mget, mget?_mmap]
    cases mget? s.nodes n with
    | none => exact ⟨rfl, rfl, rfl⟩
    | some d =>
      cases l <;> simp only [Option.map_some, Option.getD_some, Node.plane] <;> split <;> exact ⟨rfl, rfl, rfl⟩

/-- Taking a trap writes no memory and no register of any plane. -/
theorem framed_takeTrap (s : State) (t : Trap) : Framed s (takeTrap s t) := by
  unfold takeTrap
  dsimp only
  split
  · exact ((framed_noteFault s _ t).trans (framed_updPlane _ _ _ _ fun p => stopPlane_regs p _ _ _)).trans
      (framed_updInst _ _ _)
  · exact (((((framed_noteFault s _ t).trans (framed_updPlane _ _ _ _ fun p => stopPlane_regs p _ _ _)).trans
      (framed_abandonReplay _ _)).trans (framed_updInst _ _ _)).trans (framed_fresh _)).trans (framed_queueTrap _ _ _)

theorem framed_headFault (s : State) (n : NodeId) (l : Letter) (c : Cause) : Framed s (headFault s n l c) :=
  (framed_of_nodes (s := s) (t := { s with free := s.free + 1 }) rfl rfl).trans (framed_takeTrap _ _)

/-! ### Heads (R20 to R23) -/

/-- A poison stop leaves a plane's registers. -/
theorem poisonBy_regs (w : Word) (p : Plane) : (poisonBy w p).g = p.g ∧ (poisonBy w p).h = p.h ∧ (poisonBy w p).p = p.p := by
  unfold poisonBy
  split
  · exact ⟨rfl, rfl, rfl⟩
  · exact ⟨rfl, rfl, rfl⟩
  · exact ⟨rfl, rfl, rfl⟩
  · split <;> exact ⟨rfl, rfl, rfl⟩

theorem framed_settle (s : State) (n : NodeId) (l : Letter) (k : Fin 4) : Framed s (settle s n l k) := by
  unfold settle
  dsimp only
  split
  · exact framed_refl s
  · split
    · exact framed_refl s
    · split
      · exact (framed_updIn _ _ _ _ _).trans (framed_headFault _ _ _ _)
      · split
        · exact (framed_updIn _ _ _ _ _).trans (framed_headFault _ _ _ _)
        · split
          · exact (framed_updIn _ _ _ _ _).trans (framed_updPlane _ _ _ _ fun _ => poisonBy_regs _ _)
          · exact framed_updIn _ _ _ _ _

theorem framed_dequeue (s : State) (n : NodeId) (l : Letter) (k : Fin 4) : Framed s (dequeue s n l k) :=
  (framed_updIn _ _ _ _ _).trans (framed_settle _ _ _ _)

/-- Logging a token writes no memory and no register. -/
theorem framed_logTok (s : State) (n : NodeId) (l : Letter) (k : Nat) (t : Token) :
    Framed s (s.updPlane n l fun p => { p with mp := logTok p.mp k t }) :=
  framed_updPlane s n l _ fun _ => ⟨rfl, rfl, rfl⟩

/-- Consuming a head writes no memory and no register. -/
theorem framed_consume (s : State) (n : NodeId) (l : Letter) (k : Fin 4) : Framed s (consume s n l k) := by
  unfold consume
  dsimp only
  split
  · exact framed_updPlane s n l _ fun _ => ⟨rfl, rfl, rfl⟩
  · split
    · exact framed_refl s
    · split
      · refine Framed.trans ?_ (framed_updIn _ _ _ _ _)
        split
        · exact framed_logTok _ _ _ _ _
        · exact framed_refl s
      · refine Framed.trans ?_ (framed_dequeue _ _ _ _)
        split
        · exact framed_logTok _ _ _ _ _
        · exact framed_refl s

theorem framed_consumeAll (n : NodeId) (l : Letter) (ps : List (Fin 4)) : ∀ s : State, Framed s (consumeAll s n l ps) := by
  induction ps with
  | nil => exact framed_refl
  | cons k t ih => exact fun s => (framed_consume s n l k).trans (ih _)

/-! ### Issuing an operation (R17, R18, R25, R260) -/

theorem framed_reserveOut (s : State) (n : NodeId) (l : Letter) (d : Dst) (id : Nat) : Framed s (reserveOut s n l d id) := by
  cases d <;> first | exact framed_updOut _ _ _ _ _ | exact framed_refl s

/-- Issuing an operation writes no memory and no register: its result is in flight. -/
theorem framed_issueOp (s : State) (n : NodeId) (l : Letter) (o : Op) (ps : List (Fin 4)) :
    Framed s (issueOp s n l o ps) := by
  unfold issueOp
  dsimp only
  have h : Framed s (if o.queued = true then (consumeAll s n l ps).fresh
      else reserveOut (consumeAll s n l ps).fresh n l o.dst o.id) := by
    split
    · exact (framed_consumeAll n l ps s).trans (framed_fresh _)
    · exact ((framed_consumeAll n l ps s).trans (framed_fresh _)).trans (framed_reserveOut _ _ _ _ _)
  split
  · exact h.trans (framed_pushOp _ _ _ _)
  · split
    · exact ((h.trans (framed_pushOp _ _ _ _)).trans (framed_fresh _)).trans (framed_pushOp _ _ _ _)
    · exact h.trans (framed_pushOp _ _ _ _)

/-- A fault of a slot's firing writes no memory and no register. -/
theorem framed_slotFault (s : State) (n : NodeId) (l : Letter) (k : Nat) (c : Cause) (ps : List (Fin 4)) :
    Framed s (slotFault s n l k c ps) := (framed_takeTrap _ _).trans (framed_consumeAll n l ps _)

/-- In a slot an instruction with a computed result writes nothing as it issues: it faults, or is in flight. -/
theorem framed_finish_slot {s : State} {n : NodeId} {l : Letter} {k : Nat} (h : s.cur = .slot n l k) (lat : Nat)
    (d : Dst) (srcs : List Src) (r : LaneRes) : Framed s (finish s lat d srcs r) := by
  unfold finish raise
  dsimp only
  split
  · rw [h]; exact framed_slotFault _ _ _ _ _ _
  · rw [h]
    dsimp only
    split
    · exact framed_slotFault _ _ _ _ _ _
    · exact framed_issueOp _ _ _ _ _

/-- On a core an instruction with a result writes its register there and then, and nothing else (R91, R106). -/
theorem finish_core {s : State} {c : Nat} (h : s.cur = .core c) (lat : Nat) (d : Dst) (srcs : List Src) (t : Token) :
    finish s lat d srcs { out := .ok t } = s.updCore c fun k => writeCore k d (outTok t) := by
  unfold finish
  dsimp only
  rw [h]

end Sys2Proof.Machine
end

