-- ==== Sys2Proof/Laws/PerInstr.lean ====
section
/-! SUPPORT. The family `EncFits`: the word an instruction encodes to fits in 32 bits, so `encode` loses
no bit of it (R92, R93). An event has no word and encodes to 0. -/

namespace Sys2Proof.Laws

/-- Every format code is three bits. -/
theorem fmt_code_lt (f : Fmt) : f.code < 8 := by cases f <;> decide
/-- Every source code is five bits. -/
theorem src_code_lt (a : Src) : a.code < 32 := by cases a <;> simp only [Src.code] <;> omega
/-- Every destination code is five bits. -/
theorem dst_code_lt (d : Dst) : d.code < 32 := by cases d <;> simp only [Dst.code] <;> omega
/-- Every rounding code is three bits. -/
theorem rm_code_lt (r : Rm) : r.code < 8 := by cases r <;> decide
/-- Every condition code is three bits. -/
theorem cc_code_lt (r : Cc) : r.code < 8 := by cases r <;> decide
/-- Every reduction code is two bits. -/
theorem red_code_lt (r : Red) : r.code < 4 := by cases r <;> decide
/-- Every sparsity code is two bits. -/
theorem spar_code_lt (r : Spar) : r.code < 4 := by cases r <;> decide
/-- An edge code is one bit. -/
theorem edge_code_lt (r : Edge) : r.code < 2 := by cases r <;> decide

/-- A packed T, Q or G word fits. -/
theorem packT_lt {op f d a b m : Nat} (h0 : op < 256) (h1 : f < 8) (h2 : d < 32) (h3 : a < 32)
    (h4 : b < 32) (h5 : m < 64) : packT op f d a b m < 2 ^ 32 := by unfold packT; omega
/-- A packed I word fits. -/
theorem packI_lt {op f d a m : Nat} (h0 : op < 256) (h1 : f < 8) (h2 : d < 32) (h3 : a < 32)
    (h4 : m < 2048) : packI op f d a m < 2 ^ 32 := by unfold packI; omega
/-- A packed W word fits. -/
theorem packW_lt {op d x m : Nat} (h0 : op < 256) (h1 : d < 32) (h2 : x < 8) (h3 : m < 65536) :
    packW op d x m < 2 ^ 32 := by unfold packW; omega
/-- A packed P word fits. -/
theorem packP_lt {op d a b m : Nat} (h0 : op < 256) (h1 : d < 8) (h2 : a < 8) (h3 : b < 8) (h4 : m < 16) :
    packP op d a b m < 2 ^ 32 := by unfold packP; omega
/-- A packed M word fits. -/
theorem packM_lt {op w d a b m : Nat} (h0 : op < 256) (h1 : w < 16) (h2 : d < 32) (h3 : a < 32)
    (h4 : b < 32) (h5 : m < 32) : packM op w d a b m < 2 ^ 32 := by unfold packM; omega
/-- A packed X word fits. -/
theorem packX_lt {op f b m k p e c x : Nat} (h0 : op < 256) (h1 : f < 8) (h2 : b < 2) (h3 : m < 16)
    (h4 : k < 256) (h5 : p < 4) (h6 : e < 2) (h7 : c < 2) (h8 : x < 16) :
    packX op f b m k p e c x < 2 ^ 32 := by unfold packX; omega

/-- A T form fits. -/
theorem encT_lt {op a r : Nat} (f : Fmt) (d : Dst) (b : Src) (s o : Bool) (h0 : op < 256) (h1 : a < 32)
    (h2 : r < 8) : encT op f d a b r s o < 2 ^ 32 := by
  refine packT_lt h0 (fmt_code_lt f) (dst_code_lt d) h1 (src_code_lt b) ?_
  have h3 := b.isImm.toNat_lt
  have h4 := s.toNat_lt
  have h5 := o.toNat_lt
  unfold modT
  omega
/-- A Q form fits. -/
theorem encQ_lt {op : Nat} (f : Fmt) (d : Dst) (a b c : Src) (s : Bool) (h0 : op < 256) :
    encQ op f d a b c s < 2 ^ 32 := by
  refine packT_lt h0 (fmt_code_lt f) (dst_code_lt d) (src_code_lt a) (src_code_lt b) ?_
  have h1 := src_code_lt c
  have h2 := s.toNat_lt
  omega
/-- An I form fits. -/
theorem encI_lt {op m : Nat} (f : Fmt) (d : Dst) (a : Src) (h0 : op < 256) (h1 : m < 2048) :
    encI op f d a m < 2 ^ 32 := packI_lt h0 (fmt_code_lt f) (dst_code_lt d) (src_code_lt a) h1
/-- An M form fits. -/
theorem encM_lt {op : Nat} (f : Fmt) (d : Dst) (w : BitVec 4) (a b : Src) (q r : Bool) (h0 : op < 256) :
    encM op f d w a b q r < 2 ^ 32 := by
  refine packM_lt h0 w.isLt (dst_code_lt d) (src_code_lt a) (src_code_lt b) ?_
  have h1 := fmt_code_lt f
  have h2 := q.toNat_lt
  have h3 := r.toNat_lt
  unfold modM
  omega
/-- A G form fits. -/
theorem packG_lt {op f d a b r g : Nat} (h0 : op < 256) (h1 : f < 8) (h2 : d < 32) (h3 : a < 32)
    (h4 : b < 32) (h5 : r < 4) (h6 : g < 16) : packG op f d a b r g < 2 ^ 32 :=
  packT_lt h0 h1 h2 h3 h4 (by omega)

/-- The statement of the family: the encoding fits in 32 bits. -/
def EncFits.Statement (i : Instr) : Prop := encodeNat i < 2 ^ 32

theorem EncFits.add (f : Fmt) (d : Dst) (a : Src) (b : Src) (sat : Bool) : EncFits.Statement (Instr.add f d a b sat) := by
  have h0 := fmt_code_lt f
  have h1 := dst_code_lt d
  have h2 := src_code_lt a
  have h3 := src_code_lt b
  have h4 := sat.toNat_lt
  exact encT_lt _ _ _ _ _ (by omega) (by omega) (by omega)
theorem EncFits.sub (f : Fmt) (d : Dst) (a : Src) (b : Src) (sat : Bool) : EncFits.Statement (Instr.sub f d a b sat) := by
  have h0 := fmt_code_lt f
  have h1 := dst_code_lt d
  have h2 := src_code_lt a
  have h3 := src_code_lt b
  have h4 := sat.toNat_lt
  exact encT_lt _ _ _ _ _ (by omega) (by omega) (by omega)
theorem EncFits.addi (d : Dst) (a : Src) (imm : BitVec 11) : EncFits.Statement (Instr.addi d a imm) := by
  have h0 := dst_code_lt d
  have h1 := src_code_lt a
  have h2 := imm.isLt
  exact encI_lt _ _ _ (by omega) (by omega)
theorem EncFits.mul (f : Fmt) (d : Dst) (a : Src) (b : Src) (sat : Bool) : EncFits.Statement (Instr.mul f d a b sat) := by
  have h0 := fmt_code_lt f
  have h1 := dst_code_lt d
  have h2 := src_code_lt a
  have h3 := src_code_lt b
  have h4 := sat.toNat_lt
  exact encT_lt _ _ _ _ _ (by omega) (by omega) (by omega)
theorem EncFits.mulh (f : Fmt) (d : Dst) (a : Src) (b : Src) : EncFits.Statement (Instr.mulh f d a b) := by
  have h0 := fmt_code_lt f
  have h1 := dst_code_lt d
  have h2 := src_code_lt a
  have h3 := src_code_lt b
  exact encT_lt _ _ _ _ _ (by omega) (by omega) (by omega)
theorem EncFits.mulhu (f : Fmt) (d : Dst) (a : Src) (b : Src) : EncFits.Statement (Instr.mulhu f d a b) := by
  have h0 := fmt_code_lt f
  have h1 := dst_code_lt d
  have h2 := src_code_lt a
  have h3 := src_code_lt b
  exact encT_lt _ _ _ _ _ (by omega) (by omega) (by omega)
theorem EncFits.and (d : Dst) (a : Src) (b : Src) : EncFits.Statement (Instr.and d a b) := by
  have h0 := dst_code_lt d
  have h1 := src_code_lt a
  have h2 := src_code_lt b
  exact encT_lt _ _ _ _ _ (by omega) (by omega) (by omega)
theorem EncFits.or (d : Dst) (a : Src) (b : Src) : EncFits.Statement (Instr.or d a b) := by
  have h0 := dst_code_lt d
  have h1 := src_code_lt a
  have h2 := src_code_lt b
  exact encT_lt _ _ _ _ _ (by omega) (by omega) (by omega)
theorem EncFits.xor (d : Dst) (a : Src) (b : Src) : EncFits.Statement (Instr.xor d a b) := by
  have h0 := dst_code_lt d
  have h1 := src_code_lt a
  have h2 := src_code_lt b
  exact encT_lt _ _ _ _ _ (by omega) (by omega) (by omega)
theorem EncFits.andn (d : Dst) (a : Src) (b : Src) : EncFits.Statement (Instr.andn d a b) := by
  have h0 := dst_code_lt d
  have h1 := src_code_lt a
  have h2 := src_code_lt b
  exact encT_lt _ _ _ _ _ (by omega) (by omega) (by omega)
theorem EncFits.shl (d : Dst) (a : Src) (b : Src) : EncFits.Statement (Instr.shl d a b) := by
  have h0 := dst_code_lt d
  have h1 := src_code_lt a
  have h2 := src_code_lt b
  exact encT_lt _ _ _ _ _ (by omega) (by omega) (by omega)
theorem EncFits.shr (d : Dst) (a : Src) (b : Src) : EncFits.Statement (Instr.shr d a b) := by
  have h0 := dst_code_lt d
  have h1 := src_code_lt a
  have h2 := src_code_lt b
  exact encT_lt _ _ _ _ _ (by omega) (by omega) (by omega)
theorem EncFits.sar (d : Dst) (a : Src) (b : Src) : EncFits.Statement (Instr.sar d a b) := by
  have h0 := dst_code_lt d
  have h1 := src_code_lt a
  have h2 := src_code_lt b
  exact encT_lt _ _ _ _ _ (by omega) (by omega) (by omega)
theorem EncFits.rol (d : Dst) (a : Src) (b : Src) : EncFits.Statement (Instr.rol d a b) := by
  have h0 := dst_code_lt d
  have h1 := src_code_lt a
  have h2 := src_code_lt b
  exact encT_lt _ _ _ _ _ (by omega) (by omega) (by omega)
theorem EncFits.andi (d : Dst) (a : Src) (imm : BitVec 11) : EncFits.Statement (Instr.andi d a imm) := by
  have h0 := dst_code_lt d
  have h1 := src_code_lt a
  have h2 := imm.isLt
  exact encI_lt _ _ _ (by omega) (by omega)
theorem EncFits.ori (d : Dst) (a : Src) (imm : BitVec 11) : EncFits.Statement (Instr.ori d a imm) := by
  have h0 := dst_code_lt d
  have h1 := src_code_lt a
  have h2 := imm.isLt
  exact encI_lt _ _ _ (by omega) (by omega)
theorem EncFits.min (f : Fmt) (d : Dst) (a : Src) (b : Src) : EncFits.Statement (Instr.min f d a b) := by
  have h0 := fmt_code_lt f
  have h1 := dst_code_lt d
  have h2 := src_code_lt a
  have h3 := src_code_lt b
  exact encT_lt _ _ _ _ _ (by omega) (by omega) (by omega)
theorem EncFits.max (f : Fmt) (d : Dst) (a : Src) (b : Src) : EncFits.Statement (Instr.max f d a b) := by
  have h0 := fmt_code_lt f
  have h1 := dst_code_lt d
  have h2 := src_code_lt a
  have h3 := src_code_lt b
  exact encT_lt _ _ _ _ _ (by omega) (by omega) (by omega)
theorem EncFits.minu (f : Fmt) (d : Dst) (a : Src) (b : Src) : EncFits.Statement (Instr.minu f d a b) := by
  have h0 := fmt_code_lt f
  have h1 := dst_code_lt d
  have h2 := src_code_lt a
  have h3 := src_code_lt b
  exact encT_lt _ _ _ _ _ (by omega) (by omega) (by omega)
theorem EncFits.maxu (f : Fmt) (d : Dst) (a : Src) (b : Src) : EncFits.Statement (Instr.maxu f d a b) := by
  have h0 := fmt_code_lt f
  have h1 := dst_code_lt d
  have h2 := src_code_lt a
  have h3 := src_code_lt b
  exact encT_lt _ _ _ _ _ (by omega) (by omega) (by omega)
theorem EncFits.abs (f : Fmt) (d : Dst) (a : Src) (sat : Bool) : EncFits.Statement (Instr.abs f d a sat) := by
  have h0 := fmt_code_lt f
  have h1 := dst_code_lt d
  have h2 := src_code_lt a
  have h3 := sat.toNat_lt
  exact encT_lt _ _ _ _ _ (by omega) (by omega) (by omega)
theorem EncFits.neg (f : Fmt) (d : Dst) (a : Src) (sat : Bool) : EncFits.Statement (Instr.neg f d a sat) := by
  have h0 := fmt_code_lt f
  have h1 := dst_code_lt d
  have h2 := src_code_lt a
  have h3 := sat.toNat_lt
  exact encT_lt _ _ _ _ _ (by omega) (by omega) (by omega)
theorem EncFits.clz (d : Dst) (a : Src) : EncFits.Statement (Instr.clz d a) := by
  have h0 := dst_code_lt d
  have h1 := src_code_lt a
  exact encT_lt _ _ _ _ _ (by omega) (by omega) (by omega)
theorem EncFits.popc (d : Dst) (a : Src) : EncFits.Statement (Instr.popc d a) := by
  have h0 := dst_code_lt d
  have h1 := src_code_lt a
  exact encT_lt _ _ _ _ _ (by omega) (by omega) (by omega)
theorem EncFits.ext (d : Dst) (a : Src) (b : Src) (c : Src) : EncFits.Statement (Instr.ext d a b c) := encQ_lt _ _ _ _ _ _ (by decide)
theorem EncFits.ins (d : Dst) (a : Src) (b : Src) (c : Src) : EncFits.Statement (Instr.ins d a b c) := encQ_lt _ _ _ _ _ _ (by decide)
theorem EncFits.sel (d : Dst) (a : Src) (b : Src) (c : Src) : EncFits.Statement (Instr.sel d a b c) := encQ_lt _ _ _ _ _ _ (by decide)
theorem EncFits.cmp (f : Fmt) (cc : Cc) (d : Dst) (a : Src) (b : Src) : EncFits.Statement (Instr.cmp f cc d a b) := by
  have h0 := fmt_code_lt f
  have h1 := cc_code_lt cc
  have h2 := dst_code_lt d
  have h3 := src_code_lt a
  have h4 := src_code_lt b
  exact encT_lt _ _ _ _ _ (by omega) (by omega) (by omega)
theorem EncFits.cmpi (f : Fmt) (cc : Cc) (d : Dst) (a : Src) (imm : BitVec 8) : EncFits.Statement (Instr.cmpi f cc d a imm) := by
  have h0 := fmt_code_lt f
  have h1 := cc_code_lt cc
  have h2 := dst_code_lt d
  have h3 := src_code_lt a
  have h4 := imm.isLt
  exact encI_lt _ _ _ (by omega) (by omega)
theorem EncFits.adds (f : Fmt) (d : Dst) (a : Src) (b : Src) : EncFits.Statement (Instr.adds f d a b) := by
  have h0 := fmt_code_lt f
  have h1 := dst_code_lt d
  have h2 := src_code_lt a
  have h3 := src_code_lt b
  exact encT_lt _ _ _ _ _ (by omega) (by omega) (by omega)
theorem EncFits.subs (f : Fmt) (d : Dst) (a : Src) (b : Src) : EncFits.Statement (Instr.subs f d a b) := by
  have h0 := fmt_code_lt f
  have h1 := dst_code_lt d
  have h2 := src_code_lt a
  have h3 := src_code_lt b
  exact encT_lt _ _ _ _ _ (by omega) (by omega) (by omega)
theorem EncFits.mad (f : Fmt) (d : Dst) (a : Src) (b : Src) (c : Src) (sat : Bool) : EncFits.Statement (Instr.mad f d a b c sat) := encQ_lt _ _ _ _ _ _ (by decide)
theorem EncFits.fadd (f : Fmt) (d : Dst) (a : Src) (b : Src) (rm : Rm) : EncFits.Statement (Instr.fadd f d a b rm) := by
  have h0 := fmt_code_lt f
  have h1 := dst_code_lt d
  have h2 := src_code_lt a
  have h3 := src_code_lt b
  have h4 := rm_code_lt rm
  exact encT_lt _ _ _ _ _ (by omega) (by omega) (by omega)
theorem EncFits.fsub (f : Fmt) (d : Dst) (a : Src) (b : Src) (rm : Rm) : EncFits.Statement (Instr.fsub f d a b rm) := by
  have h0 := fmt_code_lt f
  have h1 := dst_code_lt d
  have h2 := src_code_lt a
  have h3 := src_code_lt b
  have h4 := rm_code_lt rm
  exact encT_lt _ _ _ _ _ (by omega) (by omega) (by omega)
theorem EncFits.fmul (f : Fmt) (d : Dst) (a : Src) (b : Src) (rm : Rm) : EncFits.Statement (Instr.fmul f d a b rm) := by
  have h0 := fmt_code_lt f
  have h1 := dst_code_lt d
  have h2 := src_code_lt a
  have h3 := src_code_lt b
  have h4 := rm_code_lt rm
  exact encT_lt _ _ _ _ _ (by omega) (by omega) (by omega)
theorem EncFits.fma (f : Fmt) (d : Dst) (a : Src) (b : Src) (c : Src) : EncFits.Statement (Instr.fma f d a b c) := encQ_lt _ _ _ _ _ _ (by decide)
theorem EncFits.fmin (f : Fmt) (d : Dst) (a : Src) (b : Src) : EncFits.Statement (Instr.fmin f d a b) := by
  have h0 := fmt_code_lt f
  have h1 := dst_code_lt d
  have h2 := src_code_lt a
  have h3 := src_code_lt b
  exact encT_lt _ _ _ _ _ (by omega) (by omega) (by omega)
theorem EncFits.fmax (f : Fmt) (d : Dst) (a : Src) (b : Src) : EncFits.Statement (Instr.fmax f d a b) := by
  have h0 := fmt_code_lt f
  have h1 := dst_code_lt d
  have h2 := src_code_lt a
  have h3 := src_code_lt b
  exact encT_lt _ _ _ _ _ (by omega) (by omega) (by omega)
theorem EncFits.fabs (f : Fmt) (d : Dst) (a : Src) : EncFits.Statement (Instr.fabs f d a) := by
  have h0 := fmt_code_lt f
  have h1 := dst_code_lt d
  have h2 := src_code_lt a
  exact encT_lt _ _ _ _ _ (by omega) (by omega) (by omega)
theorem EncFits.fneg (f : Fmt) (d : Dst) (a : Src) : EncFits.Statement (Instr.fneg f d a) := by
  have h0 := fmt_code_lt f
  have h1 := dst_code_lt d
  have h2 := src_code_lt a
  exact encT_lt _ _ _ _ _ (by omega) (by omega) (by omega)
theorem EncFits.fcmp (f : Fmt) (cc : Cc) (d : Dst) (a : Src) (b : Src) : EncFits.Statement (Instr.fcmp f cc d a b) := by
  have h0 := fmt_code_lt f
  have h1 := cc_code_lt cc
  have h2 := dst_code_lt d
  have h3 := src_code_lt a
  have h4 := src_code_lt b
  exact encT_lt _ _ _ _ _ (by omega) (by omega) (by omega)
theorem EncFits.fhsum (f : Fmt) (d : Dst) (a : Src) (rm : Rm) : EncFits.Statement (Instr.fhsum f d a rm) := by
  have h0 := fmt_code_lt f
  have h1 := dst_code_lt d
  have h2 := src_code_lt a
  have h3 := rm_code_lt rm
  exact encT_lt _ _ _ _ _ (by omega) (by omega) (by omega)
theorem EncFits.fdot (f : Fmt) (d : Dst) (a : Src) (b : Src) (c : Src) : EncFits.Statement (Instr.fdot f d a b c) := encQ_lt _ _ _ _ _ _ (by decide)
theorem EncFits.fcls (f : Fmt) (d : Dst) (a : Src) : EncFits.Statement (Instr.fcls f d a) := by
  have h0 := fmt_code_lt f
  have h1 := dst_code_lt d
  have h2 := src_code_lt a
  exact encT_lt _ _ _ _ _ (by omega) (by omega) (by omega)
theorem EncFits.fclp (f : Fmt) (d : Dst) (a : Src) (b : Src) (c : Src) : EncFits.Statement (Instr.fclp f d a b c) := encQ_lt _ _ _ _ _ _ (by decide)
theorem EncFits.frcp (f : Fmt) (d : Dst) (a : Src) (rm : Rm) : EncFits.Statement (Instr.frcp f d a rm) := by
  have h0 := fmt_code_lt f
  have h1 := dst_code_lt d
  have h2 := src_code_lt a
  have h3 := rm_code_lt rm
  exact encT_lt _ _ _ _ _ (by omega) (by omega) (by omega)
theorem EncFits.frsq (f : Fmt) (d : Dst) (a : Src) (rm : Rm) : EncFits.Statement (Instr.frsq f d a rm) := by
  have h0 := fmt_code_lt f
  have h1 := dst_code_lt d
  have h2 := src_code_lt a
  have h3 := rm_code_lt rm
  exact encT_lt _ _ _ _ _ (by omega) (by omega) (by omega)
theorem EncFits.fsqrt (f : Fmt) (d : Dst) (a : Src) (rm : Rm) : EncFits.Statement (Instr.fsqrt f d a rm) := by
  have h0 := fmt_code_lt f
  have h1 := dst_code_lt d
  have h2 := src_code_lt a
  have h3 := rm_code_lt rm
  exact encT_lt _ _ _ _ _ (by omega) (by omega) (by omega)
theorem EncFits.fex2 (f : Fmt) (d : Dst) (a : Src) (rm : Rm) : EncFits.Statement (Instr.fex2 f d a rm) := by
  have h0 := fmt_code_lt f
  have h1 := dst_code_lt d
  have h2 := src_code_lt a
  have h3 := rm_code_lt rm
  exact encT_lt _ _ _ _ _ (by omega) (by omega) (by omega)
theorem EncFits.flg2 (f : Fmt) (d : Dst) (a : Src) (rm : Rm) : EncFits.Statement (Instr.flg2 f d a rm) := by
  have h0 := fmt_code_lt f
  have h1 := dst_code_lt d
  have h2 := src_code_lt a
  have h3 := rm_code_lt rm
  exact encT_lt _ _ _ _ _ (by omega) (by omega) (by omega)
theorem EncFits.ftnh (f : Fmt) (d : Dst) (a : Src) (rm : Rm) : EncFits.Statement (Instr.ftnh f d a rm) := by
  have h0 := fmt_code_lt f
  have h1 := dst_code_lt d
  have h2 := src_code_lt a
  have h3 := rm_code_lt rm
  exact encT_lt _ _ _ _ _ (by omega) (by omega) (by omega)
theorem EncFits.cvt (f : Fmt) (d : Dst) (a : Src) (rm : Rm) (nanov : Bool) : EncFits.Statement (Instr.cvt f d a rm nanov) := by
  have h0 := fmt_code_lt f
  have h1 := dst_code_lt d
  have h2 := src_code_lt a
  have h3 := rm_code_lt rm
  have h4 := nanov.toNat_lt
  exact encT_lt _ _ _ _ _ (by omega) (by omega) (by omega)
theorem EncFits.pack (f : Fmt) (d : Dst) (a : Src) (b : Src) : EncFits.Statement (Instr.pack f d a b) := by
  have h0 := fmt_code_lt f
  have h1 := dst_code_lt d
  have h2 := src_code_lt a
  have h3 := src_code_lt b
  exact encT_lt _ _ _ _ _ (by omega) (by omega) (by omega)
theorem EncFits.unpk (f : Fmt) (d : Dst) (a : Src) (hi : Bool) : EncFits.Statement (Instr.unpk f d a hi) := by
  have h0 := fmt_code_lt f
  have h1 := dst_code_lt d
  have h2 := src_code_lt a
  have h3 := hi.toNat_lt
  exact encT_lt _ _ _ _ _ (by omega) (by omega) (by omega)
theorem EncFits.scl (f : Fmt) (d : Dst) (a : Src) (b : Src) (rm : Rm) (clr : Bool) : EncFits.Statement (Instr.scl f d a b rm clr) := by
  have h0 := fmt_code_lt f
  have h1 := dst_code_lt d
  have h2 := src_code_lt a
  have h3 := src_code_lt b
  have h4 := rm_code_lt rm
  have h5 := clr.toNat_lt
  exact encT_lt _ _ _ _ _ (by omega) (by omega) (by omega)
theorem EncFits.itof (f : Fmt) (d : Dst) (a : Src) (rm : Rm) (u : Bool) : EncFits.Statement (Instr.itof f d a rm u) := by
  have h0 := fmt_code_lt f
  have h1 := dst_code_lt d
  have h2 := src_code_lt a
  have h3 := rm_code_lt rm
  have h4 := u.toNat_lt
  exact encT_lt _ _ _ _ _ (by omega) (by omega) (by omega)
theorem EncFits.ftoi (f : Fmt) (d : Dst) (a : Src) (rm : Rm) (sat : Bool) (u : Bool) : EncFits.Statement (Instr.ftoi f d a rm sat u) := by
  have h0 := fmt_code_lt f
  have h1 := dst_code_lt d
  have h2 := src_code_lt a
  have h3 := rm_code_lt rm
  have h4 := sat.toNat_lt
  have h5 := u.toNat_lt
  exact encT_lt _ _ _ _ _ (by omega) (by omega) (by omega)
theorem EncFits.rndi (f : Fmt) (d : Dst) (a : Src) (rm : Rm) : EncFits.Statement (Instr.rndi f d a rm) := by
  have h0 := fmt_code_lt f
  have h1 := dst_code_lt d
  have h2 := src_code_lt a
  have h3 := rm_code_lt rm
  exact encT_lt _ _ _ _ _ (by omega) (by omega) (by omega)
theorem EncFits.mov (f : Fmt) (d : Dst) (a : Src) : EncFits.Statement (Instr.mov f d a) := by
  have h0 := fmt_code_lt f
  have h1 := dst_code_lt d
  have h2 := src_code_lt a
  exact encT_lt _ _ _ _ _ (by omega) (by omega) (by omega)
theorem EncFits.movi (d : Dst) (imm : BitVec 16) : EncFits.Statement (Instr.movi d imm) := by
  have h0 := dst_code_lt d
  have h1 := imm.isLt
  exact packW_lt (by omega) (by omega) (by omega) (by omega)
theorem EncFits.movhi (d : Dst) (imm : BitVec 16) : EncFits.Statement (Instr.movhi d imm) := by
  have h0 := dst_code_lt d
  have h1 := imm.isLt
  exact packW_lt (by omega) (by omega) (by omega) (by omega)
theorem EncFits.mktag (d : Dst) (a : Src) (hdr : BitVec 8) : EncFits.Statement (Instr.mktag d a hdr) := by
  have h0 := dst_code_lt d
  have h1 := src_code_lt a
  have h2 := hdr.isLt
  exact encI_lt _ _ _ (by omega) (by omega)
theorem EncFits.gtag (d : Dst) (a : Src) : EncFits.Statement (Instr.gtag d a) := by
  have h0 := dst_code_lt d
  have h1 := src_code_lt a
  exact encT_lt _ _ _ _ _ (by omega) (by omega) (by omega)
theorem EncFits.plog (pd : Fin 8) (pa : Fin 8) (pb : Fin 8) (lut : BitVec 4) : EncFits.Statement (Instr.plog pd pa pb lut) := by
  have h0 := pd.isLt
  have h1 := pa.isLt
  have h2 := pb.isLt
  have h3 := lut.isLt
  exact packP_lt (by omega) (by omega) (by omega) (by omega) (by omega)
theorem EncFits.pmov (pd : Fin 8) (pa : Fin 8) : EncFits.Statement (Instr.pmov pd pa) := by
  have h0 := pd.isLt
  have h1 := pa.isLt
  exact packP_lt (by omega) (by omega) (by omega) (by omega) (by omega)
theorem EncFits.pseti (mask : BitVec 8) (vals : BitVec 8) : EncFits.Statement (Instr.pseti mask vals) := by
  have h0 := mask.isLt
  have h1 := vals.isLt
  exact packW_lt (by omega) (by omega) (by omega) (by omega)
theorem EncFits.wid (d : Dst) (n : BitVec 16) : EncFits.Statement (Instr.wid d n) := by
  have h0 := dst_code_lt d
  have h1 := n.isLt
  exact packW_lt (by omega) (by omega) (by omega) (by omega)
theorem EncFits.clk (d : Dst) (half : BitVec 16) : EncFits.Statement (Instr.clk d half) := by
  have h0 := dst_code_lt d
  have h1 := half.isLt
  exact packW_lt (by omega) (by omega) (by omega) (by omega)
theorem EncFits.iid (d : Dst) (sel : BitVec 16) : EncFits.Statement (Instr.iid d sel) := by
  have h0 := dst_code_lt d
  have h1 := sel.isLt
  exact packW_lt (by omega) (by omega) (by omega) (by omega)
theorem EncFits.emit (d : Dst) (a : Src) : EncFits.Statement (Instr.emit d a) := by
  have h0 := dst_code_lt d
  have h1 := src_code_lt a
  exact encT_lt _ _ _ _ _ (by omega) (by omega) (by omega)
theorem EncFits.drop (a : Src) : EncFits.Statement (Instr.drop a) := by
  have h0 := src_code_lt a
  exact encT_lt _ _ _ _ _ (by omega) (by omega) (by omega)
theorem EncFits.fwd (d : Dst) (a : Src) : EncFits.Statement (Instr.fwd d a) := by
  have h0 := dst_code_lt d
  have h1 := src_code_lt a
  exact encT_lt _ _ _ _ _ (by omega) (by omega) (by omega)
theorem EncFits.steer (d : Dst) (a : Src) (k : BitVec 8) : EncFits.Statement (Instr.steer d a k) := by
  have h0 := dst_code_lt d
  have h1 := src_code_lt a
  have h2 := k.isLt
  exact encI_lt _ _ _ (by omega) (by omega)
theorem EncFits.swpt (d : Dst) (a : Src) : EncFits.Statement (Instr.swpt d a) := by
  have h0 := dst_code_lt d
  have h1 := src_code_lt a
  exact encT_lt _ _ _ _ _ (by omega) (by omega) (by omega)
theorem EncFits.stky (a : Src) (n : BitVec 8) : EncFits.Statement (Instr.stky a n) := by
  have h0 := src_code_lt a
  have h1 := n.isLt
  exact encI_lt _ _ _ (by omega) (by omega)
theorem EncFits.dmnd (a : Src) (n : BitVec 11) : EncFits.Statement (Instr.dmnd a n) := by
  have h0 := src_code_lt a
  have h1 := n.isLt
  exact encI_lt _ _ _ (by omega) (by omega)
theorem EncFits.halt : EncFits.Statement .halt := by
  exact packW_lt (by omega) (by omega) (by omega) (by omega)
theorem EncFits.nop : EncFits.Statement .nop := by
  exact packW_lt (by omega) (by omega) (by omega) (by omega)
theorem EncFits.waitt (d : Dst) (a : Src) : EncFits.Statement (Instr.waitt d a) := by
  have h0 := dst_code_lt d
  have h1 := src_code_lt a
  exact encT_lt _ _ _ _ _ (by omega) (by omega) (by omega)
theorem EncFits.call (d : Dst) (site : BitVec 4) (pat : BitVec 12) : EncFits.Statement (Instr.call d site pat) := by
  have h0 := dst_code_lt d
  have h1 := site.isLt
  have h2 := pat.isLt
  exact packW_lt (by omega) (by omega) (by omega) (by omega)
theorem EncFits.callb (d : Dst) (n : BitVec 3) (site : BitVec 4) (pat : BitVec 12) : EncFits.Statement (Instr.callb d n site pat) := by
  have h0 := dst_code_lt d
  have h1 := n.isLt
  have h2 := site.isLt
  have h3 := pat.isLt
  exact packW_lt (by omega) (by omega) (by omega) (by omega)
theorem EncFits.ret : EncFits.Statement .ret := by
  exact packW_lt (by omega) (by omega) (by omega) (by omega)
theorem EncFits.spwn (d : Dst) (a : Src) (b : Src) : EncFits.Statement (Instr.spwn d a b) := by
  have h0 := dst_code_lt d
  have h1 := src_code_lt a
  have h2 := src_code_lt b
  exact encT_lt _ _ _ _ _ (by omega) (by omega) (by omega)
theorem EncFits.spwnt (pd : Fin 8) (a : Src) (b : Src) : EncFits.Statement (Instr.spwnt pd a b) := by
  have h0 := pd.isLt
  have h1 := src_code_lt a
  have h2 := src_code_lt b
  exact encT_lt _ _ _ _ _ (by omega) (by omega) (by omega)
theorem EncFits.plt (d : Dst) (a : Src) : EncFits.Statement (Instr.plt d a) := by
  have h0 := dst_code_lt d
  have h1 := src_code_lt a
  exact encT_lt _ _ _ _ _ (by omega) (by omega) (by omega)
theorem EncFits.csto (d : Dst) (a : Src) : EncFits.Statement (Instr.csto d a) := by
  have h0 := dst_code_lt d
  have h1 := src_code_lt a
  exact encT_lt _ _ _ _ _ (by omega) (by omega) (by omega)
theorem EncFits.csti (d : Dst) (a : Src) : EncFits.Statement (Instr.csti d a) := by
  have h0 := dst_code_lt d
  have h1 := src_code_lt a
  exact encT_lt _ _ _ _ _ (by omega) (by omega) (by omega)
theorem EncFits.prio (c : BitVec 16) : EncFits.Statement (Instr.prio c) := by
  have h0 := c.isLt
  exact packW_lt (by omega) (by omega) (by omega) (by omega)
theorem EncFits.trap (arg : BitVec 16) : EncFits.Statement (Instr.trap arg) := by
  have h0 := arg.isLt
  exact packW_lt (by omega) (by omega) (by omega) (by omega)
theorem EncFits.brk (arg : BitVec 16) : EncFits.Statement (Instr.brk arg) := by
  have h0 := arg.isLt
  exact packW_lt (by omega) (by omega) (by omega) (by omega)
theorem EncFits.rdsr (d : Dst) (sr : BitVec 10) : EncFits.Statement (Instr.rdsr d sr) := by
  have h0 := dst_code_lt d
  have h1 := sr.isLt
  exact encI_lt _ _ _ (by omega) (by omega)
theorem EncFits.wrsr (a : Src) (sr : BitVec 10) : EncFits.Statement (Instr.wrsr a sr) := by
  have h0 := src_code_lt a
  have h1 := sr.isLt
  exact encI_lt _ _ _ (by omega) (by omega)
theorem EncFits.pload (d : Dst) (pat : BitVec 12) : EncFits.Statement (Instr.pload d pat) := by
  have h0 := dst_code_lt d
  have h1 := pat.isLt
  exact packW_lt (by omega) (by omega) (by omega) (by omega)
theorem EncFits.arm (d : Dst) (a : Src) : EncFits.Statement (Instr.arm d a) := by
  have h0 := dst_code_lt d
  have h1 := src_code_lt a
  exact encT_lt _ _ _ _ _ (by omega) (by omega) (by omega)
theorem EncFits.rlat (d : Dst) (w : BitVec 4) : EncFits.Statement (Instr.rlat d w) := by
  have h0 := dst_code_lt d
  have h1 := w.isLt
  exact packW_lt (by omega) (by omega) (by omega) (by omega)
theorem EncFits.bsld (a : Src) (j : BitVec 9) : EncFits.Statement (Instr.bsld a j) := by
  have h0 := src_code_lt a
  have h1 := j.isLt
  exact encI_lt _ _ _ (by omega) (by omega)
theorem EncFits.bsbd (a : Src) (k : BitVec 5) : EncFits.Statement (Instr.bsbd a k) := by
  have h0 := src_code_lt a
  have h1 := k.isLt
  exact encI_lt _ _ _ (by omega) (by omega)
theorem EncFits.eretContinue : EncFits.Statement .eretContinue := by
  exact packW_lt (by omega) (by omega) (by omega) (by omega)
theorem EncFits.eretReplay : EncFits.Statement .eretReplay := by
  exact packW_lt (by omega) (by omega) (by omega) (by omega)
theorem EncFits.eretRetire : EncFits.Statement .eretRetire := by
  exact packW_lt (by omega) (by omega) (by omega) (by omega)
theorem EncFits.eretTerminate : EncFits.Statement .eretTerminate := by
  exact packW_lt (by omega) (by omega) (by omega) (by omega)
theorem EncFits.jmpr (a : Src) : EncFits.Statement (Instr.jmpr a) := by
  have h0 := src_code_lt a
  exact encT_lt _ _ _ _ _ (by omega) (by omega) (by omega)
theorem EncFits.lnk (d : Dst) (off : BitVec 16) : EncFits.Statement (Instr.lnk d off) := by
  have h0 := dst_code_lt d
  have h1 := off.isLt
  exact packW_lt (by omega) (by omega) (by omega) (by omega)
theorem EncFits.emul (d : Dst) (a : Src) : EncFits.Statement (Instr.emul d a) := by
  have h0 := dst_code_lt d
  have h1 := src_code_lt a
  exact encT_lt _ _ _ _ _ (by omega) (by omega) (by omega)
theorem EncFits.bsp (n : Fin 32) (f : Fmt) (d : Dst) (a : Src) (b : Src) (c : Src) (sat : Bool) : EncFits.Statement (Instr.bsp n f d a b c sat) := encQ_lt _ _ _ _ _ _ (by have h := n.isLt; omega)
theorem EncFits.mbr (a : Src) (off : BitVec 11) : EncFits.Statement (Instr.mbr a off) := by
  have h0 := src_code_lt a
  have h1 := off.isLt
  exact encI_lt _ _ _ (by omega) (by omega)
theorem EncFits.mlp (h : Fin 8) (off : BitVec 11) : EncFits.Statement (Instr.mlp h off) := by
  have h0 := h.isLt
  have h1 := off.isLt
  exact encI_lt _ _ _ (by omega) (by omega)
theorem EncFits.mend (a : Src) : EncFits.Statement (Instr.mend a) := by
  have h0 := src_code_lt a
  exact encT_lt _ _ _ _ _ (by omega) (by omega) (by omega)
theorem EncFits.lds (f : Fmt) (d : Dst) (w : BitVec 4) (a : Src) (acq : Bool) (rel : Bool) : EncFits.Statement (Instr.lds f d w a acq rel) := encM_lt _ _ _ _ _ _ _ (by decide)
theorem EncFits.ldl (f : Fmt) (d : Dst) (w : BitVec 4) (a : Src) (acq : Bool) (rel : Bool) : EncFits.Statement (Instr.ldl f d w a acq rel) := encM_lt _ _ _ _ _ _ _ (by decide)
theorem EncFits.ldd (f : Fmt) (d : Dst) (w : BitVec 4) (a : Src) (acq : Bool) (rel : Bool) : EncFits.Statement (Instr.ldd f d w a acq rel) := encM_lt _ _ _ _ _ _ _ (by decide)
theorem EncFits.ldp (f : Fmt) (d : Dst) (w : BitVec 4) (a : Src) (acq : Bool) (rel : Bool) : EncFits.Statement (Instr.ldp f d w a acq rel) := encM_lt _ _ _ _ _ _ _ (by decide)
theorem EncFits.ldx (f : Fmt) (d : Dst) (w : BitVec 4) (a : Src) (acq : Bool) (rel : Bool) : EncFits.Statement (Instr.ldx f d w a acq rel) := encM_lt _ _ _ _ _ _ _ (by decide)
theorem EncFits.sts (f : Fmt) (d : Dst) (w : BitVec 4) (a : Src) (b : Src) (acq : Bool) (rel : Bool) : EncFits.Statement (Instr.sts f d w a b acq rel) := encM_lt _ _ _ _ _ _ _ (by decide)
theorem EncFits.stl (f : Fmt) (d : Dst) (w : BitVec 4) (a : Src) (b : Src) (acq : Bool) (rel : Bool) : EncFits.Statement (Instr.stl f d w a b acq rel) := encM_lt _ _ _ _ _ _ _ (by decide)
theorem EncFits.std (f : Fmt) (d : Dst) (w : BitVec 4) (a : Src) (b : Src) (acq : Bool) (rel : Bool) : EncFits.Statement (Instr.std f d w a b acq rel) := encM_lt _ _ _ _ _ _ _ (by decide)
theorem EncFits.stp (f : Fmt) (d : Dst) (w : BitVec 4) (a : Src) (b : Src) (acq : Bool) (rel : Bool) : EncFits.Statement (Instr.stp f d w a b acq rel) := encM_lt _ _ _ _ _ _ _ (by decide)
theorem EncFits.stx (f : Fmt) (d : Dst) (w : BitVec 4) (a : Src) (b : Src) (acq : Bool) (rel : Bool) : EncFits.Statement (Instr.stx f d w a b acq rel) := encM_lt _ _ _ _ _ _ _ (by decide)
theorem EncFits.fen (d : Dst) (scope : BitVec 4) : EncFits.Statement (Instr.fen d scope) := by
  have h0 := dst_code_lt d
  have h1 := scope.isLt
  exact packM_lt (by omega) (by omega) (by omega) (by omega) (by omega) (by omega)
theorem EncFits.ldv (f : Fmt) (d : Dst) (w : BitVec 4) (a : Src) (acq : Bool) (rel : Bool) : EncFits.Statement (Instr.ldv f d w a acq rel) := encM_lt _ _ _ _ _ _ _ (by decide)
theorem EncFits.stv (f : Fmt) (d : Dst) (w : BitVec 4) (a : Src) (b : Src) (acq : Bool) (rel : Bool) : EncFits.Statement (Instr.stv f d w a b acq rel) := encM_lt _ _ _ _ _ _ _ (by decide)
theorem EncFits.xbar (d : Dst) : EncFits.Statement (Instr.xbar d) := by
  have h0 := dst_code_lt d
  exact packM_lt (by omega) (by omega) (by omega) (by omega) (by omega) (by omega)
theorem EncFits.pfd (w : BitVec 4) (a : Src) : EncFits.Statement (Instr.pfd w a) := by
  have h0 := w.isLt
  have h1 := src_code_lt a
  exact packM_lt (by omega) (by omega) (by omega) (by omega) (by omega) (by omega)
theorem EncFits.aadd (d : Dst) (w : BitVec 4) (a : Src) (b : Src) (acq : Bool) (rel : Bool) : EncFits.Statement (Instr.aadd d w a b acq rel) := encM_lt _ _ _ _ _ _ _ (by decide)
theorem EncFits.afadd (f : Fmt) (d : Dst) (w : BitVec 4) (a : Src) (b : Src) (acq : Bool) (rel : Bool) : EncFits.Statement (Instr.afadd f d w a b acq rel) := encM_lt _ _ _ _ _ _ _ (by decide)
theorem EncFits.amin (d : Dst) (w : BitVec 4) (a : Src) (b : Src) (acq : Bool) (rel : Bool) : EncFits.Statement (Instr.amin d w a b acq rel) := encM_lt _ _ _ _ _ _ _ (by decide)
theorem EncFits.amax (d : Dst) (w : BitVec 4) (a : Src) (b : Src) (acq : Bool) (rel : Bool) : EncFits.Statement (Instr.amax d w a b acq rel) := encM_lt _ _ _ _ _ _ _ (by decide)
theorem EncFits.aand (d : Dst) (w : BitVec 4) (a : Src) (b : Src) (acq : Bool) (rel : Bool) : EncFits.Statement (Instr.aand d w a b acq rel) := encM_lt _ _ _ _ _ _ _ (by decide)
theorem EncFits.aor (d : Dst) (w : BitVec 4) (a : Src) (b : Src) (acq : Bool) (rel : Bool) : EncFits.Statement (Instr.aor d w a b acq rel) := encM_lt _ _ _ _ _ _ _ (by decide)
theorem EncFits.axor (d : Dst) (w : BitVec 4) (a : Src) (b : Src) (acq : Bool) (rel : Bool) : EncFits.Statement (Instr.axor d w a b acq rel) := encM_lt _ _ _ _ _ _ _ (by decide)
theorem EncFits.axch (d : Dst) (w : BitVec 4) (a : Src) (b : Src) (acq : Bool) (rel : Bool) : EncFits.Statement (Instr.axch d w a b acq rel) := encM_lt _ _ _ _ _ _ _ (by decide)
theorem EncFits.acas (d : Dst) (w : BitVec 4) (a : Src) (b : Src) (acq : Bool) (rel : Bool) : EncFits.Statement (Instr.acas d w a b acq rel) := encM_lt _ _ _ _ _ _ _ (by decide)
theorem EncFits.sigw (d : Dst) (w : BitVec 4) (a : Src) (b : Src) (acq : Bool) (rel : Bool) : EncFits.Statement (Instr.sigw d w a b acq rel) := encM_lt _ _ _ _ _ _ _ (by decide)
theorem EncFits.bupd (f : Fmt) (d : Dst) (w : BitVec 4) (a : Src) (b : Src) (acq : Bool) (rel : Bool) : EncFits.Statement (Instr.bupd f d w a b acq rel) := encM_lt _ _ _ _ _ _ _ (by decide)
theorem EncFits.bred (f : Fmt) (d : Dst) (w : BitVec 4) (a : Src) (b : Src) (acq : Bool) (rel : Bool) : EncFits.Statement (Instr.bred f d w a b acq rel) := encM_lt _ _ _ _ _ _ _ (by decide)
theorem EncFits.cpy (d : Dst) (w : BitVec 4) (a : Src) (acq : Bool) (rel : Bool) : EncFits.Statement (Instr.cpy d w a acq rel) := encM_lt _ _ _ _ _ _ _ (by decide)
theorem EncFits.cpys (d : Dst) (w : BitVec 4) (a : Src) (acq : Bool) (rel : Bool) : EncFits.Statement (Instr.cpys d w a acq rel) := encM_lt _ _ _ _ _ _ _ (by decide)
theorem EncFits.gth (f : Fmt) (d : Dst) (w : BitVec 4) (a : Src) (acq : Bool) (rel : Bool) : EncFits.Statement (Instr.gth f d w a acq rel) := encM_lt _ _ _ _ _ _ _ (by decide)
theorem EncFits.sct (f : Fmt) (d : Dst) (w : BitVec 4) (a : Src) (b : Src) (acq : Bool) (rel : Bool) : EncFits.Statement (Instr.sct f d w a b acq rel) := encM_lt _ _ _ _ _ _ _ (by decide)
theorem EncFits.ltb (d : Dst) (w : BitVec 4) (a : Src) (b : Src) (acq : Bool) (rel : Bool) : EncFits.Statement (Instr.ltb d w a b acq rel) := encM_lt _ _ _ _ _ _ _ (by decide)
theorem EncFits.lta (d : Dst) (w : BitVec 4) (a : Src) (b : Src) (acq : Bool) (rel : Bool) : EncFits.Statement (Instr.lta d w a b acq rel) := encM_lt _ _ _ _ _ _ _ (by decide)
theorem EncFits.ltd (d : Dst) (w : BitVec 4) (a : Src) (b : Src) (acq : Bool) (rel : Bool) : EncFits.Statement (Instr.ltd d w a b acq rel) := encM_lt _ _ _ _ _ _ _ (by decide)
theorem EncFits.ltp (d : Dst) (w : BitVec 4) (a : Src) (b : Src) (acq : Bool) (rel : Bool) : EncFits.Statement (Instr.ltp d w a b acq rel) := encM_lt _ _ _ _ _ _ _ (by decide)
theorem EncFits.ltq (d : Dst) (w : BitVec 4) (a : Src) (acq : Bool) (rel : Bool) : EncFits.Statement (Instr.ltq d w a acq rel) := encM_lt _ _ _ _ _ _ _ (by decide)
theorem EncFits.dsc (d : Dst) (w : BitVec 4) (a : Src) (acq : Bool) (rel : Bool) : EncFits.Statement (Instr.dsc d w a acq rel) := encM_lt _ _ _ _ _ _ _ (by decide)
theorem EncFits.mma (f : Fmt) (bank : Bool) (kcnt : BitVec 8) (chn : Bool) : EncFits.Statement (Instr.mma f bank kcnt chn) := by
  have h0 := fmt_code_lt f
  have h1 := bank.toNat_lt
  have h2 := kcnt.isLt
  have h3 := chn.toNat_lt
  exact packX_lt (by omega) (by omega) (by omega) (by omega) (by omega) (by omega) (by omega) (by omega) (by omega)
theorem EncFits.mmas (f : Fmt) (sp : Spar) (bank : Bool) (kcnt : BitVec 8) (chn : Bool) : EncFits.Statement (Instr.mmas f sp bank kcnt chn) := by
  have h0 := fmt_code_lt f
  have h1 := spar_code_lt sp
  have h2 := bank.toNat_lt
  have h3 := kcnt.isLt
  have h4 := chn.toNat_lt
  exact packX_lt (by omega) (by omega) (by omega) (by omega) (by omega) (by omega) (by omega) (by omega) (by omega)
theorem EncFits.ldt (f : Fmt) (e : Edge) (w : BitVec 4) (kcnt : BitVec 8) : EncFits.Statement (Instr.ldt f e w kcnt) := by
  have h0 := fmt_code_lt f
  have h1 := edge_code_lt e
  have h2 := w.isLt
  have h3 := kcnt.isLt
  exact packX_lt (by omega) (by omega) (by omega) (by omega) (by omega) (by omega) (by omega) (by omega) (by omega)
theorem EncFits.mdl (mreg : BitVec 4) (kcnt : BitVec 8) : EncFits.Statement (Instr.mdl mreg kcnt) := by
  have h0 := mreg.isLt
  have h1 := kcnt.isLt
  exact packX_lt (by omega) (by omega) (by omega) (by omega) (by omega) (by omega) (by omega) (by omega) (by omega)
theorem EncFits.drn (f : Fmt) (bank : Bool) : EncFits.Statement (Instr.drn f bank) := by
  have h0 := fmt_code_lt f
  have h1 := bank.toNat_lt
  exact packX_lt (by omega) (by omega) (by omega) (by omega) (by omega) (by omega) (by omega) (by omega) (by omega)
theorem EncFits.zac (f : Fmt) (bank : Bool) : EncFits.Statement (Instr.zac f bank) := by
  have h0 := fmt_code_lt f
  have h1 := bank.toNat_lt
  exact packX_lt (by omega) (by omega) (by omega) (by omega) (by omega) (by omega) (by omega) (by omega) (by omega)
theorem EncFits.cmpr (f : Fmt) (sp : Spar) (kcnt : BitVec 8) : EncFits.Statement (Instr.cmpr f sp kcnt) := by
  have h0 := fmt_code_lt f
  have h1 := spar_code_lt sp
  have h2 := kcnt.isLt
  exact packX_lt (by omega) (by omega) (by omega) (by omega) (by omega) (by omega) (by omega) (by omega) (by omega)
theorem EncFits.accl (f : Fmt) (bank : Bool) : EncFits.Statement (Instr.accl f bank) := by
  have h0 := fmt_code_lt f
  have h1 := bank.toNat_lt
  exact packX_lt (by omega) (by omega) (by omega) (by omega) (by omega) (by omega) (by omega) (by omega) (by omega)
theorem EncFits.lde (f : Fmt) (e : Edge) (w : BitVec 4) (kcnt : BitVec 8) : EncFits.Statement (Instr.lde f e w kcnt) := by
  have h0 := fmt_code_lt f
  have h1 := edge_code_lt e
  have h2 := w.isLt
  have h3 := kcnt.isLt
  exact packX_lt (by omega) (by omega) (by omega) (by omega) (by omega) (by omega) (by omega) (by omega) (by omega)
theorem EncFits.mrg (f : Fmt) (r : Red) (d : Dst) (a : Src) (b : Src) : EncFits.Statement (Instr.mrg f r d a b) := by
  have h0 := fmt_code_lt f
  have h1 := red_code_lt r
  have h2 := dst_code_lt d
  have h3 := src_code_lt a
  have h4 := src_code_lt b
  exact packG_lt (by omega) (by omega) (by omega) (by omega) (by omega) (by omega) (by omega)
theorem EncFits.dns (f : Fmt) (d : Dst) (a : Src) : EncFits.Statement (Instr.dns f d a) := by
  have h0 := fmt_code_lt f
  have h1 := dst_code_lt d
  have h2 := src_code_lt a
  exact packG_lt (by omega) (by omega) (by omega) (by omega) (by omega) (by omega) (by omega)
theorem EncFits.sps (f : Fmt) (d : Dst) (a : Src) : EncFits.Statement (Instr.sps f d a) := by
  have h0 := fmt_code_lt f
  have h1 := dst_code_lt d
  have h2 := src_code_lt a
  exact packG_lt (by omega) (by omega) (by omega) (by omega) (by omega) (by omega) (by omega)
theorem EncFits.cred (f : Fmt) (r : Red) (d : Dst) (a : Src) (grp : BitVec 4) : EncFits.Statement (Instr.cred f r d a grp) := by
  have h0 := fmt_code_lt f
  have h1 := red_code_lt r
  have h2 := dst_code_lt d
  have h3 := src_code_lt a
  have h4 := grp.isLt
  exact packG_lt (by omega) (by omega) (by omega) (by omega) (by omega) (by omega) (by omega)
theorem EncFits.cbcs (f : Fmt) (d : Dst) (a : Src) (grp : BitVec 4) : EncFits.Statement (Instr.cbcs f d a grp) := by
  have h0 := fmt_code_lt f
  have h1 := dst_code_lt d
  have h2 := src_code_lt a
  have h3 := grp.isLt
  exact packG_lt (by omega) (by omega) (by omega) (by omega) (by omega) (by omega) (by omega)
theorem EncFits.nbar (d : Dst) (grp : BitVec 4) : EncFits.Statement (Instr.nbar d grp) := by
  have h0 := dst_code_lt d
  have h1 := grp.isLt
  exact packG_lt (by omega) (by omega) (by omega) (by omega) (by omega) (by omega) (by omega)
theorem EncFits.nred (f : Fmt) (r : Red) (d : Dst) (a : Src) (grp : BitVec 4) : EncFits.Statement (Instr.nred f r d a grp) := by
  have h0 := fmt_code_lt f
  have h1 := red_code_lt r
  have h2 := dst_code_lt d
  have h3 := src_code_lt a
  have h4 := grp.isLt
  exact packG_lt (by omega) (by omega) (by omega) (by omega) (by omega) (by omega) (by omega)
theorem EncFits.tokenArrival (n : NodeId) (l : Letter) (port : Fin 4) : EncFits.Statement (Instr.tokenArrival n l port) := Nat.two_pow_pos 32
theorem EncFits.cvConversion (n : NodeId) (l : Letter) (port : Fin 4) : EncFits.Statement (Instr.cvConversion n l port) := Nat.two_pow_pos 32
theorem EncFits.lazyRequest (n : NodeId) (l : Letter) (out : Nat) (k : Nat) : EncFits.Statement (Instr.lazyRequest n l out k) := Nat.two_pow_pos 32
theorem EncFits.outPortSend (n : NodeId) (l : Letter) (out : Nat) : EncFits.Statement (Instr.outPortSend n l out) := Nat.two_pow_pos 32
theorem EncFits.writeBack (n : NodeId) (l : Letter) (op : Nat) : EncFits.Statement (Instr.writeBack n l op) := Nat.two_pow_pos 32
theorem EncFits.microOperationStart (n : NodeId) : EncFits.Statement (Instr.microOperationStart n) := Nat.two_pow_pos 32
theorem EncFits.autoEosForward (n : NodeId) (l : Letter) : EncFits.Statement (Instr.autoEosForward n l) := Nat.two_pow_pos 32
theorem EncFits.markAction (n : NodeId) (l : Letter) : EncFits.Statement (Instr.markAction n l) := Nat.two_pow_pos 32
theorem EncFits.markTimeout (n : NodeId) (l : Letter) (port : Fin 4) : EncFits.Statement (Instr.markTimeout n l port) := Nat.two_pow_pos 32
theorem EncFits.poisonForward (n : NodeId) (l : Letter) : EncFits.Statement (Instr.poisonForward n l) := Nat.two_pow_pos 32
theorem EncFits.planeLoadComplete (p : Nat) (l : Letter) : EncFits.Statement (Instr.planeLoadComplete p l) := Nat.two_pow_pos 32
theorem EncFits.scratchpadZeroing (p : Nat) : EncFits.Statement (Instr.scratchpadZeroing p) := Nat.two_pow_pos 32
theorem EncFits.accessPerform (acc : Nat) (ecc : Ecc) : EncFits.Statement (Instr.accessPerform acc ecc) := Nat.two_pow_pos 32
theorem EncFits.windowRelease (i : Nat) : EncFits.Statement (Instr.windowRelease i) := Nat.two_pow_pos 32
theorem EncFits.exchangeSwap (i : Nat) : EncFits.Statement (Instr.exchangeSwap i) := Nat.two_pow_pos 32
theorem EncFits.nbarRelease (i : Nat) (grp : Nat) : EncFits.Statement (Instr.nbarRelease i grp) := Nat.two_pow_pos 32
theorem EncFits.nredDelivery (i : Nat) (grp : Nat) : EncFits.Statement (Instr.nredDelivery i grp) := Nat.two_pow_pos 32
theorem EncFits.translationAnswer (acc : Nat) : EncFits.Statement (Instr.translationAnswer acc) := Nat.two_pow_pos 32
theorem EncFits.shootdown (c : Nat) : EncFits.Statement (Instr.shootdown c) := Nat.two_pow_pos 32
theorem EncFits.rltMarkEmerge (c : Nat) (n : NodeId) : EncFits.Statement (Instr.rltMarkEmerge c n) := Nat.two_pow_pos 32
theorem EncFits.lowWaterQuery (c : Nat) : EncFits.Statement (Instr.lowWaterQuery c) := Nat.two_pow_pos 32
theorem EncFits.lowWaterResult (c : Nat) : EncFits.Statement (Instr.lowWaterResult c) := Nat.two_pow_pos 32
theorem EncFits.reclaim (c : Nat) : EncFits.Statement (Instr.reclaim c) := Nat.two_pow_pos 32
theorem EncFits.reclaimAnswer (c : Nat) : EncFits.Statement (Instr.reclaimAnswer c) := Nat.two_pow_pos 32
theorem EncFits.ltSerialisation (acc : Nat) : EncFits.Statement (Instr.ltSerialisation acc) := Nat.two_pow_pos 32
theorem EncFits.layerUnitLoad (acc : Nat) : EncFits.Statement (Instr.layerUnitLoad acc) := Nat.two_pow_pos 32
theorem EncFits.pressAccept (die : Nat) : EncFits.Statement (Instr.pressAccept die) := Nat.two_pow_pos 32
theorem EncFits.pressComplete (die : Nat) : EncFits.Statement (Instr.pressComplete die) := Nat.two_pow_pos 32
theorem EncFits.pressFail (die : Nat) : EncFits.Statement (Instr.pressFail die) := Nat.two_pow_pos 32
theorem EncFits.copyStart (n : NodeId) : EncFits.Statement (Instr.copyStart n) := Nat.two_pow_pos 32
theorem EncFits.copyComplete (n : NodeId) : EncFits.Statement (Instr.copyComplete n) := Nat.two_pow_pos 32
theorem EncFits.promiseMissed (n : NodeId) : EncFits.Statement (Instr.promiseMissed n) := Nat.two_pow_pos 32
theorem EncFits.sliceBankZeroing (level : Nat) (sw : Nat) (way : Nat) : EncFits.Statement (Instr.sliceBankZeroing level sw way) := Nat.two_pow_pos 32
theorem EncFits.laneDistribute (p : Nat) (l : Letter) (e : Edge) : EncFits.Statement (Instr.laneDistribute p l e) := Nat.two_pow_pos 32
theorem EncFits.tileComplete (p : Nat) (l : Letter) : EncFits.Statement (Instr.tileComplete p l) := Nat.two_pow_pos 32
theorem EncFits.drainComplete (p : Nat) (l : Letter) : EncFits.Statement (Instr.drainComplete p l) := Nat.two_pow_pos 32
theorem EncFits.edgeLoadComplete (p : Nat) (l : Letter) (e : Edge) : EncFits.Statement (Instr.edgeLoadComplete p l e) := Nat.two_pow_pos 32
theorem EncFits.metadataLoadComplete (p : Nat) (l : Letter) : EncFits.Statement (Instr.metadataLoadComplete p l) := Nat.two_pow_pos 32
theorem EncFits.cmprComplete (p : Nat) (l : Letter) : EncFits.Statement (Instr.cmprComplete p l) := Nat.two_pow_pos 32
theorem EncFits.streamOperationEnd (n : NodeId) : EncFits.Statement (Instr.streamOperationEnd n) := Nat.two_pow_pos 32
theorem EncFits.collectiveResult (n : NodeId) (parts : List Partial) : EncFits.Statement (Instr.collectiveResult n parts) := Nat.two_pow_pos 32
theorem EncFits.patternFetch (c : Nat) (pat : Nat) : EncFits.Statement (Instr.patternFetch c pat) := Nat.two_pow_pos 32
theorem EncFits.cutterSearch (req : Nat) : EncFits.Statement (Instr.cutterSearch req) := Nat.two_pow_pos 32
theorem EncFits.memberPlaced (req : Nat) : EncFits.Statement (Instr.memberPlaced req) := Nat.two_pow_pos 32
theorem EncFits.bundleWaitBound (b : Nat) : EncFits.Statement (Instr.bundleWaitBound b) := Nat.two_pow_pos 32
theorem EncFits.castComplete (i : Nat) : EncFits.Statement (Instr.castComplete i) := Nat.two_pow_pos 32
theorem EncFits.placementTimeout (b : Nat) : EncFits.Statement (Instr.placementTimeout b) := Nat.two_pow_pos 32
theorem EncFits.castResume (i : Nat) : EncFits.Statement (Instr.castResume i) := Nat.two_pow_pos 32
theorem EncFits.spillWrite (n : NodeId) (l : Letter) (out : Fin 4) : EncFits.Statement (Instr.spillWrite n l out) := Nat.two_pow_pos 32
theorem EncFits.spillStall (n : NodeId) (l : Letter) (out : Fin 4) : EncFits.Statement (Instr.spillStall n l out) := Nat.two_pow_pos 32
theorem EncFits.instanceEnd (i : Nat) : EncFits.Statement (Instr.instanceEnd i) := Nat.two_pow_pos 32
theorem EncFits.nopPacket (q : Nat) : EncFits.Statement (Instr.nopPacket q) := Nat.two_pow_pos 32
theorem EncFits.launch (q : Nat) : EncFits.Statement (Instr.launch q) := Nat.two_pow_pos 32
theorem EncFits.barrier (q : Nat) : EncFits.Statement (Instr.barrier q) := Nat.two_pow_pos 32
theorem EncFits.copy (q : Nat) : EncFits.Statement (Instr.copy q) := Nat.two_pow_pos 32
theorem EncFits.signal (q : Nat) : EncFits.Statement (Instr.signal q) := Nat.two_pow_pos 32
theorem EncFits.pattern (q : Nat) : EncFits.Statement (Instr.pattern q) := Nat.two_pow_pos 32
theorem EncFits.spawned (c : Nat) : EncFits.Statement (Instr.spawned c) := Nat.two_pow_pos 32
theorem EncFits.packetSkip (q : Nat) : EncFits.Statement (Instr.packetSkip q) := Nat.two_pow_pos 32
theorem EncFits.barrierPeriodicEvaluation : EncFits.Statement .barrierPeriodicEvaluation := Nat.two_pow_pos 32
theorem EncFits.barrierTimeout (run : Nat) : EncFits.Statement (Instr.barrierTimeout run) := Nat.two_pow_pos 32
theorem EncFits.copyPacketComplete (run : Nat) : EncFits.Statement (Instr.copyPacketComplete run) := Nat.two_pow_pos 32
theorem EncFits.completionAdd (run : Nat) : EncFits.Statement (Instr.completionAdd run) := Nat.two_pow_pos 32
theorem EncFits.trapDelivery (core : Nat) : EncFits.Statement (Instr.trapDelivery core) := Nat.two_pow_pos 32
theorem EncFits.replayHold (i : Nat) : EncFits.Statement (Instr.replayHold i) := Nat.two_pow_pos 32
theorem EncFits.replayDivergence (i : Nat) : EncFits.Statement (Instr.replayDivergence i) := Nat.two_pow_pos 32
theorem EncFits.watchdog (i : Nat) : EncFits.Statement (Instr.watchdog i) := Nat.two_pow_pos 32
theorem EncFits.quiescence (i : Nat) : EncFits.Statement (Instr.quiescence i) := Nat.two_pow_pos 32
theorem EncFits.pmkInjection (c : Nat) : EncFits.Statement (Instr.pmkInjection c) := Nat.two_pow_pos 32
theorem EncFits.switchOutSave (i : Nat) : EncFits.Statement (Instr.switchOutSave i) := Nat.two_pow_pos 32
theorem EncFits.switchIn (i : Nat) : EncFits.Statement (Instr.switchIn i) := Nat.two_pow_pos 32
theorem EncFits.tstep (core : Nat) (n : Nat) : EncFits.Statement (Instr.tstep core n) := Nat.two_pow_pos 32
theorem EncFits.dbgcmdFreeze (c : Nat) : EncFits.Statement (Instr.dbgcmdFreeze c) := Nat.two_pow_pos 32
theorem EncFits.dbgcmdStep (c : Nat) : EncFits.Statement (Instr.dbgcmdStep c) := Nat.two_pow_pos 32
theorem EncFits.dbgcmdResume (c : Nat) : EncFits.Statement (Instr.dbgcmdResume c) := Nat.two_pow_pos 32
theorem EncFits.stepReport (c : Nat) : EncFits.Statement (Instr.stepReport c) := Nat.two_pow_pos 32
theorem EncFits.planeParity (n : NodeId) (l : Letter) : EncFits.Statement (Instr.planeParity n l) := Nat.two_pow_pos 32
theorem EncFits.sliceEnd (pt : Nat) : EncFits.Statement (Instr.sliceEnd pt) := Nat.two_pow_pos 32
theorem EncFits.eslInjection (pt : Nat) : EncFits.Statement (Instr.eslInjection pt) := Nat.two_pow_pos 32
theorem EncFits.outgoingLetterSave (p : Nat) : EncFits.Statement (Instr.outgoingLetterSave p) := Nat.two_pow_pos 32
theorem EncFits.panelExchange (p : Nat) : EncFits.Statement (Instr.panelExchange p) := Nat.two_pow_pos 32
theorem EncFits.prectWrite (h : Flosy) (pt : Nat) (v : BitVec 64) : EncFits.Statement (Instr.prectWrite h pt v) := Nat.two_pow_pos 32
theorem EncFits.selvageRewrite (pt : Nat) : EncFits.Statement (Instr.selvageRewrite pt) := Nat.two_pow_pos 32
theorem EncFits.vflimWrite (h : Flosy) (vf : Nat) (k : Nat) (v : BitVec 64) : EncFits.Statement (Instr.vflimWrite h vf k v) := Nat.two_pow_pos 32
theorem EncFits.pcfgWrite (h : Flosy) (q : Nat) (v : BitVec 64) : EncFits.Statement (Instr.pcfgWrite h q v) := Nat.two_pow_pos 32
theorem EncFits.linkDown (link : Nat) : EncFits.Statement (Instr.linkDown link) := Nat.two_pow_pos 32
theorem EncFits.peerAccessArrival (src : Nat) (seq : Nat) (c : Nat) (va : Nat) (op : PeerOp) : EncFits.Statement (Instr.peerAccessArrival src seq c va op) := Nat.two_pow_pos 32
theorem EncFits.regRd (h : Flosy) (off : Nat) (len : Nat) : EncFits.Statement (Instr.regRd h off len) := Nat.two_pow_pos 32
theorem EncFits.regWr (h : Flosy) (off : Nat) (len : Nat) (v : BitVec 64) : EncFits.Statement (Instr.regWr h off len v) := Nat.two_pow_pos 32
theorem EncFits.memRd (h : Flosy) (c : Nat) (va : Nat) (len : Nat) : EncFits.Statement (Instr.memRd h c va len) := Nat.two_pow_pos 32
theorem EncFits.memWr (h : Flosy) (c : Nat) (va : Nat) (data : List Byte) : EncFits.Statement (Instr.memWr h c va data) := Nat.two_pow_pos 32
theorem EncFits.doorbell (h : Flosy) (c : Nat) (qcb : Nat) (tail : BitVec 64) : EncFits.Statement (Instr.doorbell h c qcb tail) := Nat.two_pow_pos 32
theorem EncFits.makeResident (h : Flosy) (c : Nat) (qcb : Nat) : EncFits.Statement (Instr.makeResident h c qcb) := Nat.two_pow_pos 32
theorem EncFits.switchOut (h : Flosy) (c : Nat) (qcb : Nat) : EncFits.Statement (Instr.switchOut h c qcb) := Nat.two_pow_pos 32
theorem EncFits.enable (h : Flosy) (c : Nat) (qcb : Nat) : EncFits.Statement (Instr.enable h c qcb) := Nat.two_pow_pos 32
theorem EncFits.resume (h : Flosy) (c : Nat) (qcb : Nat) : EncFits.Statement (Instr.resume h c qcb) := Nat.two_pow_pos 32
theorem EncFits.disable (h : Flosy) (c : Nat) (qcb : Nat) : EncFits.Statement (Instr.disable h c qcb) := Nat.two_pow_pos 32
theorem EncFits.queueDisabled (q : Nat) : EncFits.Statement (Instr.queueDisabled q) := Nat.two_pow_pos 32
theorem EncFits.sigwr (h : Flosy) (c : Nat) (va : Nat) (v : BitVec 64) : EncFits.Statement (Instr.sigwr h c va v) := Nat.two_pow_pos 32
theorem EncFits.power (h : Flosy) (island : Nat) (st : Nat) : EncFits.Statement (Instr.power h island st) := Nat.two_pow_pos 32
theorem EncFits.powerTransitionComplete (island : Nat) : EncFits.Statement (Instr.powerTransitionComplete island) := Nat.two_pow_pos 32
theorem EncFits.attest (h : Flosy) (nonce : List Byte) : EncFits.Statement (Instr.attest h nonce) := Nat.two_pow_pos 32
theorem EncFits.powerOnReset (imgs : List FwImage) : EncFits.Statement (Instr.powerOnReset imgs) := Nat.two_pow_pos 32
theorem EncFits.thermalTrip (temp : Nat) : EncFits.Statement (Instr.thermalTrip temp) := Nat.two_pow_pos 32
theorem EncFits.tripRecovery : EncFits.Statement .tripRecovery := Nat.two_pow_pos 32
theorem EncFits.linkUp (link : Nat) : EncFits.Statement (Instr.linkUp link) := Nat.two_pow_pos 32
theorem EncFits.memoryLinkDown (link : Nat) : EncFits.Statement (Instr.memoryLinkDown link) := Nat.two_pow_pos 32
theorem EncFits.linkLevelRetry (link : Nat) : EncFits.Statement (Instr.linkLevelRetry link) := Nat.two_pow_pos 32
theorem EncFits.connectionSetUp (port : Nat) (k : ConnKind) : EncFits.Statement (Instr.connectionSetUp port k) := Nat.two_pow_pos 32

end Sys2Proof.Laws
end

