-- ==== Sys2Proof/Tests/Slice0.lean ====
section
/-! SUPPORT. The model's own tests: the checks of `Instr.wf` refuse what they should, words written out from the
spec's encodings decode to their instructions, a few steps on small states, and, for each statement of
OBLIGATIONS.json that has hypotheses, states and operands that meet them (`test_meets_<statement>`, one conjunct or one
numbered theorem for each clause). Expected results are the spec's words or worked by hand from them. -/

namespace Sys2Proof.Tests
open Sys2Proof Sys2Proof.Machine Sys2Proof.Said
set_option Elab.async false

/-! ### Well-formedness: one ill-formed term for each check -/

theorem test_wf_format : (Instr.add .f32 (.g 0) .zero .zero false).wf .slot = false := by decide
theorem test_wf_float_format : (Instr.fadd .i8 (.g 0) .zero .zero .dflt).wf .slot = false := by decide
theorem test_wf_narrow_format : (Instr.fdot .f32 (.g 0) .zero .zero .zero).wf .slot = false := by decide
theorem test_wf_wide_format : (Instr.frcp .q8 (.g 0) .zero .dflt).wf .slot = false := by decide
theorem test_wf_packed_format : (Instr.pack .f32 (.g 0) .zero .zero).wf .slot = false := by decide
theorem test_wf_tile_format : (Instr.mma .f32 false 0 false).wf .slot = false := by decide
theorem test_wf_source_t_in_slot : (Instr.mov .w32 (.g 0) (.t 0)).wf .slot = false := by decide
theorem test_wf_source_port_in_micro : (Instr.mov .w32 (.g 0) (.inC 0)).wf .micro = false := by decide
theorem test_wf_source_port_in_seq : (Instr.mov .w32 (.g 0) (.inP 0)).wf .seq = false := by decide
theorem test_wf_source_immediate : (Instr.mov .w32 (.g 0) (.imm 1)).wf .slot = false := by decide
theorem test_wf_dest_t_in_slot : (Instr.movi (.t 0) 1).wf .slot = false := by decide
theorem test_wf_dest_out_in_micro : (Instr.movi (.out 0) 1).wf .micro = false := by decide
theorem test_wf_dest_out_in_seq : (Instr.movi (.out 0) 1).wf .seq = false := by decide
theorem test_wf_movhi_register : (Instr.movhi (.p 0) 1).wf .slot = false := by decide
theorem test_wf_mktag_kind : (Instr.mktag (.g 0) .zero 0xC0).wf .slot = false := by decide
theorem test_wf_pseti_values : (Instr.pseti 1 2).wf .slot = false := by decide
theorem test_wf_pseti_mask : (Instr.pseti 0 0).wf .slot = false := by decide
theorem test_wf_wid_dimension : (Instr.wid (.g 0) 7).wf .slot = false := by decide
theorem test_wf_clk_half : (Instr.clk (.g 0) 2).wf .slot = false := by decide
theorem test_wf_iid_selector : (Instr.iid (.g 0) 5).wf .slot = false := by decide
theorem test_wf_cvt_nanov : (Instr.cvt .b16 (.g 0) .zero .dflt true).wf .slot = false := by decide
theorem test_wf_seam_in_micro : (Instr.emit (.g 0) .zero).wf .micro = false := by decide
theorem test_wf_drop_consumes : (Instr.drop (.g 0)).wf .slot = false := by decide
theorem test_wf_fwd_port : (Instr.fwd (.g 0) .zero).wf .slot = false := by decide
theorem test_wf_swpt_out : (Instr.swpt (.g 0) .zero).wf .slot = false := by decide
theorem test_wf_stky_port : (Instr.stky (.inC 0) 1).wf .slot = false := by decide
theorem test_wf_dmnd_count : (Instr.dmnd (.inP 0) 3).wf .slot = false := by decide
theorem test_wf_prio_class : (Instr.prio 4).wf .slot = false := by decide
theorem test_wf_nop_in_micro : Instr.nop.wf .micro = false := by decide
theorem test_wf_trap_in_micro : (Instr.trap 0).wf .micro = false := by decide
theorem test_wf_eret_in_slot : Instr.eretReplay.wf .slot = false := by decide
theorem test_wf_mbr_offset : (Instr.mbr .zero 64).wf .micro = false := by decide
theorem test_wf_mend_in_slot : (Instr.mend .zero).wf .slot = false := by decide
theorem test_wf_fen_scope : (Instr.fen .disc 0).wf .slot = false := by decide
theorem test_wf_load_in_micro : (Instr.lds .w32 (.g 0) 0 .zero false false).wf .micro = false := by decide
theorem test_wf_stv_consumes : (Instr.stv .w32 .disc 0 .zero (.g 0) false false).wf .slot = false := by decide
theorem test_wf_afadd_format : (Instr.afadd .q8 (.g 0) 0 .zero .zero false false).wf .slot = false := by decide
theorem test_wf_acas_register : (Instr.acas .disc 0 .zero .zero false false).wf .slot = false := by decide
theorem test_wf_bupd_format : (Instr.bupd .h16 (.g 0) 0 .zero .zero false false).wf .slot = false := by decide
theorem test_wf_mmas_sparsity : (Instr.mmas .q8 .dense false 0 false).wf .slot = false := by decide
theorem test_wf_mmas_length : (Instr.mmas .b16 .s24 false 8 false).wf .slot = false := by decide
theorem test_wf_ldt_length : (Instr.ldt .b16 .west 0 0).wf .slot = false := by decide
theorem test_wf_mdl_register : (Instr.mdl 15 1).wf .slot = false := by decide
theorem test_wf_drn_format : (Instr.drn .x8 false).wf .slot = false := by decide
theorem test_wf_zac_format : (Instr.zac .b16 false).wf .slot = false := by decide
theorem test_wf_cmpr_format : (Instr.cmpr .x8 .s24 0).wf .slot = false := by decide
theorem test_wf_lde_block : (Instr.lde .x8 .west 0 0).wf .slot = false := by decide
theorem test_wf_mrg_consumes : (Instr.mrg .f32 .sum (.g 0) (.g 0) (.inC 0)).wf .slot = false := by decide
theorem test_wf_nred_format : (Instr.nred .q8 .sum (.g 0) (.inC 0) 0).wf .slot = false := by decide
theorem test_wf_event_is_no_word : (Instr.instanceEnd 1).wf .slot = false := by decide

/-! ### Decoding: a word for each family, from the spec's own examples or field by field from its forms -/

theorem test_decode_fwd : decodeA .stitch 0 0x52084400 = .ok (.fwd (.out 0) (.inC 0)) := by decide +kernel
theorem test_decode_fmul : decodeA .stitch 0 0x22484040 = .ok (.fmul .b16 (.out 0) (.inC 0) (.g 1) .dflt) := by
  decide +kernel
theorem test_decode_shl : decodeA .stitch 0 0x0A0840A0 = .ok (.shl (.out 0) (.inC 0) (.imm 2)) := by decide +kernel
theorem test_decode_fadd : decodeA .stitch 0 0x20280A00 = .ok (.fadd .f32 (.out 0) (.g 1) (.inC 0) .dflt) := by
  decide +kernel
theorem test_decode_lds : decodeA .mp 0 0x80242202 = .ok (.lds .b16 (.out 0) 2 (.inC 0) false false) := by
  decide +kernel
theorem test_decode_callb : decodeA .stitch 0 0x6119512C = .ok (.callb (.g 3) 1 5 300) := by decide +kernel
theorem test_decode_plog : decodeA .stitch 0 0x45654000 = .ok (.plog 3 1 2 8) := by decide +kernel
theorem test_decode_cvt : decodeA .stitch 0 0b00110110_100_00010_00001_10000_001001 = .ok (.cvt .q8 (.g 2) (.g 1) .rtz true) := by
  decide +kernel
theorem test_decode_rdsr : decodeA .stitch 0 0b01110010_000_00001_10000_00000000110 = .ok (.rdsr (.g 1) 6) := by decide +kernel
theorem test_decode_acas :
    decodeA .mp 0 0b10011000_0001_00011_01000_01001_11000 = .ok (.acas (.g 3) 1 (.inC 0) (.inC 1) true true) := by
  decide +kernel
theorem test_decode_gth : decodeA .mp 0 0b10100010_0101_01000_01000_10000_00001 = .ok (.gth .f32 (.out 0) 5 (.inC 0) false false) := by
  decide +kernel
theorem test_decode_ldt : decodeA .mxa 0 0b10110010_010_0_0000_00001111_00_1_0_0011 = .ok (.ldt .b16 .north 3 15) := by decide +kernel
theorem test_decode_nred : decodeA .nt 0 0b11000110_001_01000_01000_10000_01_0101 = .ok (.nred .f32 .max (.out 0) (.inC 0) 5) := by
  decide +kernel
theorem test_decode_bsp : decodeA .stitch 0 0b11100011_001_01000_01000_00001_000101 = .ok (.bsp 3 .f32 (.out 0) (.inC 0) (.g 1) (.g 2) true) := by
  decide +kernel

/-- The decoder reads each word as its instruction, on its unit and under its handler action. -/
def reads (l : List (NodeKind × Nat × Word × Instr)) : Bool :=
  l.all fun e => decide (decodeA e.1 e.2.1 e.2.2.1 = .ok e.2.2.2)

theorem test_words_integer : reads [
    (.stitch, 0, 0b00000000_101_00011_01001_00010_000010, .add .i8 (.g 3) (.inC 1) (.g 2) true),
    (.stitch, 0, 0b00000001_101_00011_01001_00010_000010, .sub .i8 (.g 3) (.inC 1) (.g 2) true),
    (.stitch, 0, 0b00000011_101_00011_01001_00010_000010, .mul .i8 (.g 3) (.inC 1) (.g 2) true),
    (.stitch, 0, 0b00000100_101_00011_01001_10001_100000, .mulh .i8 (.g 3) (.inC 1) (.imm 17)),
    (.stitch, 0, 0b00000101_101_00011_01001_10001_100000, .mulhu .i8 (.g 3) (.inC 1) (.imm 17)),
    (.stitch, 0, 0b00010000_101_00011_01001_10001_100000, .min .i8 (.g 3) (.inC 1) (.imm 17)),
    (.stitch, 0, 0b00010001_101_00011_01001_10001_100000, .max .i8 (.g 3) (.inC 1) (.imm 17)),
    (.stitch, 0, 0b00010010_101_00011_01001_10001_100000, .minu .i8 (.g 3) (.inC 1) (.imm 17)),
    (.stitch, 0, 0b00010011_101_00011_01001_10001_100000, .maxu .i8 (.g 3) (.inC 1) (.imm 17)),
    (.stitch, 0, 0b00011101_101_00011_01001_10001_100000, .adds .i8 (.g 3) (.inC 1) (.imm 17)),
    (.stitch, 0, 0b00011110_101_00011_01001_10001_100000, .subs .i8 (.g 3) (.inC 1) (.imm 17)),
    (.stitch, 0, 0b00011011_101_10110_01001_00010_001100, .cmp .i8 .le (.p 6) (.inC 1) (.g 2)),
    (.stitch, 0, 0b00011100_101_00011_01001_110_11111111, .cmpi .i8 .ltu (.g 3) (.inC 1) 255),
    (.stitch, 0, 0b00010100_101_00011_01001_10000_000010, .abs .i8 (.g 3) (.inC 1) true),
    (.stitch, 0, 0b00010101_101_00011_01001_10000_000010, .neg .i8 (.g 3) (.inC 1) true),
    (.stitch, 0, 0b00011111_101_00011_01001_00010_00101_1, .mad .i8 (.g 3) (.inC 1) (.g 2) (.g 5) true),
    (.stitch, 0, 0b00000010_000_00011_01001_11111111111, .addi (.g 3) (.inC 1) (BitVec.ofInt 11 (-1)))] = true := by decide +kernel

theorem test_words_bits : reads [
    (.stitch, 0, 0b00000110_000_00011_01001_00010_000000, .and (.g 3) (.inC 1) (.g 2)),
    (.stitch, 0, 0b00000111_000_00011_01001_00010_000000, .or (.g 3) (.inC 1) (.g 2)),
    (.stitch, 0, 0b00001000_000_00011_01001_00010_000000, .xor (.g 3) (.inC 1) (.g 2)),
    (.stitch, 0, 0b00001001_000_00011_01001_00010_000000, .andn (.g 3) (.inC 1) (.g 2)),
    (.stitch, 0, 0b00001010_000_00011_01001_00010_000000, .shl (.g 3) (.inC 1) (.g 2)),
    (.stitch, 0, 0b00001011_000_00011_01001_00010_000000, .shr (.g 3) (.inC 1) (.g 2)),
    (.stitch, 0, 0b00001100_000_00011_01001_00010_000000, .sar (.g 3) (.inC 1) (.g 2)),
    (.stitch, 0, 0b00001101_000_00011_01001_00010_000000, .rol (.g 3) (.inC 1) (.g 2)),
    (.stitch, 0, 0b00001110_000_00011_01001_10000000001, .andi (.g 3) (.inC 1) 0b10000000001),
    (.stitch, 0, 0b00001111_000_00011_01001_10000000001, .ori (.g 3) (.inC 1) 0b10000000001),
    (.stitch, 0, 0b00010110_000_00011_01001_10000_000000, .clz (.g 3) (.inC 1)),
    (.stitch, 0, 0b00010111_000_00011_01001_10000_000000, .popc (.g 3) (.inC 1)),
    (.stitch, 0, 0b00011000_000_00011_01001_00010_00101_0, .ext (.g 3) (.inC 1) (.g 2) (.g 5)),
    (.stitch, 0, 0b00011001_000_00011_01001_00010_00101_0, .ins (.g 3) (.inC 1) (.g 2) (.g 5)),
    (.stitch, 0, 0b00011010_000_00011_01001_00010_00101_0, .sel (.g 3) (.inC 1) (.g 2) (.g 5))] = true := by decide +kernel

theorem test_words_floats : reads [
    (.stitch, 0, 0b00100000_011_00011_01001_00010_010000, .fadd .h16 (.g 3) (.inC 1) (.g 2) .rup),
    (.stitch, 0, 0b00100001_011_00011_01001_00010_010000, .fsub .h16 (.g 3) (.inC 1) (.g 2) .rup),
    (.stitch, 0, 0b00100010_011_00011_01001_00010_010000, .fmul .h16 (.g 3) (.inC 1) (.g 2) .rup),
    (.stitch, 0, 0b00100011_011_00011_01001_00010_00101_0, .fma .h16 (.g 3) (.inC 1) (.g 2) (.g 5)),
    (.stitch, 0, 0b00101010_011_00011_01001_00010_00101_0, .fdot .h16 (.g 3) (.inC 1) (.g 2) (.g 5)),
    (.stitch, 0, 0b00101100_011_00011_01001_00010_00101_0, .fclp .h16 (.g 3) (.inC 1) (.g 2) (.g 5)),
    (.stitch, 0, 0b00100100_100_00011_01001_00010_000000, .fmin .q8 (.g 3) (.inC 1) (.g 2)),
    (.stitch, 0, 0b00100101_100_00011_01001_00010_000000, .fmax .q8 (.g 3) (.inC 1) (.g 2)),
    (.stitch, 0, 0b00100110_001_00011_01001_10000_000000, .fabs .f32 (.g 3) (.inC 1)),
    (.stitch, 0, 0b00100111_001_00011_01001_10000_000000, .fneg .f32 (.g 3) (.inC 1)),
    (.stitch, 0, 0b00101011_001_00011_01001_10000_000000, .fcls .f32 (.g 3) (.inC 1)),
    (.stitch, 0, 0b00101000_001_00011_01001_00010_011100, .fcmp .f32 .geu (.g 3) (.inC 1) (.g 2)),
    (.stitch, 0, 0b00101001_010_00011_01001_10000_001100, .fhsum .b16 (.g 3) (.inC 1) .rdn),
    (.stitch, 0, 0b00110000_001_00011_01001_10000_000100, .frcp .f32 (.g 3) (.inC 1) .rne),
    (.stitch, 0, 0b00110001_001_00011_01001_10000_000100, .frsq .f32 (.g 3) (.inC 1) .rne),
    (.stitch, 0, 0b00110010_001_00011_01001_10000_000100, .fsqrt .f32 (.g 3) (.inC 1) .rne),
    (.stitch, 0, 0b00110011_001_00011_01001_10000_000100, .fex2 .f32 (.g 3) (.inC 1) .rne),
    (.stitch, 0, 0b00110100_001_00011_01001_10000_000100, .flg2 .f32 (.g 3) (.inC 1) .rne),
    (.stitch, 0, 0b00110101_001_00011_01001_10000_000100, .ftnh .f32 (.g 3) (.inC 1) .rne)] = true := by decide +kernel

theorem test_words_conversions : reads [
    (.stitch, 0, 0b00110111_111_00011_01001_00010_000000, .pack .x4 (.g 3) (.inC 1) (.g 2)),
    (.stitch, 0, 0b00111000_110_00011_01001_10000_000001, .unpk .x8 (.g 3) (.inC 1) true),
    (.stitch, 0, 0b00111001_100_00011_01001_00010_001001, .scl .q8 (.g 3) (.inC 1) (.g 2) .rtz true),
    (.stitch, 0, 0b00111010_001_00011_01001_10000_000001, .itof .f32 (.g 3) (.inC 1) .dflt true),
    (.stitch, 0, 0b00111011_101_00011_01001_10000_001011, .ftoi .i8 (.g 3) (.inC 1) .rtz true true),
    (.stitch, 0, 0b00111100_001_00011_01001_10000_010000, .rndi .f32 (.g 3) (.inC 1) .rup),
    (.stitch, 0, 0b00110110_100_00011_01001_10000_000001, .cvt .q8 (.g 3) (.inC 1) .dflt true)] = true := by decide +kernel

theorem test_words_moves : reads [
    (.stitch, 0, 0b01000000_111_00011_01001_10000_000000, .mov .x4 (.g 3) (.inC 1)),
    (.stitch, 0, 0b01000001_00011_000_1000000000000001, .movi (.g 3) 0x8001),
    (.stitch, 0, 0b01000010_00011_000_0000000000000111, .movhi (.g 3) 7),
    (.stitch, 0, 0b01000011_000_00011_01001_000_01100010, .mktag (.g 3) (.inC 1) 0x62),
    (.stitch, 0, 0b01000100_000_00011_01001_10000_000000, .gtag (.g 3) (.inC 1)),
    (.stitch, 0, 0b01000111_110_101_000_0000_00000000000, .pmov 6 5),
    (.stitch, 0, 0b01000101_110_101_011_1001_00000000000, .plog 6 5 3 9),
    (.stitch, 0, 0b01000110_01100_000_11000000_10000000, .pseti 0xC0 0x80),
    (.stitch, 0, 0b01001000_00011_000_0000000000000110, .wid (.g 3) 6),
    (.stitch, 0, 0b01001001_00011_000_0000000000000001, .clk (.g 3) 1),
    (.stitch, 0, 0b01001010_00011_000_0000000000000100, .iid (.g 3) 4)] = true := by decide +kernel

theorem test_words_seams : reads [
    (.stitch, 0, 0b01010000_000_01001_01001_10000_000000, .emit (.out 1) (.inC 1)),
    (.stitch, 0, 0b01010001_000_01100_01001_10000_000000, .drop (.inC 1)),
    (.stitch, 0, 0b01010010_000_01001_01101_10000_000000, .fwd (.out 1) (.inP 1)),
    (.stitch, 0, 0b01010011_000_01001_01001_000_11111110, .steer (.out 1) (.inC 1) 254),
    (.stitch, 0, 0b01010100_000_01001_01001_10000_000000, .swpt (.out 1) (.inC 1)),
    (.stitch, 0, 0b01010101_000_01100_01110_000_00000111, .stky (.inP 2) 7),
    (.stitch, 0, 0b01010110_000_01100_01110_00000000010, .dmnd (.inP 2) 2),
    (.stitch, 0, 0b01010111_01100_000_0000000000000000, .halt),
    (.stitch, 0, 0b01011000_01100_000_0000000000000000, .nop),
    (.stitch, 0, 0b01011001_000_01001_01001_10000_000000, .waitt (.out 1) (.inC 1))] = true := by decide +kernel

theorem test_words_calls : reads [
    (.stitch, 0, 0b01100000_00011_000_0101_000100101100, .call (.g 3) 5 300),
    (.stitch, 0, 0b01100001_00011_111_1111_111111111111, .callb (.g 3) 7 15 4095),
    (.stitch, 0, 0b01100010_01100_000_0000000000000000, .ret),
    (.stitch, 0, 0b01100011_000_00011_01001_00010_000000, .spwn (.g 3) (.inC 1) (.g 2)),
    (.stitch, 0, 0b01100100_000_10110_01001_00010_000000, .spwnt 6 (.inC 1) (.g 2)),
    (.stitch, 0, 0b01100101_000_00011_01001_10000_000000, .plt (.g 3) (.inC 1)),
    (.stitch, 0, 0b01100110_000_00011_01001_10000_000000, .csto (.g 3) (.inC 1)),
    (.stitch, 0, 0b01100111_000_00011_01001_10000_000000, .csti (.g 3) (.inC 1)),
    (.stitch, 0, 0b01101000_01100_000_0000000000000011, .prio 3)] = true := by decide +kernel

theorem test_words_system : reads [
    (.stitch, 0, 0b01110000_01100_000_1111111111111110, .trap 0xFFFE),
    (.stitch, 0, 0b01110001_01100_000_0000000000000101, .brk 5),
    (.stitch, 0, 0b01110010_000_00011_10000_0_1000000001, .rdsr (.g 3) 0x201),
    (.stitch, 0, 0b01110011_000_01100_01001_0_0000010000, .wrsr (.inC 1) 0x10),
    (.stitch, 0, 0b01110100_00011_000_0000_000100101100, .pload (.g 3) 300),
    (.stitch, 0, 0b01110101_000_01001_01001_10000_000000, .arm (.out 1) (.inC 1)),
    (.stitch, 0, 0b01110110_01001_000_000000000000_1010, .rlat (.out 1) 10),
    (.stitch, 0, 0b01110111_000_01100_01001_00_111111110, .bsld (.inC 1) 510),
    (.stitch, 0, 0b01111000_000_01100_01001_000000_11110, .bsbd (.inC 1) 30),
    (.core, 0, 0b01111001_01100_000_0000000000000000, .eretContinue),
    (.core, 1, 0b01111001_01100_000_0000000000000000, .eretReplay),
    (.core, 2, 0b01111001_01100_000_0000000000000000, .eretRetire),
    (.core, 3, 0b01111001_01100_000_0000000000000000, .eretTerminate),
    (.core, 0, 0b01111010_000_01100_00001_10000_000000, .jmpr (.g 1)),
    (.core, 0, 0b01111011_11111_000_1111111111111111, .lnk (.t 7) 0xFFFF),
    (.core, 0, 0b01111100_000_00011_11001_10000_000000, .emul (.g 3) (.t 1))] = true := by decide +kernel

theorem test_words_bespoke : reads [
    (.stitch, 0, 0b11111111_001_00011_01001_00010_00101_1, .bsp 31 .f32 (.g 3) (.inC 1) (.g 2) (.g 5) true),
    (.bespoke, 0, 0b11010000_000_01100_11010_00000000111, .mbr (.t 2) 7),
    (.bespoke, 0, 0b11010001_000_11110_11110_11111111000, .mlp 6 (BitVec.ofInt 11 (-8))),
    (.bespoke, 0, 0b11010010_000_01100_11010_10000_000000, .mend (.t 2))] = true := by decide +kernel

theorem test_words_memory : reads [
    (.mp, 0, 0b10000000_0101_01001_01001_10000_01011, .lds .h16 (.out 1) 5 (.inC 1) true false),
    (.mp, 0, 0b10000010_0101_01001_01001_10000_01011, .ldl .h16 (.out 1) 5 (.inC 1) true false),
    (.mp, 0, 0b10000100_0101_01001_01001_10000_01011, .ldd .h16 (.out 1) 5 (.inC 1) true false),
    (.mp, 0, 0b10000110_0101_01001_01001_10000_01011, .ldp .h16 (.out 1) 5 (.inC 1) true false),
    (.mp, 0, 0b10001000_0101_01001_01001_10000_01011, .ldx .h16 (.out 1) 5 (.inC 1) true false),
    (.mp, 0, 0b10001011_0101_01001_01001_10000_01011, .ldv .h16 (.out 1) 5 (.inC 1) true false),
    (.mp, 0, 0b10000001_0101_01001_01001_01010_10011, .sts .h16 (.out 1) 5 (.inC 1) (.inC 2) false true),
    (.mp, 0, 0b10000011_0101_01001_01001_01010_10011, .stl .h16 (.out 1) 5 (.inC 1) (.inC 2) false true),
    (.mp, 0, 0b10000101_0101_01001_01001_01010_10011, .std .h16 (.out 1) 5 (.inC 1) (.inC 2) false true),
    (.mp, 0, 0b10000111_0101_01001_01001_01010_10011, .stp .h16 (.out 1) 5 (.inC 1) (.inC 2) false true),
    (.mp, 0, 0b10001001_0101_01001_01001_01010_10011, .stx .h16 (.out 1) 5 (.inC 1) (.inC 2) false true),
    (.mp, 0, 0b10001100_0101_01001_01001_01010_10011, .stv .h16 (.out 1) 5 (.inC 1) (.inC 2) false true),
    (.mp, 0, 0b10001010_0000_01001_10000_10000_01001, .fen (.out 1) 9),
    (.nt, 0, 0b10001101_0000_01001_10000_10000_00000, .xbar (.out 1)),
    (.mp, 0, 0b10001110_0101_01100_01001_10000_00000, .pfd 5 (.inC 1))] = true := by decide +kernel

theorem test_words_atomics : reads [
    (.mp, 0, 0b10010000_0101_01001_01001_01010_11000, .aadd (.out 1) 5 (.inC 1) (.inC 2) true true),
    (.mp, 0, 0b10010010_0101_01001_01001_01010_11000, .amin (.out 1) 5 (.inC 1) (.inC 2) true true),
    (.mp, 0, 0b10010011_0101_01001_01001_01010_11000, .amax (.out 1) 5 (.inC 1) (.inC 2) true true),
    (.mp, 0, 0b10010100_0101_01001_01001_01010_11000, .aand (.out 1) 5 (.inC 1) (.inC 2) true true),
    (.mp, 0, 0b10010101_0101_01001_01001_01010_11000, .aor (.out 1) 5 (.inC 1) (.inC 2) true true),
    (.mp, 0, 0b10010110_0101_01001_01001_01010_11000, .axor (.out 1) 5 (.inC 1) (.inC 2) true true),
    (.mp, 0, 0b10010111_0101_01001_01001_01010_11000, .axch (.out 1) 5 (.inC 1) (.inC 2) true true),
    (.mp, 0, 0b10011001_0101_01001_01001_01010_11000, .sigw (.out 1) 5 (.inC 1) (.inC 2) true true),
    (.mp, 0, 0b10011000_0101_00011_01001_01010_00000, .acas (.g 3) 5 (.inC 1) (.inC 2) false false),
    (.mp, 0, 0b10010001_0101_01001_01001_01010_00001, .afadd .f32 (.out 1) 5 (.inC 1) (.inC 2) false false),
    (.mp, 0, 0b10011010_0101_01001_01001_01010_00001, .bupd .f32 (.out 1) 5 (.inC 1) (.inC 2) false false),
    (.mp, 0, 0b10011011_0101_01001_01001_01010_00001, .bred .f32 (.out 1) 5 (.inC 1) (.inC 2) false false)] = true := by decide +kernel

theorem test_words_copies : reads [
    (.mp, 0, 0b10100000_0101_01001_01001_10000_01000, .cpy (.out 1) 5 (.inC 1) true false),
    (.mp, 0, 0b10100001_0101_01001_01001_10000_01000, .cpys (.out 1) 5 (.inC 1) true false),
    (.mp, 0, 0b10101000_0101_01001_01001_10000_01000, .ltq (.out 1) 5 (.inC 1) true false),
    (.mp, 0, 0b10101001_0101_01001_01001_10000_01000, .dsc (.out 1) 5 (.inC 1) true false),
    (.mp, 0, 0b10100010_0101_01001_01001_10000_00100, .gth .q8 (.out 1) 5 (.inC 1) false false),
    (.mp, 0, 0b10100011_0101_01001_01001_01010_00100, .sct .q8 (.out 1) 5 (.inC 1) (.inC 2) false false),
    (.mp, 0, 0b10100100_0101_01001_01001_01010_00000, .ltb (.out 1) 5 (.inC 1) (.inC 2) false false),
    (.mp, 0, 0b10100101_0101_01001_01001_01010_00000, .lta (.out 1) 5 (.inC 1) (.inC 2) false false),
    (.mp, 0, 0b10100110_0101_01001_01001_01010_00000, .ltd (.out 1) 5 (.inC 1) (.inC 2) false false),
    (.mp, 0, 0b10100111_0101_01001_01001_01010_00000, .ltp (.out 1) 5 (.inC 1) (.inC 2) false false)] = true := by decide +kernel

theorem test_words_matrix : reads [
    (.mxa, 0, 0b10110000_111_1_0000_11111111_00_0_1_0000, .mma .x4 true 255 true),
    (.mxa, 0, 0b10110001_100_1_0000_00000011_10_0_1_0000, .mmas .q8 .s48 true 3 true),
    (.mxa, 0, 0b10110010_010_0_0000_00001111_00_1_0_0011, .ldt .b16 .north 3 15),
    (.mxa, 0, 0b10110011_000_0_0101_00001010_00_0_0_0000, .mdl 5 10),
    (.mxa, 0, 0b10110100_000_1_0000_00000000_00_0_0_0000, .drn .w32 true),
    (.mxa, 0, 0b10110101_001_1_0000_00000000_00_0_0_0000, .zac .f32 true),
    (.mxa, 0, 0b10110110_101_0_0000_00001001_01_0_0_0000, .cmpr .i8 .s24 9),
    (.mxa, 0, 0b10110111_000_1_0000_00000000_00_0_0_0000, .accl .w32 true),
    (.mxa, 0, 0b10111000_110_0_0000_00000111_00_1_0_0011, .lde .x8 .north 3 7)] = true := by decide +kernel

theorem test_words_streams : reads [
    (.mg, 0, 0b11000000_011_01001_01001_01010_10_0000, .mrg .h16 .min (.out 1) (.inC 1) (.inC 2)),
    (.mg, 0, 0b11000001_011_01001_01001_10000_00_0000, .dns .h16 (.out 1) (.inC 1)),
    (.mg, 0, 0b11000010_011_01001_01001_10000_00_0000, .sps .h16 (.out 1) (.inC 1)),
    (.pc, 0, 0b11000011_011_01001_01001_10000_01_1001, .cred .h16 .max (.out 1) (.inC 1) 9),
    (.pc, 0, 0b11000100_011_01001_01001_10000_00_1001, .cbcs .h16 (.out 1) (.inC 1) 9),
    (.nt, 0, 0b11000101_000_01001_10000_10000_00_1001, .nbar (.out 1) 9),
    (.nt, 0, 0b11000110_000_01001_01001_10000_01_1001, .nred .w32 .max (.out 1) (.inC 1) 9)] = true := by decide +kernel
/-! ### States of a few units -/

/-- Plane A of one node, active, of instance 1; slot 0 of it acts. -/
def slotOf (n : NodeId) (p : Plane) : State :=
  { dev := { islands := allOn }, nodes := [(n, { pa := { p with active := true, inst := 1 } })], insts := [(1, {})]
    cur := .slot n .a 0 }

/-- A stitch. -/
def stitch0 : NodeId := .panel 0 0
/-- A memory port. -/
def port0 : NodeId := .panel 0 64

/-- An in-port whose head is a token that has been settled. -/
def headed (t : Token) : InPort := { fifo := [{ tok := t }], settled := true, fed := true }

/-- A stitch with one token at the head of i0. -/
def withHead (t : Token) : State := slotOf stitch0 { ins := (Vector.replicate 4 {}).set 0 (headed t) }

/-- A stitch with register g0. -/
def withReg (t : Token) (pcw : Word) : State := slotOf stitch0 { g := (Vector.replicate 8 {}).set 0 t, pcw := pcw }

/-- An armature core that serves a trap of instance 1. -/
def coreState (k : Core) (t : Trap) : State :=
  { dev := { islands := allOn }, cur := .core 0, cores := [(0, { k with serving := some 5 })]
    traps := [(5, { t with inst := 1 })], insts := [(1, { fault := true, trap := 5 })] }

/-! ### Steps -/

/-- R139: 0xFFFFFFFF + 1 wraps to 0. -/
theorem test_add_wraps : (match exec (.add .w32 (.g 1) (.g 0) .one false) (withReg { payload := 0xFFFFFFFF } 0) with
    | .next t => (t.plane stitch0 .a).ops.map (·.toks)
    | _ => []) = [[{ payload := 0 }]] := by decide +kernel

/-- R139: with `SAT`, 0x7FFFFFFF + 1 stays. -/
theorem test_add_saturates : (match exec (.add .w32 (.g 1) (.g 0) .one true) (withReg { payload := 0x7FFFFFFF } 0) with
    | .next t => (t.plane stitch0 .a).ops.map (·.toks)
    | _ => []) = [[{ payload := 0x7FFFFFFF }]] := by decide +kernel

/-- R143: 1.5 + 2.25 = 3.75 in F32. -/
theorem test_fadd : (match exec (.fadd .f32 (.g 1) (.g 0) (.g 0) .dflt) (withReg { fmt := .f32, payload := 0x3FF00000 } 0) with
    | .next t => (t.plane stitch0 .a).ops.map (·.toks)
    | _ => []) = [[{ fmt := .f32, payload := 0x40700000 }]] := by decide +kernel

/-- R48: twice 448 overflows to 448 in E4M3, and to NaN under `NANOV`. -/
theorem test_e4m3_overflow : (roundX .q8 .rne false (.fin false 7 7)).1 = 0x7E ∧ (roundX .q8 .rne true (.fin false 7 7)).1 = 0x7F := by
  decide +kernel

/-- R160, R20: EMIT consumes i0 and takes its token whole. -/
theorem test_emit_consumes : (match exec (.emit (.g 2) (.inC 0)) (withHead { kind := .steer, payload := 7 }) with
    | .next t => ((t.inp stitch0 .a 0).fifo, (t.plane stitch0 .a).ops.map (·.toks))
    | _ => ([], [])) = ([], [[{ kind := .steer, payload := 7 }]]) := by decide +kernel

/-- R204 byte order and R206: a word written at the top of a scratchpad reads back, its first byte the low one. -/
theorem test_word_order : memWord (memPutWord [] 0x1FFFC 0x11223344) 0x1FFFC = 0x11223344
    ∧ memRead (memPutWord [] 0x1FFFC 0x11223344) 0x1FFFC = 0x44 := by decide +kernel

/-- Writing what an unlisted byte reads as removes its entry (log 4). -/
theorem test_memory_canonical : memWrite (memWrite [] 9 5) 9 0 = [] ∧ memWrite (memWrite [] 9 5) 3 1 = [(3, 1), (9, 5)] := by
  decide +kernel

/-- R188: TRAP queues one trap, with its argument, at the core of the node's panel. -/
theorem test_trap_queues : (match exec (.trap 77) (withReg {} 0) with
    | .next t => ((t.core 0).queue, (t.trap 1).cause, (t.trap 1).arg)
    | _ => ([], .internal, 0)) = ([1], .software, 77) := by decide +kernel

/-- R372: an ERET that `TACT` does not name ends the handler. -/
theorem test_eret_wrong_act : (match exec .eretReplay (coreState {} {}) with
    | .next t => ((t.core 0).serving, mget? t.insts 1)
    | _ => (none, none)) = (none, none) := by decide +kernel

/-- R189: JMPR chooses the next position. -/
theorem test_jmpr : (match exec (.jmpr .ones) (coreState {} {}) with
    | .next t => (t.core 0).branch
    | _ => none) = some 0xFFFFFFFF := by decide +kernel

/-- The first word placed after reset is fetched and runs (R15, R89). -/
theorem test_first_word_runs : (match step (State.reset.withFetchWord 64 (0x4118002A * 2 ^ 32 + 0x80000000)) with
    | .next t => (t.plane stitch0 .a).ops.map (fun o => (o.dst, o.toks))
    | _ => []) = [(.g 3, [{ payload := 42 }])] := by decide +kernel

/-! ### Encoding and decoding: hypotheses -/

theorem test_meets_DecodeOfEncode : (Instr.eretRetire).wf NodeKind.core.setting = true
    ∧ acceptsOp .core (encodeNat .eretRetire / 16777216) = true ∧ readsUnder 2 .eretRetire :=
  ⟨by decide, by decide, rfl⟩

theorem test_meets_EncodeOfDecode : decodeA .stitch 0 0x52084400 = .ok (.fwd (.out 0) (.inC 0)) := by decide +kernel

theorem test_meets_UnassignedOpcodesFault : acceptsOp .stitch ((0x80000000 : Word).toNat / 16777216) = false
    ∧ ((0xDF000000 : Word).toNat / 16777216) ∈ [0x2D, 0x2E, 0x2F, 0x3D, 0x3E, 0x3F, 0x4B, 0x4F,
      0x5A, 0x5F, 0x69, 0x6F, 0x7D, 0x7F, 0x8F, 0x9C, 0x9F, 0xAA, 0xAF, 0xB9, 0xBF, 0xC7, 0xCF, 0xD3, 0xDF]
    ∧ slotInstr stitch0 (actWords (slotOf stitch0 { slots := (Vector.replicate 16 (0, 0)).set 15 (plainT, 0xFF00001) }) stitch0 .a 15).2
      = .error .operandReserved := by decide +kernel

/-! ### Lane instructions: hypotheses -/

theorem test_meets_IntegerArithmetic_two : Two (withReg { fmt := .i8, payload := 0x7F80017F } 0) .i8 (.g 1) (.g 0) (.imm 31)
    ∧ NoIntTrap (withReg { fmt := .i8, payload := 0x7F80017F } 0) .i8 false fun _ => 128 :=
  ⟨⟨⟨rfl, rfl⟩, ⟨rfl, rfl⟩, .inr (by decide +kernel), rfl⟩, .inr (.inl (by decide +kernel))⟩

theorem test_meets_IntegerArithmetic_three : Three (withReg {} 8) .w32 (.p 7) (.g 0) .one .ones
    ∧ NoIntTrap (withReg {} 8) .w32 false fun _ => 2147483647 :=
  ⟨⟨⟨rfl, rfl⟩, ⟨rfl, rfl⟩, ⟨rfl, rfl⟩, .inl rfl, rfl⟩, .inr (.inr (by decide +kernel))⟩

theorem test_meets_IntegerArithmetic_one : One (coreState {} {}) .w32 (.t 7) (.t 0)
    ∧ NoIntTrap (coreState {} {}) .w32 false fun _ => -2147483648 :=
  ⟨⟨⟨rfl, rfl⟩, trivial⟩, .inr (.inr (by decide +kernel))⟩

theorem test_meets_IntegerOverflowTraps : Two (withReg { payload := 0x7FFFFFFF } 8) .w32 .disc (.g 0) .one
    ∧ bitOf (actPcw (withReg { payload := 0x7FFFFFFF } 8)).toNat 3 = true
    ∧ hi .w32 < intAt (withReg { payload := 0x7FFFFFFF } 8) .w32 (.g 0) 0 + intAt (withReg { payload := 0x7FFFFFFF } 8) .w32 .one 0 :=
  ⟨⟨⟨rfl, rfl⟩, ⟨rfl, rfl⟩, .inl rfl, rfl⟩, by decide +kernel, by decide +kernel⟩

/-- The stitch of `withReg` acting for its bespoke sequence. -/
def microReg (t : Token) (pcw : Word) : State :=
  let s := withReg t pcw
  { s.setNode stitch0 { s.node stitch0 with seqr := some {} } with cur := .micro stitch0 .a }

/-- An EMUL of a handler whose image of the node holds `t` in g0. -/
def emulReg (t : Token) (pcw : Word) : State :=
  { coreState { images := [((stitch0, .a), { g := (Vector.replicate 8 {}).set 0 t, pcw := pcw })] } {} with cur := .emul 0 }

/-- MAD, ABS, NEG and ADDI out of range, and each unit that may run one. -/
theorem test_meets_IntegerOverflowTraps_others : (let s := withReg { payload := 0x80000000 } 8
    One s .w32 .disc (.g 0) ∧ hi .w32 < |intAt s .w32 (.g 0) 0| ∧ hi .w32 < -intAt s .w32 (.g 0) 0
    ∧ Three s .w32 .disc (.g 0) .one .ones ∧ intAt s .w32 (.g 0) 0 * intAt s .w32 .one 0 + intAt s .w32 .ones 0 < lo .w32
    ∧ intAt s .w32 (.g 0) 0 + (-1 : BitVec 11).toInt < lo .w32)
    ∧ (let s := microReg { payload := 0x7FFFFFFF } 8
      Two s .w32 .disc (.g 0) .one ∧ bitOf (actPcw s).toNat 3 = true ∧ hi .w32 < intAt s .w32 (.g 0) 0 + intAt s .w32 .one 0)
    ∧ (let s := coreState { amode := 8, g := (Vector.replicate 8 {}).set 0 { payload := 0x7FFFFFFF } } {}
      Two s .w32 .disc (.g 0) .one ∧ bitOf (actPcw s).toNat 3 = true ∧ hi .w32 < intAt s .w32 (.g 0) 0 + intAt s .w32 .one 0)
    ∧ (let s := emulReg { payload := 0x7FFFFFFF } 8
      Two s .w32 .disc (.g 0) .one ∧ bitOf (actPcw s).toNat 3 = true ∧ hi .w32 < intAt s .w32 (.g 0) 0 + intAt s .w32 .one 0) :=
  ⟨⟨⟨⟨rfl, rfl⟩, rfl⟩, by decide +kernel, by decide +kernel, ⟨⟨rfl, rfl⟩, ⟨rfl, rfl⟩, ⟨rfl, rfl⟩, .inl rfl, rfl⟩, by decide +kernel, by decide +kernel⟩,
   ⟨⟨⟨rfl, rfl⟩, ⟨rfl, rfl⟩, .inl rfl, rfl⟩, by decide +kernel, by decide +kernel⟩,
   ⟨⟨⟨rfl, rfl⟩, ⟨rfl, rfl⟩, .inl rfl, trivial⟩, by decide +kernel, by decide +kernel⟩,
   ⟨⟨⟨rfl, rfl⟩, ⟨rfl, rfl⟩, .inl rfl, rfl⟩, by decide +kernel, by decide +kernel⟩⟩

theorem test_meets_BitOperations : CanDeliver (withReg { fmt := .x4 } 0) (.g 7) ∧ IsRaw (withReg { fmt := .x4 } 0) (.g 0)
    ∧ IsRaw (withReg { fmt := .x4 } 0) (.imm 31) ∧ IsRaw (withReg { fmt := .x4 } 0) .ones := ⟨rfl, rfl, rfl, rfl⟩

theorem test_meets_CompareAndSelect : CanDeliver (withReg { fmt := .i8 } 0) (.p 0)
    ∧ IsSame (withReg { fmt := .i8 } 0) .i8 (.g 0) ∧ IsSame (withReg { fmt := .i8 } 0) .i8 .ones
    ∧ ScaleOk (withReg { fmt := .i8 } 0) .i8 [.g 0, .ones]
    ∧ IsRaw (withReg { fmt := .i8 } 0) (.g 0) ∧ IsRaw (withReg { fmt := .i8 } 0) .ones ∧ IsRaw (withReg { fmt := .i8 } 0) (.g 1)
    ∧ (tokAt (withReg { fmt := .i8 } 0) .w32 .ones).payload ≠ 0 ∧ (tokAt (withReg { fmt := .i8 } 0) .w32 (.g 1)).payload = 0 :=
  ⟨rfl, ⟨rfl, rfl⟩, ⟨rfl, rfl⟩, .inr (by decide +kernel), rfl, rfl, rfl, by decide +kernel, by decide +kernel⟩

/-! ### Floats: hypotheses -/

/-- F32 1.0. -/
theorem rat_one : rat .f32 0x3F800000 = 1 := by norm_num [rat, neg, expo, frac, fracBits, expBits, biasOf, bitOf]
/-- F32 −1.0. -/
theorem rat_minus_one : rat .f32 0xBF800000 = -1 := by norm_num [rat, neg, expo, frac, fracBits, expBits, biasOf, bitOf]
/-- F32 +0. -/
theorem rat_zero : rat .f32 0 = 0 := by norm_num [rat, neg, expo, frac, fracBits, expBits, biasOf, bitOf]
/-- B16 1.0. -/
theorem rat_b16_one : rat .b16 0x3F80 = 1 := by norm_num [rat, neg, expo, frac, fracBits, expBits, biasOf, bitOf]

theorem test_meets_RoundingIsCorrect : Stands (.fin false 1 0) 1 ∧ |(1 : ℚ)| ≤ maxRat .f32 := by
  refine ⟨by norm_num [Stands], ?_⟩
  norm_num [maxRat, rat, neg, expo, frac, fracBits, expBits, biasOf, bitOf, maxFin]

/-- 464 and 465 in E4M3 under RNE, and −2^200 in F32 under RNE, RUP and RDN (R48, R55). -/
theorem test_meets_OverflowDelivers : (Stands (.fin false 464 0) 464 ∧ ¬ Exceeds .q8 .rne false 464 ∧ maxRat .q8 ≤ |(464 : ℚ)|)
    ∧ (Stands (.fin false 465 0) 465 ∧ Exceeds .q8 .rne false 465)
    ∧ (Stands (.fin true 1 200) (-2 ^ 200) ∧ Exceeds .f32 .rne true (-2 ^ 200) ∧ Exceeds .f32 .rup true (-2 ^ 200) ∧ Exceeds .f32 .rdn true (-2 ^ 200)) := by
  refine ⟨⟨by norm_num [Stands], ?_, ?_⟩, ⟨by norm_num [Stands], ?_⟩, by norm_num [Stands], ?_, ?_, ?_⟩ <;>
  norm_num [Exceeds, topStep, maxRat, rat, neg, expo, frac, fracBits, expBits, biasOf, bitOf, maxFin]

/-- A state with tokens of a format in g0 and g1. -/
def pairOf (f : Fmt) (x y : Word) : State :=
  slotOf stitch0 { g := ((Vector.replicate 8 {}).set 0 { fmt := f, payload := x }).set 1 { fmt := f, payload := y } }

/-- Such a state and its operands meet the operand hypotheses of the float statements. -/
theorem pair_meets (x y : Word) : NoFpTrap (pairOf .f32 x y) ∧ Two (pairOf .f32 x y) .f32 (.g 3) (.g 0) (.g 1)
    ∧ Three (pairOf .f32 x y) .f32 (.p 0) (.g 0) (.g 1) .one ∧ One (pairOf .f32 x y) .f32 .disc (.g 0)
    ∧ laneAt (pairOf .f32 x y) .f32 (.g 0) 0 = x.toNat % 2 ^ laneW .f32 ∧ laneAt (pairOf .f32 x y) .f32 (.g 1) 0 = y.toNat % 2 ^ laneW .f32 :=
  ⟨by unfold NoFpTrap; rw [show actPcw (pairOf .f32 x y) = 0 from rfl]; decide, ⟨⟨rfl, rfl⟩, ⟨rfl, rfl⟩, .inr rfl, rfl⟩, ⟨⟨rfl, rfl⟩, ⟨rfl, rfl⟩, ⟨rfl, rfl⟩, .inr rfl, rfl⟩, ⟨⟨rfl, rfl⟩, rfl⟩,
    by simp [laneAt, tokAt, readSrc, readReg, pairOf, slotOf, lane, State.plane, State.node, mget, mget?, Node.plane],
    by simp [laneAt, tokAt, readSrc, readReg, pairOf, slotOf, lane, State.plane, State.node, mget, mget?, Node.plane]⟩

/-- With `pair_meets`: operands 1 and 1, 1 and −1, +0 and +0 for the three cases of a sum, a NaN, ∞ − ∞ and 0·∞, and ∞ beside 1 and
beside ∞. -/
theorem test_meets_FloatArithmetic : Finite .f32 0x3F800000 ∧ Finite .f32 0xBF800000 ∧ Finite .f32 0
    ∧ rat .f32 0x3F800000 + rat .f32 0x3F800000 ≠ 0 ∧ rat .f32 0x3F800000 + rat .f32 0xBF800000 = 0 ∧ rat .f32 0x3F800000 ≠ 0
    ∧ rat .f32 0 = 0 ∧ isNaN .f32 0x7FC00000 = true
    ∧ (isInf .f32 0x7F800000 = true ∧ isInf .f32 0xFF800000 = true ∧ neg .f32 0x7F800000 ≠ neg .f32 0xFF800000)
    ∧ (isInf .f32 0xFF800000 = true ∧ neg .f32 0xFF800000 = true) := by
  refine ⟨by unfold Said.Finite; decide +kernel, by unfold Said.Finite; decide +kernel, by unfold Said.Finite; decide +kernel, ?_, ?_, ?_, rat_zero,
    by decide +kernel, by decide +kernel, by decide +kernel⟩ <;> norm_num [rat_one, rat_minus_one]

theorem test_meets_FloatOrderAndSign : Two (pairOf .f32 0 0x80000000) .f32 (.g 3) (.g 0) (.g 1)
    ∧ Three (pairOf .f32 0x7FC00000 0) .f32 (.p 0) (.g 0) (.g 1) .one ∧ One (pairOf .f32 1 0) .f32 .disc (.g 0)
    ∧ isNaN .f32 0x7FC00000 = true ∧ isNaN .f32 0 = false ∧ isInf .f32 0xFF800000 = true :=
  ⟨(pair_meets _ _).2.1, (pair_meets _ _).2.2.1, (pair_meets _ _).2.2.2.1, by decide +kernel, by decide +kernel, by decide +kernel⟩

theorem test_meets_FloatSums : NoFpTrap (pairOf .b16 0x3F803F80 0x3F803F80) ∧ One (pairOf .b16 0x3F803F80 0x3F803F80) .b16 (.g 3) (.g 0)
    ∧ (∀ j, j < Fmt.b16.lanes → Finite .b16 (laneAt (pairOf .b16 0x3F803F80 0x3F803F80) .b16 (.g 0) j))
    ∧ IsSame (pairOf .b16 0x3F803F80 0x3F803F80) .b16 (.g 1) ∧ (tokAt (pairOf .b16 0x3F803F80 0x3F803F80) .f32 .one).fmt = .f32
    ∧ scaleClash [readSrc (pairOf .b16 0x3F803F80 0x3F803F80) .b16 (.g 0), readSrc (pairOf .b16 0x3F803F80 0x3F803F80) .b16 (.g 1),
        readSrc (pairOf .b16 0x3F803F80 0x3F803F80) .f32 .one] = false
    ∧ Finite .f32 (tokAt (pairOf .b16 0x3F803F80 0x3F803F80) .f32 .one).payload.toNat :=
  ⟨rfl, ⟨⟨rfl, rfl⟩, rfl⟩, by unfold Said.Finite; decide +kernel, ⟨rfl, rfl⟩, rfl, by decide +kernel, by unfold Said.Finite; decide +kernel⟩

theorem test_meets_Transcendentals : NoFpTrap (pairOf .f32 0x3F800000 0) ∧ One (pairOf .f32 0x3F800000 0) .f32 .disc (.g 0)
    ∧ Finite .f32 0x3F800000 ∧ rat .f32 0x3F800000 ≠ 0 ∧ |1 / rat .f32 0x3F800000| ≤ maxRat .f32 ∧ rat .f32 0xBF800000 < 0
    ∧ isNaN .f32 0x7FC00000 = true ∧ isInf .f32 0xFF800000 = true ∧ neg .f32 0xFF800000 = true := by
  refine ⟨(pair_meets _ _).1, (pair_meets _ _).2.2.2.1, by unfold Said.Finite; decide +kernel, by norm_num [rat_one], ?_,
    by norm_num [rat_minus_one], by decide +kernel, by decide +kernel, by decide +kernel⟩
  rw [rat_one]
  norm_num [maxRat, rat, neg, expo, frac, fracBits, expBits, biasOf, bitOf, maxFin]

theorem test_meets_Conversions : CanDeliver (pairOf .f32 0x3F800000 0) (.g 2) ∧ NoFpTrap (pairOf .f32 0x3F800000 0)
    ∧ (tokAt (pairOf .f32 0x3F800000 0) .f32 (.g 0)).kind = .data ∧ (tokAt (pairOf .f32 0x3F800000 0) .f32 (.g 0)).fmt.isFlt = true
    ∧ IsSame (pairOf .x4 0x3F800000 0) .x4 (.g 0) ∧ ScaleOk (pairOf .x4 0x3F800000 0) .x4 [.g 0, .g 1]
    ∧ IsSame (pairOf .i8 0x3F800000 0) .i8 (.g 0) ∧ (tokAt (pairOf .i8 0x3F800000 0) .f32 .one).fmt = .f32
    ∧ Finite .f32 (tokAt (pairOf .i8 0x3F800000 0) .f32 .one).payload.toNat
    ∧ (tokAt (pairOf .i8 0x3F800000 0) .w32 (.g 0)).fmt.isInt = true :=
  ⟨rfl, (pair_meets _ _).1, rfl, rfl, ⟨rfl, rfl⟩, .inr rfl, ⟨rfl, rfl⟩, rfl, by unfold Said.Finite; decide +kernel, rfl⟩

/-- Half of the least magnitude of F32 is the value of no encoding. -/
theorem rat_not_half_least (q : Nat) : rat .f32 q ≠ 2 ^ (-150 : ℤ) := by
  intro h
  have hs : (if neg .f32 q then (-1 : ℚ) else 1) = -1 ∨ (if neg .f32 q then (-1 : ℚ) else 1) = 1 := by
    cases neg .f32 q <;> simp
  by_cases he : expo .f32 q = 0
  · simp only [rat, he, if_true, fracBits, biasOf] at h
    have h1 : (1 : ℤ) - ((127 : ℕ) : ℤ) = -126 := by norm_num
    rw [h1] at h
    have h2 : (2 : ℚ) ^ (-126 : ℤ) = 2 ^ (24 : ℕ) * 2 ^ (-150 : ℤ) := by norm_num
    have h3 : (2 : ℚ) ^ (-150 : ℤ) ≠ 0 := by positivity
    rw [h2] at h
    have h4 : (if neg .f32 q then (-1 : ℚ) else 1) * (2 * (frac .f32 q : ℚ)) = 1 := by
      apply mul_right_cancel₀ h3
      generalize (2 : ℚ) ^ (-150 : ℤ) = c at *
      linear_combination h
    rcases hs with e | e <;> rw [e] at h4
    · have : (2 * (frac .f32 q : ℚ)) ≥ 0 := by positivity
      linarith
    · have h5 : ((2 * frac .f32 q : ℕ) : ℚ) = ((1 : ℕ) : ℚ) := by push_cast; linarith
      have h6 := Nat.cast_injective h5
      omega
  · simp only [rat, he, if_false, fracBits, biasOf] at h
    have h1 : (2 : ℚ) ^ (-126 : ℤ) ≤ 2 ^ ((expo .f32 q : ℤ) - ((127 : ℕ) : ℤ)) :=
      zpow_le_zpow_right₀ (by norm_num) (by push_cast; omega)
    have h2 : (0 : ℚ) ≤ (frac .f32 q : ℚ) / 2 ^ 23 := by positivity
    have h3 : (2 : ℚ) ^ (-150 : ℤ) < 2 ^ (-126 : ℤ) := zpow_lt_zpow_right₀ (by norm_num) (by norm_num)
    have h4 : (2 : ℚ) ^ (-126 : ℤ) ≤ (1 + (frac .f32 q : ℚ) / 2 ^ 23) * 2 ^ ((expo .f32 q : ℤ) - ((127 : ℕ) : ℤ)) := by
      have : (0 : ℚ) < 2 ^ ((expo .f32 q : ℤ) - ((127 : ℕ) : ℤ)) := by positivity
      have := mul_nonneg h2 this.le
      rw [add_mul, one_mul]
      exact le_add_of_le_of_nonneg h1 this
    have h5 : (0 : ℚ) < 2 ^ (-150 : ℤ) := by positivity
    rcases hs with e | e <;> rw [e] at h <;> linarith

/-- Every enable on: ∞ − ∞, ∞·0, 2^127·2^127, 2^−149·2^−1, and FTOI of a NaN, of ∞ and of 2^31. -/
theorem test_meets_FloatTraps : (let s := withReg { fmt := .f32, payload := 0x7F800000 } 0xFFFFFFFF
    s.cur = .slot stitch0 .a 0 ∧ Two s .f32 .disc (.g 0) .zero ∧ One s .f32 .disc .zero ∧ CanDeliver s .disc
    ∧ pcwEn (s.plane stitch0 .a).pcw 4 = true ∧ pcwEn (s.plane stitch0 .a).pcw 5 = true ∧ pcwEn (s.plane stitch0 .a).pcw 6 = true
    ∧ pcwEn (s.plane stitch0 .a).pcw 7 = true)
    ∧ isInf .f32 0x7F800000 = true ∧ isInf .f32 0xFF800000 = true ∧ neg .f32 0x7F800000 ≠ neg .f32 0xFF800000 ∧ Finite .f32 0 ∧ rat .f32 0 = 0
    ∧ (Finite .f32 0x7F000000 ∧ Exceeds .f32 .rne false (rat .f32 0x7F000000 * rat .f32 0x7F000000))
    ∧ (Finite .f32 1 ∧ Finite .f32 0x3F000000 ∧ rat .f32 1 * rat .f32 0x3F000000 ≠ 0 ∧ Tiny .f32 .rne false (rat .f32 1 * rat .f32 0x3F000000)
      ∧ ∀ q, Finite .f32 q → rat .f32 q ≠ rat .f32 1 * rat .f32 0x3F000000)
    ∧ isNaN .f32 0x7FC00000 = true ∧ (Finite .f32 0x4F000000 ∧ RoundsInt .rtz (rat .f32 0x4F000000) (2 ^ 31) ∧ hi .w32 < 2 ^ 31) := by
  have hv : rat .f32 1 * rat .f32 0x3F000000 = 2 ^ (-150 : ℤ) := by
    norm_num [rat, neg, expo, frac, fracBits, expBits, biasOf, bitOf]
  refine ⟨⟨rfl, ⟨⟨rfl, rfl⟩, ⟨rfl, rfl⟩, .inr rfl, rfl⟩, ⟨⟨rfl, rfl⟩, rfl⟩, rfl, by decide +kernel, by decide +kernel, by decide +kernel, by decide +kernel⟩,
    by decide +kernel, by decide +kernel, by decide +kernel, by unfold Said.Finite; decide +kernel, rat_zero,
    ⟨by unfold Said.Finite; decide +kernel, ?_⟩,
    ⟨by unfold Said.Finite; decide +kernel, by unfold Said.Finite; decide +kernel, by rw [hv]; positivity, ?_, fun q _ => by rw [hv]; exact rat_not_half_least q⟩,
    by decide +kernel, by unfold Said.Finite; decide +kernel, ?_, by decide +kernel⟩
  · norm_num [Exceeds, topStep, maxRat, rat, neg, expo, frac, fracBits, expBits, biasOf, bitOf, maxFin]
  · rw [hv]
    norm_num [Tiny, fracBits, biasOf]
  · norm_num [RoundsInt, rat, neg, expo, frac, fracBits, expBits, biasOf, bitOf]

/-! ### Moves, identity, operands, write-back: hypotheses -/

theorem test_meets_MovesAndHeaders : CanDeliver (withReg { kind := .blkh, fmt := .x8 } 0) (.g 7)
    ∧ (tokAt (withReg { kind := .blkh, fmt := .x8 } 0) .w32 (.g 0)).kind = .blkh
    ∧ (tokAt (withReg { fmt := .x8 } 0) .x8 (.g 0)).fmt = .x8 ∧ (tokAt (withReg {} 0) .w32 (.g 7)).kind = .data
    ∧ (0xBF : BitVec 8).toNat / 32 < 6 := ⟨rfl, rfl, rfl, rfl, by decide⟩

theorem test_meets_Identity : CanDeliver (withReg {} 0) (.g 7) ∧ actNode (withReg {} 0) = .panel 0 0
    ∧ (let s := slotOf (.panel 2063 71) {}
       let p := panelOf s (actNode s) (actLetter s)
       let o := ({ s with insts := [(1, { origin := 128 })] }.inst (actInst s)).origin
       o % 128 ≤ p % 128 ∧ p % 128 < o % 128 + 16 ∧ o / 128 ≤ p / 128 ∧ p / 128 < o / 128 + 16) := ⟨rfl, rfl, by decide +kernel⟩

theorem test_meets_PredicateInstructions : CanDeliver (withReg {} 0) .disc ∧ (0x81 : BitVec 8) ≠ 0
    ∧ (0x80 : BitVec 8) &&& 0x81 = 0x80 := ⟨rfl, by decide, by decide⟩

theorem test_meets_SourcesSupply : (withHead { fmt := .b16 }).cur = .slot stitch0 .a 0
    ∧ headTok stitch0 ((withHead { fmt := .b16 }).plane stitch0 .a) 0 = some { fmt := .b16 }
    ∧ ((withHead { fmt := .b16 }).plane stitch0 .a).ins[(0 : Fin 4)].fifo = [{ tok := { fmt := .b16 } }]
    ∧ ((withHead { fmt := .b16 }).plane stitch0 .a).mp.relog = [] := ⟨rfl, by decide +kernel, by decide +kernel, rfl⟩

theorem test_meets_OperandChecks : (tokAt (withReg { kind := .psn } 0) .i8 (.g 0)).kind = .psn
    ∧ (tokAt (withReg { kind := .eos } 0) .i8 (.g 0)).kind = .eos ∧ (tokAt (withReg { fmt := .b16 } 0) .i8 (.g 0)).fmt ≠ .i8
    ∧ IsSame (withReg { fmt := .w32 } 0) .w32 (.g 0) ∧ IsSame (pairOf .i8 0 0) .i8 (.g 1)
    ∧ (let s := slotOf stitch0 { g := ((Vector.replicate 8 {}).set 0 { fmt := .i8, s := true }).set 1 { fmt := .i8 } }
       IsSame s .i8 (.g 0) ∧ IsSame s .i8 (.g 1) ∧ ¬ ScaleOk s .i8 [.g 0, .g 1]) :=
  ⟨rfl, rfl, by decide +kernel, ⟨rfl, rfl⟩, ⟨rfl, rfl⟩, ⟨rfl, rfl⟩, ⟨rfl, rfl⟩, by unfold ScaleOk; decide +kernel⟩

/-- A plane with one operation in flight, by default ready and due. -/
def withOp (o : Op) : State := slotOf stitch0 { ops := [o] }

theorem test_meets_WriteBack : lateLeft (withOp { id := 3 }) stitch0 .a { id := 3 } = false ∧ ({ id := 3 } : Op).load = false ∧ (withOp { id := 3, dst := .g 7, gmask := [7], toks := [{}] }).op? stitch0 .a 3
      = some { id := 3, dst := .g 7, gmask := [7], toks := [{}] }
    ∧ (withOp { id := 3, toks := [{}], fault := some .fpInvalid }).op? stitch0 .a 3
      = some { id := 3, toks := [{}], fault := some .fpInvalid }
    ∧ ((withOp { id := 3, dst := .g 7, gmask := [7], toks := [{}] }).plane stitch0 .a).ops
      = [{ id := 3, dst := .g 7, gmask := [7], toks := [{}] }] := by decide +kernel

/-! ### Seams, ports, system registers: hypotheses -/

/-- A device whose partition 0 shares its panels between VFs 0 and 1 (R393). -/
def shared (s : State) : State := { s with parts := [(0, { pring := 0xFFFF0100 })] }

/-- A stitch whose route word o3 is wired and whose other plane is basted or not. -/
def swapState (b : Bool) : State :=
  let s := slotOf stitch0 { rw := (Vector.replicate 4 0).set 3 0x4000 }
  s.updPlane stitch0 .b fun p => { p with basted := b }

theorem test_meets_TokenInstructions : CanDeliver (withHead { kind := .steer }) (.g 0) ∧ CanDeliver (withHead {}) .disc
    ∧ (tokAt (withHead { kind := .steer }) .w32 (.inC 0)).kind ≠ .psn ∧ (tokAt (withHead {}) .w32 (.inC 0)).kind = .data :=
  ⟨rfl, rfl, by decide +kernel, rfl⟩

theorem test_meets_PortControls : (withHead {}).cur = .slot stitch0 .a 0 ∧ 1 ≤ (2 : BitVec 11).toNat ∧ (2 : BitVec 11).toNat ≤ 2 := by
  decide +kernel

theorem test_meets_SwapAndRelatch : (swapState true).cur = .slot stitch0 .a 0 ∧ outWired (swapState true) stitch0 .a 3 = true
    ∧ ringShared (swapState true) (ctxOf (swapState true) stitch0 .a) = false ∧ otherBasted (swapState true) stitch0 .a = true
    ∧ ringShared (swapState false) (ctxOf (swapState false) stitch0 .a) = false ∧ otherBasted (swapState false) stitch0 .a = false
    ∧ ringShared (shared (swapState true)) (ctxOf (shared (swapState true)) stitch0 .a) = true
    ∧ (tokAt (swapState true) .w32 .one).kind = .data
    ∧ (({ swapState true with insts := [(1, { wins := [{ described := true }] })] }.inst 1).wins[(0 : BitVec 4).toNat]?)
      = some { described := true }
    ∧ ((swapState true).inst 1).wins[(15 : BitVec 4).toNat]? = none := by decide +kernel

theorem test_meets_SystemRegistersRead : CanDeliver (withReg {} 0) (.g 7) ∧ (withReg {} 0).cur = .slot stitch0 .a 0
    ∧ 0x100 ≤ (0x3FF : BitVec 10).toNat := ⟨rfl, rfl, by decide⟩

theorem test_meets_TrapRecordRead : (coreState {} {}).cur = .core 0 ∧ ((coreState {} {}).core 0).serving = some 5
    ∧ ((coreState {} { node := .panel 16383 71, letter := .b }).trap 5).node = .panel 16383 71
    ∧ (0x136 : BitVec 10).toNat = 0x120 + 2 * (11 : Fin 12).val ∧ (0x137 : BitVec 10).toNat = 0x121 + 2 * (11 : Fin 12).val
    ∧ (0x13E : BitVec 10).toNat = 0x138 + 2 * (3 : Fin 4).val ∧ (0x14E : BitVec 10).toNat = 0x140 + 2 * (7 : Fin 8).val
    ∧ (0x15E : BitVec 10).toNat = 0x150 + 2 * (7 : Fin 8).val := by decide +kernel

/-- A slot of a context that is privileged or not, with one operation or none. -/
def privState (b : Bool) (p : Plane) : State := { slotOf stitch0 p with ctxs := [(0, { priv := b, maxcls := 2 })] }

theorem test_meets_SystemRegistersWritten : IsRaw (coreState {} {}) .one ∧ (coreState {} {}).cur = .core 0
    ∧ ((coreState {} {}).core 0).serving = some 5 ∧ (tokAt (coreState {} {}) .w32 .one).payload.toNat ≤ 4096
    ∧ (0x14E : BitVec 10).toNat = 0x140 + 2 * (7 : Fin 8).val ∧ IsRaw (privState true {}) .one
    ∧ (privState true {}).cur = .slot stitch0 .a 0 ∧ ((privState true {}).ctx (ctxOf (privState true {}) stitch0 .a)).priv = true
    ∧ ((privState false {}).ctx (ctxOf (privState false {}) stitch0 .a)).priv = false ∧ (5 : BitVec 10).toNat ≤ 5 :=
  ⟨rfl, rfl, rfl, by decide +kernel, by decide, rfl, rfl, rfl, rfl, by decide⟩

theorem test_meets_BespokeStoreAndLoads_slots : IsRaw (privState true {}) .one
    ∧ (2 : BitVec 16).toNat ≤ ((privState true {}).ctx 0).maxcls ∧ ((privState true {}).ctx 0).maxcls < (3 : BitVec 16).toNat
    ∧ bitOf (tokAt (privState true {}) .w32 .one).payload.toNat 31 = false
    ∧ bitOf (tokAt (privState true {}) .w32 .ones).payload.toNat 31 = true
    ∧ 64 < field (tokAt (privState true {}) .w32 .ones).payload.toNat 15 9
    ∧ ringShared (privState true {}) 0 = false ∧ mget? ((privState true {}).ctx 0).pats 4095 = none
    ∧ dstUnwired (privState true {}) stitch0 .a (.g 7) = false :=
  ⟨rfl, by decide +kernel, by decide +kernel, by decide +kernel, by decide +kernel, by decide +kernel, by decide +kernel, by decide +kernel,
   by decide +kernel⟩

/-- A MEND at word 511 of panel 0's store, written or still in a BSLD's flight, and a binding word of it, or of word 510, in g0. -/
def boundState (j : Nat) (late : Bool) : State :=
  let mend : Word := 0b11010010_000_01100_11010_10000_000000
  let s := privState true { g := (Vector.replicate 8 {}).set 0 { payload := BitVec.ofNat 32 (0x80000200 + j) },
                            ops := if late then [{ id := 1, kind := .bsld, arg := 511, fold := mend }] else [] }
  { s with panels := [(0, { sa := { micro := if late then [] else [(511, mend)] } })] }

theorem test_meets_BespokeStoreAndLoads_bound : ([(511, false, true), (511, true, true), (510, false, false)] : List (Nat × Bool × Bool)).all (fun e =>
    let s := boundState e.1 e.2.1
    let w := (tokAt s .w32 (.g 0)).payload
    let v := storeSoon s 0 .a
    bitOf w.toNat 31 && decide (field w.toNat 15 9 = 1) && decide (field w.toNat 8 0 + 1 ≤ 512)
      && ((boundWords v w).zipIdx.all fun e => microOk e.1 e.2 1) && ((boundWords v w).any isMend == e.2.2)) = true := by decide +kernel

theorem test_meets_BespokeStoreAndLoads_coreBound : (let s := coreState { g := (Vector.replicate 8 {}).set 0 { payload := 0x800003FF } } {}
    let s := { s with panels := (boundState 511 false).panels }
    let w := (tokAt s .w32 (.g 0)).payload
    bitOf w.toNat 31 = true ∧ bspBusy s 0 .a = false ∧ bsldBusy s 0 .a = false
    ∧ (boundWords (storeSoon s 0 .a) w).any isMend = true) := by decide +kernel

/-- Letter B of panel 0 holds pattern 7 basted for instance 1. -/
def bastedState : State :=
  let s := slotOf stitch0 {}
  let s := s.updPlane stitch0 .b fun p => { p with basted := true }
  { s with ctxs := [(0, { pats := [(7, { pid := 7 })] })], panels := [(0, { sb := { hold := .basted 1 7 } })] }

theorem test_meets_BespokeStoreAndLoads_pload : ringShared bastedState 0 = false
    ∧ mget? (bastedState.ctx (ctxOf bastedState stitch0 .a)).pats 7 = some { pid := 7 }
    ∧ ({ pid := 7 } : Pattern).fw = (bastedState.inst 1).pat.fw ∧ ({ pid := 7 } : Pattern).fh = (bastedState.inst 1).pat.fh
    ∧ dstUnwired bastedState stitch0 .a (.g 0) = false ∧ bastedWith bastedState 0 .b 1 7 = true
    ∧ (bastedState.plane stitch0 .b).basted = true ∧ kindOf stitch0 = .stitch := by decide +kernel

theorem test_meets_BespokeStoreAndLoads_core : ((coreState {} {}).core 0).serving = some 5
    ∧ bspBusy (coreState {} {}) (panelOf (coreState {} {}) (.panel 0 0) .a) .a = false
    ∧ bsldBusy (coreState {} {}) (panelOf (coreState {} {}) (.panel 0 0) .a) .a = false
    ∧ bitOf (tokAt (coreState {} {}) .w32 .one).payload.toNat 31 = false := by decide +kernel

theorem test_meets_SystemWriteBack : ([{ id := 3, kind := .wrsr, arg := 0x018 }, { id := 3, kind := .prio, arg := 2 },
      { id := 3, kind := .bsld, arg := 511 }, { id := 3, kind := .bsbd, arg := 31 }, { id := 3, kind := .wrsr, arg := 0x027, fold := 3 }] : List Op).all (fun o =>
    decide (((withOp o).ctx 0).dbgop = none) && decide ((withOp o).op? stitch0 .a 3 = some o) && o.ready && !o.load && !lateLeft (withOp o) stitch0 .a o
      && !storeBefore (withOp o) stitch0 .a o) = true := by decide +kernel

/-! ### Traps, handlers, bespoke sequences: hypotheses -/

theorem test_meets_TakingATrap : causeCls .tagMismatch = .p ∧ ((withReg {} 0).inst 1).fault = false
    ∧ descheduled (withReg {} 0) ((withReg {} 0).inst 1).ctx = false ∧ ((withReg {} 0).inst 1).replay = none
    ∧ ((withReg {} 0).plane stitch0 .a).psn = none ∧ ((coreState {} {}).inst 1).fault = true
    ∧ ((withReg {} 0).core 0).queue.length < 16 ∧ ((withReg {} 0).core 0).late = []
    ∧ 16 ≤ ((coreState { queue := List.replicate 16 9 } {}).core 0).queue.length
    ∧ ((coreState { late := [9] } {}).core 0).late ≠ [] := by decide +kernel

theorem test_meets_SoftwareTraps : (withReg {} 0).cur = .slot stitch0 .a 0 ∧ bitOf ((withReg {} 0).ctx 0).dbgen 0 = false
    ∧ bitOf ({ withReg {} 0 with ctxs := [(0, { dbgen := 1 })] }.ctx (ctxOf (withReg {} 0) stitch0 .a)).dbgen 0 = true
    ∧ (coreState {} {}).cur = .core 0 ∧ bitOf ((coreState {} {}).ctx (servedTrap (coreState {} {}) 0).ctx).dbgen 0 = false
    ∧ bitOf ({ coreState {} {} with ctxs := [(0, { dbgen := 1 })] }.ctx (servedTrap (coreState {} {}) 0).ctx).dbgen 0 = true := by
  decide +kernel

theorem test_meets_LeavingATrap : (coreState {} {}).cur = .core 0 ∧ ((coreState {} {}).core 0).serving = some 5
    ∧ ((coreState {} { cause := .tagMismatch, phase := true }).core 0).tact = 0
    ∧ (causeCls .tagMismatch ≠ .p ∨ ((coreState {} { cause := .tagMismatch, phase := true }).trap 5).phase = true)
    ∧ ((coreState { tact := 2 } { cause := .pageNotPresent }).core 0).tact = 2 ∧ causeCls .pageNotPresent = .s
    ∧ ((coreState { tact := 1 } { cause := .tagMismatch }).core 0).tact = 1
    ∧ ((coreState { tact := 1 } { cause := .tagMismatch }).trap 5).phase = false
    ∧ (coreState { tact := 1 } { cause := .tagMismatch }).upsets = []
    ∧ (∀ e ∈ (coreState { tact := 1 } { cause := .tagMismatch }).insts, e.2.spill = 0)
    ∧ ((coreState { tact := 3 } {}).core 0).tact = 3 ∧ ((coreState { tact := 4 } {}).core 0).tact ≠ 3 := by decide +kernel

theorem test_meets_SequentialControl : (coreState {} {}).cur = .core 0 ∧ (tokAt (coreState {} {}) .w32 .ones).kind = .data
    ∧ decodeA .stitch 0 (tokAt (coreState {} {}) .w32 .ones).payload = .error .operandReserved
    ∧ decodeA .stitch 0 (tokAt (coreState { g := (Vector.replicate 8 {}).set 0 { payload := 0x4118002A } } {}) .w32 (.g 0)).payload
      = .ok (.movi (.g 3) 42)
    ∧ (0x4118002A : Word).toNat / 16777216 < 0x60
    ∧ decodeA .stitch 0 (tokAt (coreState { g := (Vector.replicate 8 {}).set 0 { payload := 0x57600000 } } {}) .w32 (.g 0)).payload
      = .ok .halt := by decide +kernel

/-- A sequence that runs, started or not, with its invocation in flight. -/
def seqState (q : Seqr) : State :=
  let s := slotOf stitch0 { ops := [{ id := 0, kind := .bsp, ready := false }] }
  { s.setNode stitch0 { s.node stitch0 with seqr := some q } with cur := .micro stitch0 .a }

theorem test_meets_BespokeSequences_bound :
    (let s := { slotOf stitch0 {} with panels := [(0, { sa := { bind := [(31, 0x80000200)] } })] }
     s.cur = .slot stitch0 .a 0 ∧ bitOf (mget (s.side (panelOf s stitch0 .a) .a).bind (31 : Fin 32).val).toNat 31 = true
     ∧ bitOf (mget (s.side (panelOf s stitch0 .a) .a).bind (0 : Fin 32).val).toNat 31 = false ∧ dstUnwired s stitch0 .a (.g 0) = false
     ∧ (tokAt s .f32 .one).kind ≠ .psn) := by decide +kernel

theorem test_meets_BespokeSequences_run : ((seqState { count := 255 }).node stitch0).seqr = some { count := 255 }
    ∧ mended (seqState { count := 255 }) stitch0 { count := 255 } = false ∧ microReady (seqState { count := 255 }) stitch0 { count := 255 } = true
    ∧ mended (seqState { count := 256 }) stitch0 { count := 256 } = false ∧ microReady (seqState { count := 256 }) stitch0 { count := 256 } = true
    ∧ (seqState {}).cur = .micro stitch0 .a ∧ (tokAt (seqState {}) .w32 .one).payload ≠ 0 ∧ (tokAt (seqState {}) .w32 .zero).payload = 0
    ∧ (tokAt (seqState {}) .w32 .zero).kind = .data ∧ ({} : Seqr).h[(7 : Fin 8)].kind = .data ∧ ({} : Seqr).h[(7 : Fin 8)].payload ≠ 1
    ∧ ({ h := (Vector.replicate 8 {}).set 7 { payload := 1 } } : Seqr).h[(7 : Fin 8)].payload = 1
    ∧ (seqState {}).op? stitch0 .a 0 = some { id := 0, kind := .bsp, ready := false } := by decide +kernel

theorem test_meets_BespokeSequences_late : ((seqState { upc := 9, late := [(.fpInvalid, 0, 4)] }).node stitch0).seqr
      = some { upc := 9, late := [(.fpInvalid, 0, 4)] }
    ∧ ({ upc := 9, late := [(.fpInvalid, 0, 4)] } : Seqr).late.find? (fun x => decide (x.2.1 ≤ (seqState {}).cycle))
      = some (.fpInvalid, 0, 4) := by decide +kernel

/-! ### Calls: hypotheses -/

/-- A caller, instance 1, of a pattern 7 at its one call site, with one callee, instance 2. -/
def caller (v : Inst) (p : Pattern) : State :=
  { slotOf stitch0 {} with
    ctxs := [(0, { pats := [(7, p)], castunits := 4, spquota := 1, splen := 64, spused := 0 })]
    insts := [(1, { pat := { sites := [{ cpid := 7 }] } }), (2, { v with caller := 1 })] }

theorem test_meets_Calls : (∃ p runs, callCheck (caller {} { pid := 7 }) 7 0 1 = .ok (p, runs))
    ∧ dstUnwired (caller {} {}) stitch0 .a (.g 0) = false
    ∧ mget? ((caller {} {}).ctx ((caller {} {}).inst (instOf (caller {} {}) stitch0 .a)).ctx).pats 4095 = none
    ∧ mget? ((caller {} {}).ctx 0).pats 7 = some {} ∧ ((caller {} {}).inst 1).pat.sites.length ≤ 15
    ∧ ((caller {} {}).inst 1).pat.sites[0]? = some { cpid := 7 } ∧ ({ cpid := 7 } : Site).members.length < 2 :=
  ⟨⟨_, _, rfl⟩, by decide +kernel, by decide +kernel, by decide +kernel, by decide +kernel, by decide +kernel, by decide +kernel⟩

theorem test_meets_Returns : ((caller {} {}).inst (instOf (caller {} {}) stitch0 .a)).caller = 0
    ∧ (let s := { caller {} {} with nodes := [(stitch0, { pa := { active := true, inst := 2 } })] }
       s.cur = .slot stitch0 .a 0 ∧ (s.inst (instOf s stitch0 .a)).caller ≠ 0 ∧ instOf s stitch0 .a ≠ 0) := by decide +kernel

/-- A pair whose second part is a success is one of a state and a value. -/
theorem ok_of {α β ε : Type} (r : α × Except ε β) (p : β → Bool) (h : r.2.toOption.map p = some true) :
    ∃ u b, r = (u, .ok b) ∧ p b = true := by
  obtain ⟨u, x⟩ := r
  cases x with
  | error e => cases h
  | ok b => exact ⟨u, b, rfl, by injection h⟩

/-- Identity pages for context 0: the page at 0x10000 readable, writable and open to atomics, that at 0x20000
discarded, and 2 MiB at 0x200000. -/
def paged (s : State) : State :=
  let m := memPutDouble s.mem 0x1000 (0x2000 + 1)
  let m := memPutDouble m 0x2000 (0x3000 + 1)
  let m := memPutDouble m 0x3000 (0x4000 + 1)
  let m := memPutDouble m 0x4000 (0x5000 + 1)
  let m := memPutDouble m 0x4008 (0x200000 + 1 + 2 + 4 + 8 + 32)
  let m := memPutDouble m 0x5008 (0x10000 + 1 + 2 + 4 + 8 + 32)
  let m := memPutDouble m 0x5010 (0x20000 + 1 + 2 + 4 + 16 + 32)
  { s with mem := m, dev := { s.dev with irmap := [(0, (2 ^ 63 + 2 ^ 22, 1))] }
           ctxs := mset s.ctxs 0 { s.ctx 0 with ptroot := 0x1001 } }

theorem test_paged : (match translate (paged {}) 0 0x10040 with
    | (_, some p) => (pageHome p 0x10040, p.r && p.w && p.at_)
    | _ => (0, false)) = (0x10040, true) := by decide +kernel

/-- The caller with a LAUNCH template in its spawn window. -/
def spawner : State :=
  let s := paged (caller {} {})
  { s with mem := memWrite s.mem 0x10000 1, ctxs := [(0, { s.ctx 0 with spbase := 0x10000, splen := 64, spquota := 1 })] }

theorem test_meets_Spawns : IsRaw spawner .zero ∧ IsRaw spawner .one
    ∧ (∃ u bs, readCtx spawner (ctxOf spawner stitch0 .a) ((spawner.ctx 0).spbase + (tokAt spawner .w32 .zero).payload.toNat) 64 = (u, .ok bs)
      ∧ (List.headD bs 0 == 1) = true)
    ∧ (tokAt spawner .w32 .zero).payload.toNat % 64 = 0 ∧ (tokAt spawner .w32 .zero).payload.toNat + 64 ≤ (spawner.ctx 0).splen
    ∧ (spawner.ctx 0).spused ≠ (spawner.ctx 0).spquota ∧ dstUnwired spawner stitch0 .a (.g 0) = false
    ∧ ({ spawner with ctxs := [(0, { spawner.ctx 0 with spquota := 0 })] }.ctx 0).spused
      = ({ spawner with ctxs := [(0, { spawner.ctx 0 with spquota := 0 })] }.ctx 0).spquota
    ∧ (tokAt spawner .w32 .one).payload.toNat % 64 ≠ 0
    ∧ ({ spawner with ctxs := [(0, { spawner.ctx 0 with splen := 63 })] }.ctx 0).splen < (tokAt spawner .w32 .zero).payload.toNat + 64 :=
  ⟨rfl, rfl, ok_of _ (fun bs => List.headD bs 0 == 1) (by decide +kernel), by decide +kernel, by decide +kernel, by decide +kernel,
    by decide +kernel, by decide +kernel, by decide +kernel, by decide +kernel⟩

/-- A spawn area whose template is no LAUNCH packet, and one that cannot be read. -/
theorem test_meets_Spawns_malformed : (let s := { spawner with mem := memWrite spawner.mem 0x10000 2 }
    (readCtx s (ctxOf s stitch0 .a) ((s.ctx 0).spbase + (tokAt s .w32 .zero).payload.toNat) 64).2.toOption.map (List.headD · 0) = some 2)
    ∧ (let s := { spawner with ctxs := [(0, { (caller {} {}).ctx 0 with splen := 64 })] }
      (tokAt s .w32 .zero).payload.toNat + 64 ≤ (s.ctx 0).splen
      ∧ (readCtx s (ctxOf s stitch0 .a) ((s.ctx 0).spbase + (tokAt s .w32 .zero).payload.toNat) 64).2.toOption = none) := by decide +kernel

/-- The caller with register g0 holding the callee's id. -/
def mover (v : Inst) : State :=
  let s := caller v {}
  s.updPlane stitch0 .a fun p => { p with g := p.g.set 0 { payload := 2 } }

/-- The operation that PLT, CSTO or CSTI of `mover` puts in flight, and the state with it. -/
def moving (v : Inst) (code : Nat) : State :=
  issueOp (mover v) stitch0 .a { newOp (mover v) stitch0 .a 0 1 (.g 1) (srcPorts [.g 0]) with
    kind := .move, ready := false, arg := 2, done := code } (srcPorts [.g 0])

theorem test_meets_MovingCallees : (mover {}).cur = .slot stitch0 .a 0 ∧ (tokAt (mover {}) .w32 (.g 0)).payload.toNat % 2 ^ 24 = 2
    ∧ (mget? (mover {}).insts 2).isSome = true ∧ ((mover {}).inst 2).caller = instOf (mover {}) stitch0 .a
    ∧ instOf (mover {}) stitch0 .a ≠ 0 ∧ ((mover { st := .cast }).inst 2).st = .cast ∧ ((mover {}).inst 2).st = .live
    ∧ hasStall (moving {} 2) 2 = false ∧ hasStall (moving {} 0) 2 = false ∧ ((mover { pleated := true }).inst 2).pleated = true
    ∧ hasStall (moving {} 1) 2 = false ∧ (castBegin (moving {} 1) 2).isSome = true
    ∧ ((mover {}).inst 2).pleated = false ∧ ((mover {}).inst 2).pat.tnodes = []
    ∧ dstUnwired (mover {}) stitch0 .a (.g 1) = false
    ∧ (mget? (mover {}).insts (tokAt (mover {}) .w32 .ones).payload.toNat).isSome = false := by decide +kernel

/-- Partition 0 is panel 0 alone; the callee is cast, with its unit at 0x200000. -/
def castState : State :=
  let s := paged (mover { st := .cast, castUnit := some 0 })
  { s with parts := [(0, { prect := 2 ^ 31 })], ctxs := [(0, { s.ctx 0 with castbase := 0x200000 })] }

theorem test_meets_MovingCallees_host :
    (let s := moving {} 0
     let s := { s with insts := mset s.insts 3 { origin := 5 }, panels := [(5, { sa := { hold := .inst 3 } })] }
     (findHost s ((mover {}).inst 2).ctx ((mover {}).inst 2).pat ((mover {}).inst 2).wins (castAnchor s ((mover {}).inst 2)) 2).isSome)
    = true := by decide +kernel

theorem test_meets_MovingCallees_resume : castState.cur = .slot stitch0 .a 0 ∧ (castState.ctx (castState.inst 2).ctx).preempt = false
    ∧ (match resumeCast { moving { st := .cast, castUnit := some 0 } 2 with
        mem := castState.mem, dev := castState.dev, parts := castState.parts, ctxs := castState.ctxs } 2 true with
      | some (u, .ok ()) => !(u.ctx (u.inst 2).ctx).preempt
      | _ => false) = true
    ∧ (let s := { moving { st := .cast, castUnit := some 0 } 2 with
        mem := castState.mem, dev := castState.dev, parts := castState.parts, ctxs := castState.ctxs }
      (castPlace s 2 true).any fun x => castClear s 2 x) = true := by decide +kernel

/-! ### Memory instructions: hypotheses -/

/-- A memory port of instance 1 with one window and registers g0 and g1. -/
def mpState (x : Window) (v w : Word) : State :=
  { slotOf port0 { g := ((Vector.replicate 8 {}).set 0 { payload := v }).set 1 { payload := w } } with insts := [(1, { wins := [x] })] }

/-- A described window of a space with every right. -/
def openWin (sp : Space) (len : Nat) : Window := { described := true, space := sp, rd := true, wr := true, at_ := true, len := len }

/-- What the operand and window checks of the statement need of an access of `z` bytes at g0. -/
def fits (x : Window) (v : Word) (sps : List Space) (r : Right) (z : Nat) : Bool :=
  x.described && sps.contains x.space && winRight x r && decide (v.toNat % z = 0) && decide (v.toNat + z ≤ x.len)

theorem fits_allows (x : Window) (v : Word) (sps : List Space) (r : Right) (z : Nat) (h : fits x v sps r z = true) :
    Allows x sps r z z v.toNat := by
  simp only [fits, Bool.and_eq_true, decide_eq_true_eq] at h
  refine ⟨⟨h.1.1.1.1, by simpa using h.1.1.1.2, ?_⟩, h.1.2, h.2⟩
  have h1 := h.1.1.2
  cases r <;> simpa [winRight] using h1

/-- The last word of a window of each space of a load or store, and the last row of a vector access. -/
theorem test_meets_MemoryInstructionsIssue_words : ∀ sp : Space,
    Allows (openWin sp 128) [sp] .read 4 4 (124 : Word).toNat ∧ Allows (openWin sp 128) [sp] .write 4 4 (124 : Word).toNat := by
  intro sp
  exact ⟨fits_allows _ _ _ _ _ (by cases sp <;> decide +kernel), fits_allows _ _ _ _ _ (by cases sp <;> decide +kernel)⟩

theorem test_meets_MemoryInstructionsIssue_wide : (let four : List Space := [.scratch, .slice, .device, .peer]
    Allows (openWin .scratch 128) four .read 64 64 (64 : Word).toNat ∧ Allows (openWin .slice 128) four .write 64 64 (64 : Word).toNat
    ∧ Allows (openWin .device 128) four .atomic 4 4 (124 : Word).toNat ∧ Allows (openWin .peer 128) [.device, .peer] .atomic 8 8 (120 : Word).toNat
    ∧ Allows (openWin .slice 128) [.slice] .atomic 4 4 (0 : Word).toNat) :=
  ⟨fits_allows _ _ _ _ _ (by decide +kernel), fits_allows _ _ _ _ _ (by decide +kernel), fits_allows _ _ _ _ _ (by decide +kernel),
   fits_allows _ _ _ _ _ (by decide +kernel), fits_allows _ _ _ _ _ (by decide +kernel)⟩

theorem test_meets_MemoryInstructionsIssue_operands : (let s := mpState (openWin .scratch 128) 124 0
    s.cur = .slot port0 .a 0 ∧ dstUnwired s port0 .a .disc = false ∧ IsSame s .w32 (.g 0) ∧ DataOk s .w32 (.g 1)
    ∧ winOf s (instOf s port0 .a) (0 : BitVec 4).toNat = openWin .scratch 128 ∧ (tokAt s .w32 (.g 0)).payload.toNat = 124
    ∧ Reachable s (winOf s (instOf s port0 .a) (0 : BitVec 4).toNat)) :=
  ⟨rfl, rfl, ⟨rfl, rfl⟩, ⟨rfl, .inl rfl⟩, rfl, rfl, fun h => Space.noConfusion h⟩

theorem test_meets_MemoryInstructionsIssue_peer : (let s := { mpState (openWin .peer 128) 0 0 with
      dev := { islands := allOn, domen := true }, peers := [(9215, (1, true))], ports := [(0, { lup := 1 })] }
    Reachable s { openWin .peer 128 with peer := 9215 }) :=
  fun _ => ⟨by decide, rfl, .inr (by decide +kernel)⟩

theorem test_meets_MemoryInstructionsIssue_rows : (let x : Window := { openWin .scratch 128 with rstr := 16, roww := 15 }
    (x.described = true ∧ x.rd = true ∧ x.wr = true) ∧ x.rstr ≠ 0 ∧ 1 * x.rstr * 4 + (x.roww + 1) * 4 ≤ x.len)
    ∧ (let x := { openWin .exchange 128 with dx := 0 }
       exchInside ((mpState x 0 0).inst 1) (panelOf (mpState x 0 0) port0 .a) x = true)
    ∧ (let x := { openWin .device 65536 with base := 65536 }
       (x.base + 0) % 65536 = 0 ∧ 0 + 65536 ≤ x.len) ∧ 1 ≤ (4096 : Word).toNat ∧ (4096 : Word).toNat ≤ 4096
    ∧ 0 + (4096 : Word).toNat * (laneW .b16 / 8) ≤ (openWin .slice 8192).len := by decide +kernel

theorem test_meets_WindowChecks : (let s := mpState { openWin .scratch 128 with wr := false } 126 0
    s.cur = .slot port0 .a 0 ∧ IsSame s .w32 (.g 0) ∧ ¬ Admits (winOf s (instOf s port0 .a) 0) [.device] .read
    ∧ Admits (winOf s (instOf s port0 .a) 0) [.scratch] .read ∧ (tokAt s .w32 (.g 0)).payload.toNat % 4 ≠ 0
    ∧ (winOf s (instOf s port0 .a) 0).len < 128 + 4 ∧ 128 % 4 = 0
    ∧ (let x : Window := { openWin .scratch 128 with rstr := 16, roww := 15 }
       x.rstr ≠ 0 ∧ x.len < 2 * x.rstr * 4 + (x.roww + 1) * 4)) :=
  ⟨rfl, ⟨rfl, rfl⟩, fun h => absurd h.2.1 (by decide +kernel), ⟨by decide +kernel, by decide +kernel, by decide +kernel⟩,
   by decide +kernel, by decide +kernel, by decide, by decide +kernel⟩

theorem test_meets_HandlerAccesses : (let s := { coreState {} {} with insts := [(1, { wins := [openWin .scratch 4] })] }
    s.cur = .core 0 ∧ IsSame s .w32 .zero ∧ winOf s (actInst s) 0 = openWin .scratch 4 ∧ (tokAt s .w32 .zero).payload.toNat = 0
    ∧ DataOk s .w32 .one ∧ (openWin .scratch 4).hv = false ∧ upsetsIn s (homeScratch 0 0) 4 = []
    ∧ coreHeld s 0 (openWin .scratch 4) .w32 (0, .load) = false) ∧ Allows (openWin .scratch 4) [.scratch] .read 4 4 (0 : Word).toNat
    ∧ Allows (openWin .scratch 4) [.scratch] .write 4 4 (0 : Word).toNat :=
  ⟨⟨rfl, ⟨rfl, rfl⟩, rfl, rfl, ⟨rfl, .inl rfl⟩, rfl, by decide +kernel, by decide +kernel⟩, fits_allows _ _ _ _ _ (by decide +kernel), fits_allows _ _ _ _ _ (by decide +kernel)⟩

theorem test_meets_FencesAndBarriers : (mpState {} 0 0).cur = .slot port0 .a 0 ∧ dstUnwired (mpState {} 0 0) port0 .a .disc = false
    ∧ IsSame (mpState {} 0 0) .w32 (.g 0) ∧ CanDeliver (mpState {} 0 0) .disc := ⟨rfl, rfl, ⟨rfl, rfl⟩, rfl⟩

/-- A memory port with scratchpad windows 0 and 1 of the whole panel and a copy descriptor of 16 bytes at byte 0: from
window 0 to window 1. -/
def copyState : State :=
  let x := openWin .scratch 131072
  let s := { slotOf port0 {} with insts := [(1, { wins := [x, { x with base := 0 }] })] }
  { s with mem := memPutWord (memPutWord [] (homeScratch 0 0) 0x10) (homeScratch 0 12) 16 }

theorem test_meets_CopiesIssue : (match winReads (spendAt copyState (copyState.inst 1).ctx (limiterVa copyState (copyState.inst 1).ctx .scratch 0 0) 16) (panelOf copyState port0 .a, some (port0, .a, 0)) (copyState.inst 1).ctx
      (winOf copyState 1 0) (latchFile copyState port0 .a 0).snap 0 8 with
    | (u, .ok ws) =>
      let q := wordsNat (ownWords u port0 .a 0 u.ids (winOf copyState 1 0) 0 ws)
      decide (q = 16 * 2 ^ 96 + 0x10) && (copyCheck u q { copyOf q false (u.inst 1).wins with inst := 1, ctx := 0, run := (u.inst 1).run }).isNone
    | _ => false) = true
    ∧ (fits (winOf copyState 1 0) 0 [.scratch, .slice, .device, .peer] .read 32) = true ∧ copyState.cur = .slot port0 .a 0 := by decide +kernel

theorem test_meets_LayeredInstructionsIssue : (let x : Window := { described := true, space := .device, rd := true, hv := true }
    let s := { mpState x 3 0 with insts := [(1, { wins := [x], pat := { handles := [0x40] } })] }
    let u := s.updPlane port0 .a fun p => { p with latch := [(0, { handle := some 0x40 })] }
    s.cur = .slot port0 .a 0 ∧ dstUnwired s port0 .a .disc = false ∧ IsSame s .w32 (.g 0) ∧ IsRaw s (.g 1)
    ∧ (s.inst (instOf s port0 .a)).pat.handles[(tokAt s .w32 (.g 1)).payload.toNat]? = some 0x40
    ∧ (latchFile u port0 .a 0).handle = some 0x40 ∧ (tokAt s .w32 (.g 0)).payload.toNat ≤ 3 ∧ 3 < (4 : Word).toNat
    ∧ (latchFile s port0 .a 0).handle = none) :=
  ⟨rfl, rfl, ⟨rfl, rfl⟩, rfl, rfl, rfl, by decide +kernel, by decide, rfl⟩

/-! ### Memory events: hypotheses -/

/-- One access of a memory port, number 4, of the port's operation 3. -/
def accState (a : Access) (w : Window) : State :=
  let s := slotOf port0 { ops := [{ id := 3, kind := .access, ready := false, total := 1 }] }
  { s with accs := [(4, { a with node := port0, op := 3, inst := 1 })], insts := [(1, { wins := [w] })], cycle := 400 }

/-- The access as it stands in `accState`. -/
def accOf (a : Access) : Access := { a with node := port0, op := 3, inst := 1 }

/-- The hypotheses of the performing clause that are Booleans. -/
def performs (s : State) (a : Access) : Bool :=
  decide (mget? s.accs 4 = some a) && a.layered.isNone && !buffers s a && canPerform s 4 a && (a.space != .peer) && (pathFault s a).isNone
    && (!inDevice s a.space a.peer || decide (2 ^ 52 ≤ a.home) || !paDown s a.home) && (nodeBuf s a.node).all (!sameWord a ·) && Memory.wf s.mem
    && ((homePage s a.ctx a.va).all fun p => !inDevice s a.space a.peer || !p.d) && (upsetsIn s (sweepOf a).home (actBytes (sweepOf a).act)).isEmpty

theorem test_meets_AccessesPerform : ∀ a ∈ ([{ act := .load }, { act := .store 7 }, { act := .atomic 8 .w32 1 2 }, { act := .atomic 1 .f32 1 2 },
      { act := .bupd .f32 1, space := .slice, home := homeSlice 6 3 0 }, { act := .bred .b16 32, space := .slice, home := homeSlice 1 0 0 },
      { act := .bred .b16 4096, space := .slice, home := homeSlice 1 0 0 },
      { act := .bred .b16 4096, space := .slice, home := homeSlice 1 0 0, swept := 2032, part := some 0 },
      { act := .store 7, space := .exchange, home := 0, va := 8188 }] : List Access),
    performs (accState a {}) (accOf a) = true := by decide +kernel

theorem test_meets_AccessesPerform_sweeps : 32 ≤ 64 / (laneW .b16 / 8) ∧ (sweepOf (accOf { act := .bred .b16 4096 })).act = .bred .b16 32
    ∧ sweepsOn (accOf { act := .bred .b16 4096 }) = true ∧ sweepsOn (accOf { act := .bred .b16 4096, swept := 2032 }) = false := by
  decide +kernel

theorem test_meets_AccessesPerform_device : (let a : Access := { act := .sigw 0xFFFFFFFF, space := .device, va := 0x1FFF8, home := 0x1FFF8 }
    performs (paged (accState a {})) (accOf a) = true ∧ (paged (accState a {})).runs = [])
    ∧ (let a : Access := { act := .dsc, space := .device, va := 0x10000, home := 0x10000 }
       let s := paged (accState a {})
       performs s (accOf a) = true ∧ (match (translate s 0 0x10000).2 with
         | some q => !q.bad && decide (q.size = 65536) && q.w && !bitOf (memDouble s.mem q.leafPa) 4
         | none => false) = true) := by decide +kernel

theorem test_meets_AccessesPerform_marks : (let a : Access := { act := .dsc, space := .device, va := 0x10000, st := .marks 5 [port0] [255] [3] }
    let s := paged (accState a {})
    mget? s.accs 4 = some (accOf a) ∧ dscMarked s (accOf a) 5 [port0] [255] [3] = true ∧ s.memOk
    ∧ eccBytes s 0 0x10000 4 = (s, none)) := by
  unfold State.memOk
  decide +kernel

theorem test_meets_AccessesPerform_buffer : (let a : Access := { act := .store 7 }
    let s := accState a { cwe := true }
    mget? s.accs 4 = some (accOf a) ∧ buffers s (accOf a) = true ∧ canBuffer s 4 (accOf a) = true
    ∧ ((s.plane port0 .a).mp.buf.filter fun c => decide (c.win = 0)).length < 512) := by decide +kernel

theorem test_meets_MemoryEvents_answers : (let a : Access := { act := .load, space := .device, va := 0x10000, st := .trans }
    let s := paged (accState a {})
    s.memOk ∧ mget? s.accs 4 = some (accOf a) ∧ canAnswer s 4 (accOf a) = true
    ∧ ∃ u, ∃ p : Machine.Page, portXlate s port0 .a 0 0 0x10000 (actRight a.act) = (u, .ok p) ∧ (p : Machine.Page).r = true)
    ∧ (let a : Access := { act := .load, space := .device, va := 0x30000, st := .trans }
       let s := paged (accState a {})
       canAnswer s 4 (accOf a) = true ∧ (s.op? port0 .a 3).isSome = true ∧ (match portXlate s port0 .a 0 0 0x30000 .read with
         | (_, .error c) => causeCls c == .s
         | _ => false) = true) :=
  ⟨⟨by unfold State.memOk; decide +kernel, by decide +kernel, by decide +kernel, ok_of _ _ (by decide +kernel)⟩,
   by decide +kernel, by decide +kernel, by decide +kernel⟩

/-- An nt whose XBAR waits, its instance's gusset being panel 0. -/
def xbarState : State :=
  let n : NodeId := .panel 0 71
  let s := slotOf n { slots := (Vector.replicate 16 (0, 0)).set 0 (plainT, 0x8D642000), ops := [{ id := 3, kind := .xbar, ready := false }] }
  { s with cycle := 12 }

theorem test_meets_MemoryEvents_swap : (let s := xbarState
    let ps := xbarPanels s 1
    s.memOk ∧ ps = [(0, .a)] ∧ (ps.map fun e => panelKey (s.inst 1) e.1).Nodup ∧ (ps.all fun e => xbarArrived s e.1 e.2) = true
    ∧ ((ps.map fun e => xbarAt s e.1 e.2).foldl max 0) + barrierDelay s (s.inst 1) 0 ≤ s.cycle) := by
  unfold State.memOk
  decide +kernel

theorem test_meets_MemoryEvents_zeroing : ({ cycle := 9, panels := [(16383, { zero := some 9 })] } : State).memOk
    ∧ (({ cycle := 9, panels := [(16383, { zero := some 9 })] } : State).panel 16383).zero = some 9
    ∧ (mget ({ cycle := 9, banks := [((7, 0), { split := true, ways := (Vector.replicate 4 {}).set 3 { zero := some 9 } })] } : State).banks
        (7, 0)).ways[(3 : Fin 4)].zero = some 9 := by
  unfold State.memOk
  decide +kernel

/-- A context with registers of the memory-management block. -/
def mmState (x : Ctx) : State := { slotOf port0 {} with ctxs := [(0, x)] }

/-- One that holds a page of the range in a latch file. -/
def latchState (x : Ctx) : State :=
  { slotOf port0 { latch := [(0, { pages := [{ vpn := 1 }] })] } with ctxs := [(0, x)] }

theorem test_meets_MemoryEvents_shootdown : (mmState { sdgo := true }).memOk ∧ ((mmState { sdgo := true }).ctx 0).sdat = 0
    ∧ eventFree (mmState { sdgo := true }) 0 = true ∧ ((mmState { sdgo := true }).ctx 0).sdsig = 0
    ∧ markNodes (mmState { sdgo := true }) 0 0 0 = [] ∧ markUnits (mmState { sdgo := true }) 0 0 0 = []
    ∧ markPresses (mmState { sdgo := true }) 0 0 0 = []
    ∧ markUnits { mmState { sdgo := true } with lunits := [(255, [(0, 0x10000, [])])] } 0 0x10000 1 = [255]
    ∧ ((mmState { sdgo := true, sdmarks := [port0], sdunits := [255] }).ctx 0).sdunits ≠ []
    ∧ markNodes (latchState { sdgo := true, sdlen := 0x20000 }) 0 0 0x20000 = [port0]
    ∧ port0 ∈ ((mmState { sdgo := true, sdmarks := [port0], sdat := 1 }).ctx 0).sdmarks
    ∧ finishedBefore (mmState { sdgo := true, sdmarks := [port0], sdat := 1 }) port0 1 = true := by
  unfold State.memOk
  decide +kernel

theorem test_meets_MemoryEvents_queries : ((mmState { lwqgo := true }).ctx 0).lwqst = none ∧ ((mmState { lwqgo := true }).ctx 0).lwqgo = true
    ∧ ((mmState { lwqst := some 5 }).ctx 0).lwqst = some 5
    ∧ ((mmState { rcgo := true }).ctx 0).rcgo = true ∧ ((mmState { rcgo := true }).ctx 0).rcst = none
    ∧ homePage (mmState { rcgo := true }) 0 0 = none
    ∧ (homePage (paged (mmState { rcgo := true, rcva := 0x10000 })) 0 0x10000).map (·.d) = some false
    ∧ (homePage (paged (mmState { rcgo := true, rcva := 0x20000 })) 0 0x20000).map (·.d) = some true
    ∧ ((mmState { rcst := some 1 }).ctx 0).rcst = some 1 ∧ ((mmState { rcst := some 1 }).ctx 0).rcmarks = []
    ∧ (∀ u, u < 256 → unitPast (mmState { rcst := some 1 }) 0 0 u = true)
    ∧ (∀ d, d < 4 → pressPast (mmState { rcst := some 1 }) 0 0 1 0 d = true) := by decide +kernel

/-! ### Engines: hypotheses -/

/-- Letter A of panel 0's matrix array. -/
def mxaState (m : Mxa) (ext : List Word) (x : Window) : State :=
  { slotOf (mxaNode 0) { mxa := m, ext := ext, ins := (Vector.replicate 4 {}).set 2 (headed {}) } with
    insts := [(1, { wins := [x] })], cycle := 400 }

theorem test_meets_MatrixInstructions : (let s := mxaState { m := Vector.replicate 16 0x44444444 } [0x4000] (openWin .scratch 4096)
    s.cur = .slot (mxaNode 0) .a 0 ∧ chainFed s 0 .a .west = false
    ∧ ((s.plane (mxaNode 0) .a).mxa.bank true).int = (Fmt.b16 == .i8) ∧ ((s.plane (mxaNode 0) .a).mxa.bank false).int ≠ (Fmt.i8 == .i8)
    ∧ ((s.plane (mxaNode 0) .a).mxa.m.toList.all fun x => !metaBad .s24 2 8 x) = true
    ∧ drainRoute s (mxaNode 0) .a 0 = ([], 0) ∧ rwWired ((s.plane (mxaNode 0) .a).ext.getD 0 0) = true
    ∧ IsSame s .w32 (.inC 2) ∧ loadCheck (winOf s 1 0) false 2 16 0 = none ∧ loadCheck (winOf s 1 0) true 2 16 0 = none)
    ∧ (let s := mxaState {} [] {}
      chainFed s 0 .a .west = false ∧ ((s.plane (mxaNode 0) .a).mxa.m.toList.any fun x => metaBad .s48 4 256 x) = true) :=
  ⟨⟨rfl, by decide +kernel, by decide +kernel, by decide +kernel, by decide +kernel, by decide +kernel, by decide +kernel,
    ⟨rfl, rfl⟩, by decide +kernel, by decide +kernel⟩, by decide +kernel, by decide +kernel⟩

theorem test_meets_MatrixInstructions_compressor : (let s := slotOf (mxaNode 0) { rw := Vector.replicate 4 0x4000 }
    outWired s (mxaNode 0) .a 0 = true ∧ outWired s (mxaNode 0) .a 1 = true) := by decide +kernel

/-- Port unit 0, whose group 15 is valid or not. -/
def pcState (gw : Nat) (e : Option StreamOp) (p : Plane) : State :=
  let n : NodeId := .pc 0 0
  let s := slotOf n p
  let s := s.setNode n { s.node n with engine := e }
  { s with ports := [(0, { groups := [(15, (gw, 0, 0, 0))] })] }

theorem test_meets_StreamInstructions : (let s := pcState 1 none { g := Vector.replicate 8 {} }
    s.cur = .slot (.pc 0 0) .a 0 ∧ dstUnwired s (.pc 0 0) .a (.g 0) = false ∧ groupValid s (.pc 0 0) 15 = true
    ∧ groupValid s (.pc 0 0) 14 = false ∧ IsSame s .w32 (.g 0)) :=
  ⟨rfl, rfl, by decide +kernel, by decide +kernel, ⟨rfl, rfl⟩⟩

theorem test_meets_EngineEvents_distributor : (let s := slotOf (mxaNode 0) { ins := (Vector.replicate 4 {}).set 0 (headed {}) }
    let p := s.plane (mxaNode 0) .a
    (0, ({} : Token)) ∈ ((headTok (mxaNode 0) p 0).toList.map fun t => (p.mxa.jw, t)) ∧ ({} : Token).kind = .data
    ∧ isBlk ({} : Token).fmt = false ∧ p.active = true ∧ p.stop = .run ∧ p.parity = none ∧ p.mxa.loader .west = none
    ∧ laneFree p.mxa (laneIx .west (0 % 16)) = true ∧ p.mxa.dw ≤ s.cycle) := by decide +kernel

theorem test_meets_EngineEvents_units : (let d : DrainOp := { acc := true, pos := 256, since := 144 }
    let g : LoadOp := { k := 16, pos := 16, next := 400 }
    let c : CmprOp := { op := 3, k := 16, placed := 16 }
    let s := mxaState { tiles := [{ op := 3, fin := some 400 }], drain := some d, loadN := some g, mdl := some {}, cmpr := some c } [] {}
    let s := s.updPlane (mxaNode 0) .a fun p => { p with ops := [{ id := 3, kind := .mxa, issued := 381 }] }
    let m := (s.plane (mxaNode 0) .a).mxa
    m.tiles = [{ op := 3, fin := some 400 }] ∧ m.drain = some d ∧ d.since + slow s (mxaNode 0) 256 ≤ s.cycle ∧ m.loader .north = some g ∧ g.next ≤ s.cycle ∧ g.slab = []
    ∧ m.mdl = some {} ∧ m.cmpr = some c ∧ c.k ≤ c.placed ∧ c.metas = [] ∧ (s.op? (mxaNode 0) .a 3).map (·.issued + slow s (mxaNode 0) (c.k + 3)) = some s.cycle)
    ∧ tileOuts { tiles := [{ op := 3, chn := true, fin := some 400 }] } = false
    ∧ (let d : DrainOp := { pos := 16, since := 336 }
      ({ drain := some d } : Mxa).drain = some d ∧ 16 ≤ d.pos ∧ d.out = [] ∧ d.since + slow (mxaState {} [] {}) (mxaNode 0) 64 ≤ 400) := by decide +kernel

/-- A merge whose two inputs stand at their EOS. -/
def mergeState (fin : Bool) : State :=
  let n : NodeId := .panel 0 69
  let q : InPort := headed { kind := .eos, payload := 9 }
  let s := slotOf n { ins := ((Vector.replicate 4 {}).set 0 q).set 1 q }
  s.setNode n { s.node n with engine := some { inb := some { port := 1 }, fin := fin } }

theorem test_meets_EngineEvents_streams : (((mergeState true).node (.panel 0 69)).engine = some { inb := some { port := 1 }, fin := true }
      ∧ ((mergeState true).plane (.panel 0 69) .a).stop = .run)
    ∧ (let e : StreamOp := { inb := some { port := 1 } }
      ((mergeState false).node (.panel 0 69)).engine = some e ∧ e.queue = [] ∧ e.fin = false ∧ endsWith (mergeState false) (.panel 0 69) e = some 9)
    ∧ (let e : StreamOp := { kind := .cred, grp := 15 }
      let q : Partial := { child := some 0, index := 0, val := 5 }
      let s := pcState (1 + 2 ^ 52) (some e) {}
      (s.node (.pc 0 0)).engine = some e ∧ e.resAt ≠ some s.cycle ∧ partBad e q = false ∧ 0 < groupKids s (.pc 0 0) e.grp ∧ mget? e.ceos 0 = none
        ∧ q.index = mget e.child 0 ∧ q.index < e.idx + 4096 ∧ q.psn = false ∧ q.eos = false) := by decide +kernel

/-- An nt whose operation waits for group 2 of its instance, whose arrival has been noted. -/
def gatherState (k : OpKind) (v : Inst) : State :=
  let n : NodeId := .panel 0 71
  let o : Op := { id := 3, kind := k, ready := false, arg := nredArg .w32 .sum, total := 1 }
  { slotOf n { ext := [4], ops := [o] } with insts := [(1, v)], cycle := 99 }

theorem test_meets_EngineEvents_gathers : (let s := gatherState (.nbar 2) { nbars := [(2, { arrived := [(0, 9)] })] }
    let ps := groupPanels s 1 2
    ps = [(0, .a)] ∧ ps.Nodup
    ∧ ((gatherNow s (.nbar 2) ps (barrierDelay s (s.inst 1) 0) (mget (s.inst 1).nbars 2)).release.map fun r => decide (r ≤ s.cycle)) = some true)
    ∧ (let s := gatherState (.nred 2) { nreds := [(2, { arrived := [(0, 9)] })] }
      let ps := groupPanels s 1 2
      ps.Nodup
      ∧ ((gatherNow s (.nred 2) ps (barrierDelay s (s.inst 1) 4) (mget (s.inst 1).nreds 2)).release.map fun r => decide (r ≤ s.cycle)) = some true
      ∧ nredOps s (.nred 2) ps ≠ [] ∧ ∀ o ∈ nredOps s (.nred 2) ps, o.arg = nredArg .w32 .sum ∧ o.total = 1) := by decide +kernel

/-! ### Token events: hypotheses -/

/-- A stitch whose i0 has a token on its way. -/
def arriving (w : Word) (act : Bool) : State :=
  let q : InPort := { lane := [⟨{ l := true }, 9, none, false⟩], fifo := [{ tok := { payload := 1 } }], settled := true }
  let s := slotOf stitch0 { ins := (Vector.replicate 4 {}).set 0 q, inw := Vector.replicate 4 w }
  { s.updPlane stitch0 .a fun p => { p with active := act } with
    cycle := 9, panels := [(0, { sa := { cvt := Vector.replicate 8 1 } })] }

/-- What a port that can take the token arriving shows. -/
def canArrive (s : State) : Bool :=
  let q := (s.plane stitch0 .a).ins[(0 : Fin 4)]
  decide (q.lane = [⟨{ l := true }, 9, none, false⟩]) && decide (9 ≤ s.cycle) && q.buf.isNone && decide (q.fifo.length < fifoCap) && q.cv.isNone

theorem test_meets_TokenEvents_arrival : canArrive (arriving 1 true) = true ∧ ((arriving 1 true).plane stitch0 .a).active = true
    ∧ accepts 1 {} = true ∧ canArrive (arriving 0x80000 true) = true ∧ accepts 0x80000 {} = false ∧ iwSteer 0x80000 = true
    ∧ (cvEntry (arriving 0x80000 true) stitch0 .a {}).isSome = true ∧ iwSteer 0 = false ∧ accepts 0 {} = false
    ∧ canArrive (arriving 1 false) = true ∧ ((arriving 1 false).plane stitch0 .a).active = false := by decide +kernel

theorem test_meets_TokenEvents_conversion : (let s := (arriving 1 true).updIn stitch0 .a 0 fun q => { q with cv := some ⟨{ fmt := .i8 }, 9, none, false⟩ }
    let q := (s.plane stitch0 .a).ins[(0 : Fin 4)]
    q.cv = some ⟨{ fmt := .i8 }, 9, none, false⟩ ∧ q.fifo.length < fifoCap ∧ cvEntry s stitch0 .a { fmt := .i8 } = some 1
    ∧ cvConvert 1 0 { fmt := .i8 } = ({}, none) ∧ accepts (s.plane stitch0 .a).inw[(0 : Fin 4)] {} = true) := by decide +kernel

/-- A stitch whose o0 leads to its own i0. -/
def loopState (w : Word) (o : OutPort) : State :=
  slotOf stitch0 { rw := (Vector.replicate 4 0).set 0 0x4000, inw := Vector.replicate 4 w, outs := (Vector.replicate 4 {}).set 0 o
                   ins := Vector.replicate 4 { credit := 1, fed := true } }

theorem test_meets_TokenEvents_departure : (let s := loopState 0x40000 {}
    (targets s stitch0 .a 0)[0]? = some (.port stitch0 .a 0 false) ∧ iwLazy (s.plane stitch0 .a).inw[(0 : Fin 4)] = true
    ∧ lazyNeed s stitch0 .a 0 = true ∧ (s.outp stitch0 .a 0).reqs = [])
    ∧ (let s := loopState 1 { slot := some {} }
      (s.outp stitch0 .a 0).slot = some {} ∧ targets s stitch0 .a 0 = [.port stitch0 .a 0 false]
      ∧ canTake s stitch0 (s.outp stitch0 .a 0) {} 0 (.port stitch0 .a 0 false) = true ∧ (s.outp stitch0 .a 0).since ≤ s.cycle ∧ rwScale (s.plane stitch0 .a).rw[(0 : Fin 4)] = false
      ∧ (s.outp stitch0 .a 0).swap = false ∧ crossesSelvage s stitch0 (.port stitch0 .a 0 false) = false ∧ (s.inp stitch0 .a 0).pend = none)
    ∧ (let e : RetEntry := { op := 3, tok := some { payload := 8 } }
      let w : RetEntry := { tok := some (winMark 1) }
      let s := slotOf port0 { outs := (Vector.replicate 4 {}).set 0 { retq := [w, e], blk := 2 } }
      (s.outp port0 .a 0).slot = none ∧ (s.outp port0 .a 0).res = none ∧ (s.outp port0 .a 0).left ≠ some s.cycle ∧ kindOf port0 = .mp ∧ (s.plane port0 .a).stop ≠ .winHold
      ∧ nextEntry (s.outp port0 .a 0).blk (s.outp port0 .a 0).retq = some (e, [w]) ∧ e.due ≤ s.cycle ∧ e.op ≠ 0
      ∧ loadBefore s port0 e.op = false ∧ e.win = none ∧ isWin { payload := 8 } = false) := by decide +kernel

/-- A stitch at whose one fed port a token stands, and whose o0 is wired. -/
def markState (t : Token) (reg : List (NodeId × Letter)) : State :=
  let s := slotOf stitch0 { rw := (Vector.replicate 4 0).set 0 0x4000, ins := (Vector.replicate 4 {}).set 0 (headed t) }
  { s.updPlane stitch0 .b fun p => { p with basted := true } with insts := [(1, { region := reg })] }

theorem test_meets_TokenEvents_marks : eosReady (markState { kind := .eos, payload := 7 } []) stitch0 .a = true
    ∧ ((markState { kind := .eos } []).plane stitch0 .a).mp.relog = []
    ∧ (([2, 0, 3] : List Word).all fun w => decide (markReady (markState { kind := .mark, payload := w } []) stitch0 .a = some { kind := .mark, payload := w })) = true
    ∧ markReady (markState { kind := .mark, payload := 3 } [(stitch0, .a)]) stitch0 .a = some { kind := .mark, payload := 3 }
    ∧ ((markState { kind := .mark, payload := 3 } [(stitch0, .a)]).inst 1).region.contains (stitch0, .a) = true
    ∧ (let s := markState { kind := .mark, payload := 0x80000004 } []
      markReady s stitch0 .a = some { kind := .mark, payload := 0x80000004 } ∧ bitOf (0x80000004 : Word).toNat 31 = true
      ∧ otherBasted s stitch0 .a = true ∧ ringShared s (ctxOf s stitch0 .a) = false) := by decide +kernel

theorem test_meets_TokenEvents_waits : (let q : InPort := { headed { kind := .mark, payload := 2 } with markSince := some 10 }
    let s := { slotOf stitch0 { ins := ((Vector.replicate 4 {}).set 0 q).set 1 { fed := true } } with cycle := 1034, ctxs := [(0, { markto := 1 })] }
    let p := s.plane stitch0 .a
    p.ins[(0 : Fin 4)].markSince = some 10 ∧ rawHead p 0 = some { kind := .mark, payload := 2 } ∧ p.active = true ∧ p.stop = .run
    ∧ markCarrying stitch0 p 0 = true ∧ kindOf stitch0 = .stitch ∧ alignedMark stitch0 p = none
    ∧ 10 + max (s.ctx (ctxOf s stitch0 .a)).markto 1 * 1024 ≤ s.cycle)
    ∧ ((slotOf stitch0 { psn := some 9 }).plane stitch0 .a).psn = some 9
    ∧ (let v : PanelSide := { hold := .loading 1 7 9, ldrec := some { pid := 7 }, ploads := [(stitch0, .b, 3, 7)] }
      let s : State := { panels := [(16383, { sa := v })], cycle := 9 }
      (s.side 16383 .a).hold = .loading 1 7 9 ∧ (s.side 16383 .a).ldrec = some { pid := 7 }
      ∧ ∀ e ∈ (s.side 16383 .a).ploads, e.2.2.2 = 7 ∧ e.2.1 ≠ .a ∧ e.2.2.1 ≠ 0) := by decide +kernel

theorem test_meets_TokenEvents_release : (let s : State := { insts := [(1, { region := [(stitch0, .a)], winArr := [(stitch0, .a)] })] }
    allArrived (s.inst 1) = true ∧ (s.inst 1).fault = false ∧ (s.inst 1).winAt = none)
    ∧ (let s : State := { insts := [(1, { region := [(stitch0, .a)], winArr := [(stitch0, .a)], winAt := some 0 })] }
      allArrived (s.inst 1) = true ∧ (s.inst 1).winAt = some 0) := by decide +kernel

/-! ### Placement events: hypotheses -/

/-- Partition 0 is panels 0 and 1; one request of context 0 stands. -/
def reqState (w : Nat) (v : Req) : State :=
  { dev := { islands := allOn }, parts := [(0, { prect := 2 ^ 31 + (w - 1) * 2 ^ 14 })], reqs := [(4, v)]
    runs := [(9, { kind := .launch 0 1 })], cycle := 700 }

theorem test_meets_PlacementEvents_search : (let r : Req := { st := .waiting }
    let s := reqState 2 r
    mget? s.reqs 4 = some r ∧ { r with letter := newLetter s r.ctx } = r ∧ reqGoes s r = true ∧ r.at_ ≤ s.cycle ∧ mustWait s 4 r = false
    ∧ findRect s r.ctx r.pat r.letter r.anchor (topOf s r.ctx) = some 0)
    ∧ (let r : Req := { st := .search 0, pat := { fw := 2 } }
      let s := reqState 2 r
      mget? s.reqs 4 = some r ∧ { r with letter := newLetter s r.ctx } = r ∧ reqGoes s r = true ∧ mustWait s 4 r = false
      ∧ 0 = min 0 (topOf s r.ctx) ∧ findRect s r.ctx r.pat r.letter r.anchor 0 = none ∧ 0 < topOf s r.ctx) := by decide +kernel

/-- Request 4 claims the panel at place `n` of a pattern of two panels; panel 1 is held as `h` says, by request 5 if that
claims. -/
def claimingState (n : Nat) (h : Hold) (age : Nat) : State :=
  let r : Req := { st := .claiming 0 1 n 700, pat := { fw := 2 }, age := age }
  { reqState 2 r with panels := [(1, { sa := { hold := h } })], reqs := [(4, r), (5, { st := .claiming 1 0 0 0, age := 6 })] }

theorem test_meets_PlacementEvents_claims : (rectPanels 0 2 1)[1]? = some 1 ∧ (rectPanels 0 2 1)[0]? = some 0
    ∧ ([0, 1].all fun n =>
      let s := claimingState n .free 5
      let r : Req := { st := .claiming 0 1 n 700, pat := { fw := 2 }, age := 5 }
      decide (mget? s.reqs 4 = some r) && reqGoes s r && decide (r.letter = newLetter s r.ctx) && (rivals s false r.letter n).isEmpty
        && panelFree s false r.letter n && slicesOk s 0 0 r.pat && unitsOk s 0 r.letter r.pat && !ringShared s 0) = true
    ∧ (let s := claimingState 1 (.claimed 5) 7
      (rivals s false .a 1).any fun e => outranks (rankOf s e.1 (mget s.reqs e.1)) (rankOf s 4 (mget s.reqs 4))) = true := by decide +kernel

theorem test_meets_PlacementEvents_placed : (let r : Req := { st := .loading 0 700, for_ := .launch 9 }
    let s := reqState 2 r
    mget? s.reqs 4 = some r ∧ zeroed s r 0 = true ∧ banksIdle s (rectPanels 0 r.pat.fw r.pat.fh) (r.ways.map fun w => (w.1, w.2.1)) = true
    ∧ tenantsLeft s r 0 = false ∧ reqGoes s r = true ∧ cutRoom s r = true
    ∧ mget? s.runs 9 = some { kind := .launch 0 1 }) := by decide +kernel

theorem test_meets_PlacementEvents_fetch : (let s : State := { fetches := [(0, 3, 7, 9)], cycle := 9 }
    (s.fetches.filter fun f => decide (f.2.1 = 3) && decide (f.2.2.1 = 7) && decide (f.2.2.2 ≤ s.cycle)) = [(0, 3, 7, 9)]
    ∧ ((mget s.pcache 0 ++ [(3, 7)]).map (lenOf s)).sum ≤ 2 ^ 25) := by decide +kernel

/-- A bundle with one member placed, as instance 2 at panel 1, and one waiting. -/
def bundleState : State :=
  let v : Bundle := { caller := 1, members := [.placed 2, .waiting] }
  { reqState 2 { st := .waiting, for_ := .member 6 1 } with
    bundles := [(6, v)], ctxs := [(0, { waitb := 100 })], insts := [(1, {}), (2, { origin := 1 })], panels := [(1, { sa := { hold := .inst 2 } })] }

theorem test_meets_PlacementEvents_bundle : (let s := bundleState
    let v : Bundle := { caller := 1, members := [.placed 2, .waiting] }
    mget? s.bundles 6 = some v ∧ v.issued + 4 * (s.ctx v.ctx).waitb ≤ s.cycle ∧ descheduled s v.ctx = false ∧ waitingReqs s 6 = [4]
    ∧ (mget? s.reqs 4).isSome = true ∧ bundleHost s v = some 2) := by decide +kernel

/-- Instance 1 is being cast. Its footprint is empty: the bytes of one unit are more than the kernel can walk. -/
def castingState : State :=
  { slotOf stitch0 {} with insts := [(1, { st := .casting 9, castUnit := some 0, spillSeg := some (0, 0), pat := { fw := 0 } })], cycle := 9 }

theorem test_meets_PlacementEvents_castComplete : (∃ u b, writeCast castingState 1 = (u, .ok b) ∧ (fun _ => true) b = true)
    ∧ (castingState.inst 1).st = .casting 9 ∧ (castingState.inst 1).saved = []
    ∧ (castingState.inst 1).fresh = none ∧ (castingState.inst 1).spillSeg = some (0, 0)
    ∧ (let w := castLeave (cutAnswer (writeCast castingState 1).1 1 0) 1
      movesOf (castTry 1 w) 1 = [] ∧ castPlace w 1 true = none) :=
  ⟨ok_of _ (fun _ => true) (by decide +kernel), by decide +kernel, by decide +kernel, by decide +kernel, by decide +kernel, by decide +kernel⟩

theorem test_meets_PlacementEvents_castResume : (let s := { castState with nodes := [], cur := .device }
    (s.inst 2).st = .cast ∧ placing s (s.inst 2).ctx = true ∧ s.reqs = [] ∧ (s.insts.all fun e => e.1 == 2 || decide (e.2.st ≠ .cast)) = true
    ∧ (match resumeCast s 2 true with
      | some (u, .ok ()) => !spillLeft u 2
      | _ => false) = true
    ∧ (castPlace s 2 true).any (castClear s 2) = true) := by decide +kernel

/-- Instance 2 is cast, and o0 of the stitch leads to its spill entry 5. -/
def spillState (n : Nat) : State :=
  let o : OutPort := { slot := some {}, heldSince := some 0 }
  let s := slotOf stitch0 { rw := (Vector.replicate 4 0).set 0 0x4000, outs := (Vector.replicate 4 {}).set 0 o }
  { s with insts := [(1, { wires := [{ callee := 2, caller := 1, panel := 0, entries := [0] }] }), (2, { st := .cast, spillSeg := some (0, 0), spill := n })]
           panels := [(0, { sa := { routes := [(0, 0xC0000000)], hold := .inst 2 } })], cycle := 2 ^ 20 }

theorem test_meets_PlacementEvents_spill : (let s := spillState 0
    (s.outp stitch0 .a 0).slot = some {} ∧ targets s stitch0 .a 0 = [.spill 2 0] ∧ spillDead s 2 = false
    ∧ (s.inst 2).spill < 8192 ∧ (s.plane stitch0 .a).stop = .run ∧ rwScale (s.plane stitch0 .a).rw[(0 : Fin 4)] = false
    ∧ (s.outp stitch0 .a 0).swap = false ∧ (s.outp stitch0 .a 0).since ≤ s.cycle) := by decide +kernel

theorem test_meets_PlacementEvents_stall : (let s := spillState 8192
    (s.outp stitch0 .a 0).heldSince = some 0 ∧ 0 + 2 ^ 20 ≤ s.cycle ∧ heldBySpill s stitch0 .a 0 = true) := by decide +kernel

theorem test_meets_PlacementEvents_end : (let s : State := { insts := [(1, { run := 9 })], runs := [(9, { kind := .launch 1 0 })] }
    mget? s.insts 1 = some { run := 9 } ∧ ({ run := 9 } : Inst).caller = 0 ∧ ({ run := 9 } : Inst).st = .live
    ∧ ({ run := 9 } : Inst).fault = false ∧ s.bundles = [] ∧ instFinished s 1 = true
    ∧ mget? s.runs 9 = some { kind := .launch 1 0 }) := by decide +kernel

/-! ### Layered tensors and copies: hypotheses -/

/-- A handle's record: 4 rows of 4 F32 at 0x10200, version 3, `SEQ` 5, a pool at 0x10400 whose descriptor 0 is listed, a next
base at 0x10600. -/
def handleRec : Nat :=
  0x10200 + 3 * 2 ^ 64 + 5 * 2 ^ 96 + 4 * 2 ^ 128 + 4 * 2 ^ 160 + Fmt.f32.code * 2 ^ 192 + 16 * 2 ^ 224 + 0x10400 * 2 ^ 256
    + 0x10600 * 2 ^ 320 + 2 ^ 377 + 2 ^ 512

/-- The sparse descriptor of one F32 pair. -/
def layerDesc : Nat := 1 + Fmt.f32.code * 4 + 2 ^ 32 + 0x10800 * 2 ^ 64 + 0x10900 * 2 ^ 128 + 4 * 2 ^ 192 + 4 * 2 ^ 224

/-- The handle at 0x10000, and an access to it. -/
def handleState (a : Access) : State :=
  let s := paged (accState a {})
  { s with mem := memPut (memPut s.mem 0x10000 (leBytes handleRec 128)) 0x10400 (leBytes layerDesc 64) }

/-- An LT operation's access. -/
def ltAcc (op : Nat) (x y : Word) : Access := { act := .lt op x y, space := .device, va := 0x10000, home := 0x10000 }

/-- The access performs, its record reads as `handleRec`, and `p` holds of the state that the read leaves. -/
def ltReads (a : Access) (p : State → Bool) : Bool :=
  let s := handleState a
  decide (mget? s.accs 4 = some (accOf a)) && canPerform s 4 (accOf a) && (match recordNow (spend s 0 0 4) 0 0x10000 with
    | (w, .ok r) => r == handleRec && p w
    | _ => false)

/-- A record is written back: its page takes it. -/
def writesBack (w : State) (r : Nat) : Bool := (match putRecord w 0 0x10000 r with
  | (_, .ok ()) => true
  | _ => false)

theorem test_meets_LayeredAndCopyEvents_handles : ltReads (ltAcc 8 3 0) (fun w => writesBack w handleRec) = true
    ∧ ltReads (ltAcc 4 0 3) (fun _ => shapeOk handleRec && field handleRec 95 64 == 3) = true
    ∧ ltReads (ltAcc 4 0 3) (fun w => writesBack w handleRec) = true
    ∧ ltReads (ltAcc 5 0 5) (fun w => field handleRec 127 96 == 5 && (listOf handleRec).length != 8 && (match readNum w 0 0x10400 64 with
        | (q, .ok d) => (layerOf handleRec d 0).ok && writesBack q (setList handleRec 6 (listOf handleRec ++ [(6, 0)]))
        | _ => false)) = true
    ∧ ltReads (ltAcc 6 1 5) (fun w => listOf handleRec == [(1, 0)] && writesBack w (setList handleRec 6 [])) = true
    ∧ ltReads (ltAcc 7 1 5) (fun w => field handleRec 382 381 == 0 && (match putRecord w 0 0x10000 (setField (setField handleRec 382 381 1) 388 383 0) with
        | (u, .ok ()) => (match readSnap u 0 (setField (setField handleRec 382 381 1) 388 383 0) with
          | (_, .ok sn) => sn.ok
          | _ => false)
        | _ => false)) = true := by
  decide +kernel

/-- The snapshot of the handle. -/
def handleSnap : Snapshot := snapOf handleRec [layerOf handleRec layerDesc 1]

/-- The load of `handleState`, its unit's line not held yet, fetched, and held. -/
theorem test_meets_LayeredAndCopyEvents_loads : (let a : Access := { layered := some handleSnap, fmt := .f32, va := 20 }
    let s := handleState a
    mget? s.accs 4 = some (accOf a) ∧ canPerform s 4 (accOf a) = true
    ∧ ∃ u, ∃ v : Word, layeredWord s (unitOf (panelOf s port0 .a)) 0 handleSnap .f32 (20 - (winOf s 1 0).base) = (u, .ok v) ∧ (fun _ => true) v = true) :=
  ⟨by decide +kernel, by decide +kernel, ok_of _ _ (by decide +kernel)⟩

theorem test_meets_LayeredAndCopyEvents_lines : (let s := handleState { layered := some handleSnap, fmt := .f32, va := 20 }
    let un := unitOf (panelOf s port0 .a)
    let u := (layeredWord s un 0 handleSnap .f32 (20 - (winOf s 1 0).base)).1
    unitFetched s u un = true ∧ unitFetched u (layeredWord u un 0 handleSnap .f32 (20 - (winOf s 1 0).base)).1 un = false) := by decide +kernel

theorem test_meets_LayeredAndCopyEvents_presses : (let p : Press := { handle := 0x10000, snap := handleSnap, nbase := 0x10600, row := 5 }
    let s := { handleState {} with presses := [(3, [p, { op := some (port0, .a, 3) }])] }
    mget s.presses 3 = [p] ++ { op := some (port0, .a, 3) } :: [] ∧ (∀ q ∈ [p], q.op = none) ∧ p.fault = none ∧ p.snap.rows < p.row
    ∧ ({ fault := some .layerShape } : Press).op = none) := by decide +kernel

/-- A copy node with one copy of its plane A. -/
def copyingState (j : CopyJob) : State := { paged (slotOf (.panel 0 68) { copies := [j] }) with cycle := 50 }

theorem test_meets_LayeredAndCopyEvents_copies : (let j : CopyJob := { rel := true, promise := 90 }
    let s := copyingState j
    copyLetter s (.panel 0 68) = some .a ∧ copyStarts s (.panel 0 68) .a j = true)
    ∧ (let j : CopyJob := { started := true, clen := 4, rows := 2, pos := 8, signal := true, promise := 50, gwin := openWin .device 8, goff := 0x10008 }
      let s := copyingState j
      copyLetter s (.panel 0 68) = some .a ∧ copyBytes j ≤ j.pos ∧ promiseDue s (.panel 0 68) .a j = false ∧ translated s j.gwin = true ∧ descheduled s j.ctx = false
      ∧ eventFree s j.ctx = true ∧ (copySignal s j).2 = none)
    ∧ (let j : CopyJob := { promise := 50, inst := 1 }
      ((copyingState j).plane (.panel 0 68) .a).copies = [] ++ j :: [] ∧ j.missed = false ∧ j.promise ≤ (copyingState j).cycle
        ∧ instOf (copyingState j) (.panel 0 68) .a = j.inst) := by
  decide +kernel

/-! ### The queue unit: hypotheses -/

/-- Queue 0 of context 0 holds one packet, at 0x10000; signals 0, −1 and 1 stand at 0x10800; the image of an empty pattern
stands at 0x10C00. -/
def queueState (v : Nat) (q : Queue) : State :=
  let s := paged { dev := { islands := allOn }, cycle := 65536, barEval := 0 }
  let m := memPut (memPut s.mem 0x10000 (leBytes v 64)) 0x10808 (leBytes (2 ^ 64 - 1 + 2 ^ 64) 16)
  let img := 0x50374C56 + (1 + 5 * 2 ^ 16) * 2 ^ 32 + 257 * 2 ^ 64 + 2 ^ 112 + 80 * 2 ^ 128 + 64 * 2 ^ 256
  { s with
    mem := memPut m 0x10C00 (leBytes img 64), queues := [(0, q)], parts := [(0, { prect := 2 ^ 31 })], vfs := [(0, { cfg := 128 })]
    ctxs := [(0, { s.ctx 0 with pats := [(7, { pid := 7, level := 1 })] })] }

/-- A queue with one packet. -/
def oneQueue (st : Nat) : Queue := { base := 0x10000, state := st, tail := 1 }

/-- Packet `v` is dispatched from queue 0, and `p` holds of the state and run that follow. -/
def dispatches (v : Nat) (p : State → Nat → Bool) : Bool :=
  let s := queueState v (oneQueue 1)
  decide (s.dispAt ≤ s.cycle) && servedNext s == some 0 && !skipped (oneQueue 1) v && (match nextPacket s (oneQueue 1) with
    | (w, .ok x) => let r := startQueue w 0 v; x == v && packetFault r.1 true 0 v == none && p r.1 r.2
    | _ => false)

/-- A BARRIER's first signal reads as `z`, with `n` more to read. -/
def barrierReads (v : Nat) (z : Int) (n : Nat) : Bool := dispatches v fun t id =>
  match (pkSigs v).filter fun a => decide (a ≠ 0) with
  | [] => false
  | a :: more => more.length == n &&
    match readSignal { t with runs := mupd t.runs id fun r => { r with kind := .barrier (a :: more) none, reads := a :: more, pos := false, again := false } } 0 a with
    | (_, .ok y) => y == z
    | _ => false

theorem test_meets_QueueEvents_packets : dispatches 0 (fun t _ => (mget t.queues 0).comp.isEmpty) = true
    ∧ dispatches (1 + 7 * 2 ^ 128 + 2 ^ 140 + 2 * 2 ^ 256) (fun t _ => (mget? (t.ctx 0).pats 7).isSome && (partRect (t.part (partOf t 0))).isSome) = true
    ∧ barrierReads (2 + 0x10800 * 2 ^ 128) 0 0 = true ∧ barrierReads (2 + 0x10808 * 2 ^ 128) (-1) 0 = true
    ∧ barrierReads (2 + 0x10800 * 2 ^ 128 + 0x10810 * 2 ^ 320) 0 1 = true ∧ barrierReads (2 + 0x10810 * 2 ^ 128) 1 0 = true
    ∧ dispatches (3 + 0x10000 * 2 ^ 128 + 0x10200 * 2 ^ 192 + 4 * 2 ^ 256) (fun _ _ => true) = true
    ∧ dispatches (4 + 0x10800 * 2 ^ 128 + (2 ^ 64 - 1) * 2 ^ 192) (fun t _ => (signalOp t 0 0x10800 .atomic (· + -1)).2.isNone) = true
    ∧ dispatches (5 + 0x10C00 * 2 ^ 128 + 5 * 2 ^ 192) (fun t _ => match readImageBytes t 0 0x10C00 with
      | (_, .ok bs) => (validateImage (wordsOf bs) 5).toOption.isSome
      | _ => false) = true := by decide +kernel

theorem test_meets_QueueEvents_spawned : (let p : SpawnPkt := { bytes := leBytes (6 + 7 * 2 ^ 128 + 2 ^ 140 + 2 * 2 ^ 256) 64 }
    let s := queueState 0 {}
    let s := s.updCtx 0 fun x => { x with spawns := [p] }
    let v := leNat p.bytes
    s.dispAt ≤ s.cycle ∧ servedNext s = some 1 ∧ (s.ctx 0).spawns = [p] ∧ packetFault (startSpawn s 0 v).1 false 0 v = none
    ∧ (mget? (s.ctx 0).pats (field v 139 128)).isSome = true) := by decide +kernel

theorem test_meets_QueueEvents_skip : (let s := queueState (2 ^ 9) (oneQueue 2)
    s.dispAt ≤ s.cycle ∧ servedNext s = some 0 ∧ writesPending s (.queue 0 0) = false ∧ s.barEval + 65536 ≤ s.cycle
    ∧ (match nextPacket s (oneQueue 2) with
      | (_, .ok v) => skipped (oneQueue 2) v
      | _ => false) = true) := by decide +kernel

/-- Queue 0 with one dispatched packet. -/
def runState (r : Run) : State :=
  let s := queueState 0 { oneQueue 1 with disp := 1 }
  { s with runs := [(9, r)], qcopies := [(2, [(9, { clen := 4, rows := 2, pos := 8 })])], cycle := 65536 }

/-- The one run is a barrier that awaits two signals with `rs` still to read, at `c` cycles past the last evaluation; the read of
0x10800 gives 0. -/
def evaluates (rs : List Nat) (c : Nat) (pos again : Bool) : Bool :=
  let r : Run := { kind := .barrier [0x10800, 0x10810] none, csig := 0x10810, reads := rs, pos := pos, again := again }
  let s := { runState r with cycle := c }
  mget? s.runs 9 == some r && r.awaits == [0x10800, 0x10810] && r.cause.isNone && !r.overdue s.cycle
    && (match readSignal (if rs = [] then { s with barEval := s.cycle, runs := mupd s.runs 9 fun r => { r with reads := r.awaits, pos := false, again := false } } else s)
        r.ctx 0x10800 with
      | (_, .ok z) => z == 0
      | _ => false)

theorem test_meets_QueueEvents_evaluations : evaluates [] 65536 false false = true ∧ evaluates [0x10800] 1 false false = true
    ∧ evaluates [0x10800] 1 true true = true
    ∧ ((runState {}).runs.map (·.1)).Nodup ∧ (runState {}).barEval = 0 := by decide +kernel

theorem test_meets_QueueEvents_runs : (let r : Run := { kind := .barrier [0x10800] (some 65536), csig := 0x10810 }
      mget? (runState r).runs 9 = some r ∧ 65536 ≤ (runState r).cycle ∧ r.ended = false)
    ∧ (let r : Run := { kind := .copy 2 }
      mget? (runState r).runs 9 = some r ∧ r.cause = none ∧ mget (runState r).qcopies 2 = [(9, { clen := 4, rows := 2, pos := 8 })])
    ∧ (let r : Run := { ended := true }
      mget? (runState r).runs 9 = some r ∧ endedBefore (runState r) r = false ∧ workLeft (runState r) 9 = false
      ∧ (mget (runState r).queues 0).res = true ∧ r.terminated = false ∧ r.csig = 0
      ∧ (mget (runState r).queues 0).prog = 0 ∧ (mget (runState r).queues 0).comp = [])
    ∧ (let r : Run := { ended := true, csig := 0x10800 }
      let s := { runState r with parts := [(0, { pring := 0xFFFF0100, rcur := 1 })] }
      r.csig ≠ 0 ∧ descheduled s r.ctx = true ∧ eventFree s r.ctx = true) := by decide +kernel

/-! ### Traps, pre-emption and the debugger: hypotheses -/

/-- Core 0 idle with trap 5 of instance 1 in its queue. -/
def queuedState (len : Nat) : State :=
  { slotOf stitch0 { stop := .fault 5 } with
    cores := [(0, { queue := [5] })], traps := [(5, { inst := 1 })], insts := [(1, { fault := true, trap := 5, run := 9 })]
    ctxs := [(0, { hndlen := len })], runs := [(9, {})] }

theorem test_meets_TrapAndDebugEvents_delivery : ((queuedState 64).core 0).serving = none ∧ ((queuedState 64).core 0).late = []
    ∧ bindTime ((queuedState 64).trap 5) = false ∧ bindTime { cause := .bespokeLimit, aw := 0b01111000_000_01100_01001_000000_11110 } = true
    ∧ ((queuedState 64).core 0).queue.find? (deliverable (queuedState 64)) = some 5
    ∧ (mget? (queuedState 64).insts ((queuedState 64).trap 5).inst).isSome = true ∧ ((queuedState 64).ctx ((queuedState 64).trap 5).ctx).hndlen ≠ 0
    ∧ ((queuedState 0).core 0).queue.find? (deliverable (queuedState 0)) = some 5 ∧ ((queuedState 0).ctx 0).hndlen = 0
    ∧ (queuedState 64).plane stitch0 .a = { inst := 1, active := true, stop := .fault 5 }
    ∧ ((queuedState 0).inst 1).run ≠ 0 ∧ mget? (queuedState 0).runs 9 = some {} := by decide +kernel

/-- Instance 1 replays trap 5 of the stitch. -/
def replayState (k : Nat) (st : Stop) : State :=
  { slotOf stitch0 { replay := some k, stop := st } with
    traps := [(5, { inst := 1, node := stitch0 })], insts := [(1, { replay := some 5 })], cycle := 2 ^ 20 }

theorem test_meets_TrapAndDebugEvents_replay : ((replayState 0 .held).inst 1).replay = some 5
    ∧ ((replayState 0 .held).plane ((replayState 0 .held).trap 5).node ((replayState 0 .held).trap 5).letter).replay = some 0
    ∧ (∀ k : Fin 4, ((replayState 0 .held).plane stitch0 .a).ins[k].settled = true ∨ ((replayState 0 .held).plane stitch0 .a).ins[k].fifo = [])
    ∧ (∀ k : Fin 4, ((replayState 3 .run).plane stitch0 .a).ins[k].settled = true ∨ ((replayState 3 .run).plane stitch0 .a).ins[k].fifo = [])
    ∧ ((replayState 0 .held).plane stitch0 .a).stop = .held ∧ ((replayState 3 .run).inst 1).replay = some 5
    ∧ ((replayState 3 .run).plane stitch0 .a).replay = some 3 ∧ ((replayState 3 .run).plane stitch0 .a).replaySince + 2 ^ 20 ≤ (replayState 3 .run).cycle := by
  decide +kernel

theorem test_meets_TrapAndDebugEvents_watchdog : (let s := { withHead {} with ctxs := [(0, { wdog := 1 })], cycle := 65536 }
    mget? s.insts 1 = some {} ∧ onFabric {} = true ∧ onFabric { st := .cutting } = true ∧ (s.ctx 0).wdog ≠ 0 ∧ ({} : Inst).progress + (s.ctx 0).wdog * 65536 ≤ s.cycle ∧ wdogHeld s 1 = false
    ∧ activePlanes s 1 = [(stitch0, .a)] ∧ (s.plane stitch0 .a).ins[(0 : Fin 4)].fifo ≠ [])
    ∧ (let s := { slotOf stitch0 {} with ctxs := [(0, { wdog := 1 })], cycle := 65536 }
      wdogHeld s 1 = false ∧ activePlanes s 1 = [(stitch0, .a)] ∧ ∀ k : Fin 4, (s.plane stitch0 .a).ins[k].fifo = []) := by decide +kernel

/-- Instance 1 has a stalled stitch and has been at rest for `q` cycles; another stitch runs plane `p`. -/
def stalledState (q : Nat) (p : Plane) : State :=
  let s := slotOf stitch0 { stop := .stall 3 }
  { s with
    insts := [(1, { quiet := q })]
    nodes := s.nodes ++ [(.panel 0 8, { pa := { p with inst := 1, active := true } })] }

/-- A slot that is always eligible: MOVI to g0. -/
def movSlot : Vector (Word × Word) 16 := (Vector.replicate 16 (0, 0)).set 0 (plainT, 0x4118002A)

theorem test_meets_TrapAndDebugEvents_quiescence :
    (mget? (stalledState 256 {}).insts 1).isSome = true ∧ hasStall (stalledState 256 {}) 1 = true ∧ hasStall (stalledState 255 {}) 1 = true
    ∧ ((stalledState 256 {}).inst 1).quiet = 256 ∧ ((stalledState 255 {}).inst 1).quiet = 255
    ∧ familyOf (stalledState 255 {}) 1 64 = [1] ∧ planesOf (stalledState 255 {}) 1 = [(stitch0, .a), (.panel 0 8, .a)]
    ∧ ((planesOf (stalledState 255 {}) 1).all fun e => atRest (stalledState 255 {}) e.1 e.2) = true
    ∧ atRest (stalledState 255 { slots := movSlot }) (.panel 0 8) .a = false := by decide +kernel

/-- Instance 1 of context 0, whose switch area lies at 0x200000. -/
def switchState (v : Inst) (pre : Bool) : State :=
  let s := paged (slotOf stitch0 {})
  { s with insts := [(1, v)], ctxs := [(0, { s.ctx 0 with cswbase := 0x200000, cswunits := 2, preempt := pre })] }

/-- Whether a read or write answers. -/
def answers (r : State × Except Cause Unit) : Bool := match r with
  | (_, .ok ()) => true
  | _ => false

/-- The footprints are empty for SWITCH_OUT_SAVE: the bytes of a panel's unit are more than the kernel can walk. -/
theorem test_meets_TrapAndDebugEvents_preempt : canPreempt (switchState {} false) 0 = true ∧ liveOf (switchState {} false) 0 = [1]
    ∧ ((liveOf (switchState {} false) 0).map fun i => cswNeed ((switchState {} false).inst i)).sum ≤ ((switchState {} false).ctx 0).cswunits
    ∧ savedDirect ((switchState {} false).inst 1) = false ∧ injects stitch0 ((switchState {} false).plane stitch0 .a) = true
    ∧ (let v : Inst := { st := .cutting, cut := .preempt, cswUnit := some 0, pat := { fw := 0 } }
      let s := { switchState v true with nodes := [] }
      s.insts = [(1, v)] ∧ cutDone s 1 = true ∧ releaseWaits (cutRelease s 1) 1 = false ∧ answers (writeSwitch (cutRelease s 1) 1) = true)
    ∧ (let v : Inst := { st := .saved, cut := .none, cswUnit := some 0 }
      let s := { switchState v true with nodes := [] }
      (s.inst 1).st = .saved ∧ (s.ctx 0).preempt = true ∧ gussetBack s (s.inst 1) = true ∧ descheduled s 0 = false ∧ backIdle s (s.inst 1) = true
      ∧ answers (treeRead s 1) = true
      ∧ answers (readUnits true (treeRead s 1).1 0 (cswVa s 1 + unitSize) {} 1 .a (rectPanels 0 1 1)) = true) := by decide +kernel

/-- Context 0's debugger selects the stitch. -/
def debugState (x : Ctx) (p : Plane) : State := { slotOf stitch0 p with ctxs := [(0, { x with dbgen := 1 })] }

theorem test_meets_TrapAndDebugEvents_debugger : dbgPlane {} = (stitch0, .a) ∧ dbgOn (debugState { dbgcmd := 1 } {}) 0 1 = true
    ∧ dbgOn (debugState { dbgcmd := 3 } {}) 0 3 = true ∧ dbgOn (debugState { dbgcmd := 2 } {}) 0 2 = true
    ∧ candOf (debugState { dbgcmd := 2 } { slots := movSlot, budget := some 1, frozen := true }) stitch0 .a ≠ none
    ∧ candOf (debugState { dbgcmd := 2 } { budget := some 1 }) stitch0 .a = none
    ∧ ((debugState { dbgop := some 7, dbgcmd := 2 } { budget := some 0 }).plane stitch0 .a).budget = some 0
    ∧ ((debugState { dbgop := some 7, dbgcmd := 2 } { budget := some 0 }).plane stitch0 .a).ops = []
    ∧ ((debugState { dbgop := some 7, dbgcmd := 2, dbgrec := some (3, .software) } { budget := some 0 }).ctx 0).dbgrec = some (3, .software) := by
  decide +kernel

theorem test_meets_TrapAndDebugEvents_parity : (let s := debugState { pats := [(7, { pid := 7 })] } { pid := 7 }
    let p := s.plane stitch0 .a
    p.inst ≠ 0 ∧ mget? (s.ctx 0).pats p.pid = some { pid := 7 } ∧ ({ pid := 7 } : Pattern).ver = p.patVer ∧ p.parity = none)
    ∧ ((debugState {} { pid := 7, parity := some 0 }).plane stitch0 .a).parity = some 0
    ∧ mget? ((debugState {} { pid := 7 }).ctx 0).pats 7 = none ∧ (1 : Nat) ≤ 65535 ∧ ((coreState {} {}).core 0).serving = some 5 := by decide +kernel

/-! ### Tenancy and ports: hypotheses -/

/-- Partition 0 is panel 0, its letters shared by VF 0, whose instance 1 runs in letter A, and VF 1, whose instance 2 waits
in letter B. -/
def ringState (ring : Nat) (v w : Inst) (x : Panel) : State :=
  let s := paged (slotOf stitch0 {})
  { s with
    parts := [(0, { prect := 2 ^ 31, pring := ring, ended := true })], vfs := [(0, { cfg := 384 }), (1, { cfg := 384 }), (2, { cfg := 384 })]
    ctxs := [(0, { s.ctx 0 with cswbase := 0x200000, cswunits := 2 }), (1, { s.ctx 0 with vf := 1, cswbase := 0x200000 })]
    insts := [(1, v), (2, { w with ctx := 1 })], panels := [(0, x)], cycle := 1024 }

theorem test_meets_TenancyAndPorts_ring : (let s := ringState 0xFFFF0100 {} {} {}
    ringMany (s.part 0) = true ∧ sliceOver s (s.part 0) = true ∧ nextPlace s (s.part 0) = some 1 ∧ (s.part 0).ended = true
    ∧ vfBasted s ((ringOf (s.part 0)).getD 1 255) = true ∧ othersSaved s (s.part 0) ((ringOf (s.part 0)).getD 1 255) = true ∧ eslEmerged s 0 = true ∧ instsOf s (runningVf (s.part 0)) = [1]
    ∧ (s.inst 1).st = .live ∧ savedDirect (s.inst 1) = false ∧ injects stitch0 (s.plane stitch0 .a) = true)
    ∧ (let s := { ringState 0xFFFF0100 {} {} { swapping := true, exch := some 1024, sa := { hold := .inst 2 } } with nodes := [] }
      partAt s 0 = some 0 ∧ (swapDead s 0 0 .b).nodes = [] ∧ ((swapDead s 0 0 .b).panel 0).swapping = true
      ∧ panelIdle (swapDead s 0 0 .b) 0 .b = true
      ∧ ((exchOut (swapDead s 0 0 .b) 0 .b).bind fun u => exchIn u 0 .a).isSome = true)
    ∧ (let s := { ringState 0xFFFF0100 {} {} { swapping := true, sb := { hold := .inst 1 } } with nodes := [] }
      let t := swapDead s 0 0 .b
      (t.panel 0).swapping = true ∧ panelIdle t 0 .b = true ∧ (t.panel 0).exch = none ∧ exchMoves t 0 .a = true
      ∧ t.cycle < t.cycle + slow t (.panel 0 64) 2304) := by decide +kernel

/-- The saved instance's footprint is empty: the bytes of a panel's unit are more than the kernel can walk. -/
theorem test_meets_TenancyAndPorts_letters : (let v : Inst := { letter := .b, pat := { fw := 0 } }
    let s := { ringState 0xFF020100 v {} { sb := { hold := .inst 1 } } with nodes := [] }
    partAt s 0 = some 0 ∧ nextPlace s (s.part 0) = some 1 ∧ 3 ≤ ((ringOf (s.part 0)).filter fun x => x != 255).length
    ∧ holderOf s 0 .b = some 1 ∧ ofVf s 1 (s.inst 1).ctx = false ∧ (s.inst 1).st = .live ∧ letterDone s 1 = true
    ∧ ((needUnits s 1).map fun t => answers (writePieces t 0 (cswVa t 1) (trailerPieces t 1))) = some true)
    ∧ (let s := { ringState 0xFF020100 {} { letter := .a, st := .saved } {} with nodes := [] }
      holderOf s 0 .b = none ∧ nextPlace s (s.part 0) = some 1
      ∧ (instsOf s 1).find? (fun i => (s.inst i).st == .saved && !(s.ctx (s.inst i).ctx).preempt
          && (rectPanels (s.inst i).origin (s.inst i).pat.fw (s.inst i).pat.fh).contains 0 && letterFree s i .b) = some 2
      ∧ answers (treeRead s 2) = true
      ∧ answers (readUnits false (treeRead s 2).1 1 (cswVa s 2 + unitSize) { lm := true } 2 .a (rectPanels 0 1 1)) = true) := by decide +kernel

theorem test_meets_TenancyAndPorts_registers : (let h : Flosy := { conn := 2 }
    let s : State := { dev := { bootst := 1, islands := allOn }, parts := [(0, { prect := 2 ^ 31 })], ports := [(0, { pdcs := [.uud, .rod, .rud] })] }
    carriesFlosy s h = true ∧ connBusy s h = false ∧ commandOk s h .other = true
    ∧ prectFits (prectMask (2 ^ 31 + 63)) = true ∧ changeFree s (s.part 63).prect (prectMask (2 ^ 31 + 63)) = true ∧ (s.part 63).rewrite = none
    ∧ ((List.range 64).all fun q => q == 63 || (!prectMeet (prectMask (2 ^ 31 + 63)) (prectNext (s.part q))
        && !prectMeet (prectMask (2 ^ 31 + 63)) (s.part q).prect)) = true
    ∧ prectFits (prectMask (2 ^ 31 + 127 + 2 ^ 14)) = false ∧ field (2 ^ 32) 63 32 ≠ 0 ∧ field (2 ^ 32 - 1) 63 32 = 0
    ∧ genOk 0x42 = false ∧ genOk 2 = true ∧ genOk 0x44 = true ∧ genOk 0x43 = true ∧ (s.port 15).pcfg = 0)
    ∧ (let s : State := { parts := [(63, { rewrite := some (2 ^ 31, 9) })], cycle := 9 }
      (s.part 63).rewrite = some (2 ^ 31, 9) ∧ changeFree s (s.part 63).prect (2 ^ 31) = true
      ∧ mustSplit { s with parts := [(63, { prect := 2 ^ 31 }), (62, { prect := 2 ^ 31 + 1 })] } 1 0 = true) := by decide +kernel

theorem test_meets_TenancyAndPorts_links : (let s : State := { dev := { islands := allOn, linksDown := [0] }, ports := [(15, { pcfg := 0x9B, lup := 8 })] }
    linkUp s 63 = true ∧ bitOf (s.port 15).pcfg 4 = true ∧ linkUp s 61 = false ∧ linkExists s 61 = true ∧ 47 ∉ s.dev.linksDown
    ∧ (s.port 15).pdcs.length < 16384 ∧ bitOf (s.port 15).pcfg 7 = true ∧ (s.port 15).qps < 1024) := by decide +kernel

/-- Whether a flit that fails is the one that failed last is a free value (log 130): either way the first failure is the first of its
flit, and the last clause is met by the free value that says so. -/
theorem test_meets_TenancyAndPorts_retries : (let s : State := { ports := [(15, { pcfg := 0x9B, lup := 8 })] }
    flitTries s 63 < 64)
    ∧ (let s : State := { ports := [(15, { pcfg := 0x9B, lup := 8, tries := (Vector.replicate 4 0).set 3 63 })] }
      Config.freeNat s.free % 2 ≠ 0 → 64 ≤ flitTries s 63) := by
  refine ⟨?_, fun h => ?_⟩
  · simp only [flitTries]
    split
    · decide
    · decide +kernel
  · rw [flitTries, if_neg h]
    decide +kernel

/-- Another device's access arrives for word 0x10040, whose page its tile holds, the memory links in `ks` being down: what its page, right and path say, and
whether its home is behind one of those links and what a load there reads. -/
def arrives (ks : List Nat) : Option (Bool × Option Nat) :=
  let s := (Machine.translate (paged { dev := { islands := allOn, domen := true } }) 0 0x10040).1
  let s := s.updDev fun d => { d with linksDown := ks }
  match Machine.translate { s with served := mset s.served (9215, 0) 1 } 0 0x10040 with
  | (u, some q) =>
    let a : Access := { space := .device, act := peerAct .load, va := 0x10040, home := pageHome q 0x10040 }
    if (pageFault (some q) (actRight (peerAct .load))).isSome || (pathFault u a).isSome then none
    else some (homeDown u a.home, (actAt u a).2.toOption.map (·.toNat))
  | _ => none

theorem test_meets_TenancyAndPorts_peers : arrives [] = some (false, some 0) ∧ (arrives (List.range 48)).map (·.1) = some true
    ∧ ({ dev := { domen := true } } : State).dev.domen = true
    ∧ mget ({} : State).served (9215, 0) = 0 ∧ mget ({ served := mset [] (9215, 0) 1 } : State).served (9215, 0) ≠ 0 := by decide +kernel

/-- R399: the turn of a link passes from VF 0, whose deficit does not cover its request, to VF 1, which keeps it while its own does. -/
theorem test_link_turns_by_deficit : let q : List LinkReq := [(0, 1, 5, 16), (1, 1, 3, 64), (1, 2, 9, 64)]
    (drrPick {} {} q).map (fun x => (x.1, x.2.cur, mget x.2.left 1)) = some ((1, 2, 9, 64), 1, 1024)
    ∧ (drrPick {} { cur := 1, left := [(1, 64)] } q).map (·.1) = some (1, 2, 9, 64)
    ∧ (drrPick {} { cur := 1, left := [(1, 63)] } q).map (·.1) = some (0, 1, 5, 16) := by decide +kernel

/-! ### Host and power: hypotheses -/

/-- A device that has booted, with one resident queue of context 0 whose block lies at 0x10000, and a queue control block at
0x10080. -/
def hostState (q : Queue) (d : Dev) : State :=
  let s := paged { dev := { d with bootst := 1, islands := allOn }, ports := [(0, { pdcs := List.replicate 8 .rud })] }
  { s with mem := memPut s.mem 0x10080 (leBytes (0x10200 + 4 * 2 ^ 64) 128), queues := [(0, { q with qcb := 0x10000 })] }

theorem test_meets_HostAndPower_commands : (let h : Flosy := { conn := 7 }
    let w := noteLink0 (hostState {} {}) h
    carriesFlosy (hostState {} {}) h = true ∧ connBusy (hostState {} {}) h = false ∧ commandOk (hostState {} {}) h .other = true ∧ commandOk (hostState {} {}) h .power = true
    ∧ commandOk (hostState {} {}) h .attest = true ∧ commandOk (hostState {} {}) h .regRd = true
    ∧ (([0x10, 0x38, 0x10000, 0x10008, 0x10020, 0x100400] : List Nat).all fun o => (regGet w o).toOption.isSome && (regSet w o 1).toOption.isSome) = true
    ∧ (regGet w 0x100000).toOption.isSome = true ∧ (regSet w 0x100000 5).toOption.isSome = false
    ∧ (readCtx w 0 0x10000 8192).2.toOption.isSome = true ∧ rangeDown (readCtx w 0 0x10000 8192).1 0 0x10000 8192 = false
    ∧ (readCtx w 0 (2 ^ 57) 8).2.toOption.isSome = false ∧ (checkCtx w 0 .write 0x10000 64).2 = none ∧ rangeDown (checkCtx w 0 .write 0x10000 64).1 0 0x10000 64 = false
    ∧ (signalOp w 0 0x10008 .write fun _ => signedOf 64 5).2 = none
    ∧ resident? (hostState {} {}) 0 0x10000 = some 0 ∧ (mget (hostState {} {}).queues 0).tail ≤ (mget (hostState {} {}).queues 0).prog + 2 ^ 4
    ∧ resident? (hostState {} {}) 0 0x10080 = none ∧ residentCount (hostState {} {}) < 512 ∧ ((hostState {} {}).queues.map (·.1)).Nodup
    ∧ (match readCtx w 0 0x10080 128 with
      | (_, .ok bs) => qcbLegal (leNat bs)
      | _ => false) = true
    ∧ queueRec (hostState {} {}) 0 0x10080 = none ∧ queueRec (hostState { res := false } {}) 0 0x10000 = some 0
    ∧ resident? (hostState { res := false } {}) 0 0x10000 = none) := by decide +kernel

/-- A connection that carries nothing, one that waits for a POWER, one in the wrong boot state, and one of a RoCEv2 pair. -/
theorem test_meets_HostAndPower_connections : carriesFlosy (hostState {} {}) { conn := 8 } = false
    ∧ carriesFlosy (hostState {} {}) { conn := 7, link := 4 } = false ∧ connBusy (hostState {} { power := some (0, 0, 0, { conn := 7 }) }) { conn := 7 } = true
    ∧ (let s : State := { dev := { bootst := 2 }, ports := [(1, { pcfg := 128, qps := 1, pdcs := [.rod] })] }
      carriesFlosy s { link := 4 } = true ∧ carriesFlosy s { link := 4, roce := true } = true ∧ connBusy s { link := 4 } = false
      ∧ commandOk s { link := 4 } .regRd = false) := by decide +kernel

theorem test_meets_HostAndPower_devices : (mget (hostState { disabling := true } {}).queues 0).disabling = true
    ∧ queueRuns (hostState { disabling := true } {}) 0 = false
    ∧ (hostState {} {}).dev.power = none ∧ (hostState {} {}).dev.powerq = [] ∧ powerRefused (noteLink0 (hostState {} {}) {}) 3 15 = false
    ∧ powerRefused (noteLink0 (hostState {} {}) {}) 24 15 = true
    ∧ (hostState {} { power := some (0, 0, 0, {}) }).dev.power = some (0, 0, 0, {}) ∧ (0 : Nat) ≤ (hostState {} {}).cycle
    ∧ (List.replicate 64 (0 : Byte)).length = 64 ∧ (0x68F : Nat) < (hostState {} {}).dev.ttrip ∧ (hostState {} {}).dev.ttrip ≤ 0x690
    ∧ (let s : State := { dev := { bootst := 3, temp := 0x690 } }
      s.dev.ttrip ≤ s.dev.temp ∧ s.dev.power = none ∧ ∀ k < 23, mget s.dev.islands k = 0)
    ∧ ({ dev := { bootst := 3, temp := 0x68F } } : State).dev.temp < ({} : State).dev.ttrip
    ∧ mget ({ dev := { bootst := 3, temp := 0x690, islands := [(20, 8)] } } : State).dev.islands 20 ≠ 0
    ∧ (hostState {} {}).dev.bootst ≠ 3 ∧ ({ dev := { bootst := 3, islands := [(22, 8)] } } : State).dev.bootst = 3
    ∧ 8 ≤ mget ({ dev := { bootst := 3, islands := [(22, 8)] } } : State).dev.islands 22 := by decide +kernel

/-- What the digest and the two verifications give are free values (log 8), so the boot clause is met by any image that they accept. -/
theorem test_meets_HostAndPower_boot (f : FwImage) (hd : f.digest = Config.sha512 f.bytes)
    (he : Config.edVerify Config.rootKeys.1 f.digest f.sigE = true) (hm : Config.mlVerify Config.rootKeys.2 f.digest f.sigM = true) :
    ∀ g ∈ [f], imageAccepted ({} : State).dev.rollback g = true := by
  intro g hg
  obtain rfl := List.mem_singleton.mp hg
  simpa [imageAccepted, he, hm] using hd

theorem test_meets_HostAndPower_recovery : imageAccepted 1 {} = false := by simp [imageAccepted]

/-! ### The whole machine: hypotheses -/

/-- Core 0 serves a trap, and its handler's position 0 is a TRAP-free word: MOVI, or no word at all. -/
def handlerState (w : Nat) : State :=
  let s := paged (coreState {} {})
  { s with mem := memPut s.mem 0x10000 (leBytes (0x80000000 + w * 2 ^ 32) 8), ctxs := [(0, { s.ctx 0 with hndbase := 0x10000, hndlen := 1 })] }

theorem test_meets_StepRunsDecodedInstruction : (let s := slotOf stitch0 { slots := movSlot }
    nodeExists stitch0 = true ∧ powered s stitch0 = true ∧ ((choose s stitch0).map fun e => (e.2.1, e.2.2)) = some (.a, .slot 0)
    ∧ (slotInstr stitch0 (actWords s stitch0 .a 0).2).toOption = some (.movi (.g 3) 42))
    ∧ (let s := slotOf stitch0 { slots := (Vector.replicate 16 (0, 0)).set 0 (plainT, 0x2D000000) }
      ((choose s stitch0).map fun e => (e.2.1, e.2.2)) = some (.a, .slot 0) ∧ slotInstr stitch0 0x2D000000 = .error .illegalOpcode)
    ∧ (match coreFetch (handlerState 0x4118002A) 0 with
      | (_, .run _ i) => i == .movi (.g 3) 42
      | _ => false) = true
    ∧ (match coreFetch (handlerState 0x2D000000) 0 with
      | (_, .fault e) => e == .illegalOpcode
      | _ => false) = true
    ∧ (let s := { slotOf stitch0 {} with panels := [(0, { sa := { micro := [(0, 0x4118002A), (1, 0x2D000000)] } })] }
      let at_ (k : Nat) := s.setNode stitch0 { s.node stitch0 with seqr := some { started := true, start := k } }
      let fetched (k : Nat) := microFetch (at_ k) stitch0
      microRead (at_ 0) stitch0 = (at_ 0, none) ∧ microRead (at_ 1) stitch0 = (at_ 1, none) ∧ fetched 0 = some (.a, .ok (.movi (.g 3) 42)) ∧ fetched 1 = some (.a, .error .illegalOpcode))
    ∧ powered (handlerState 0) (.panel (corePanel 0) 0) = true ∧ ({} : State).dev.hostq = []
    ∧ (let s : State := { ports := [(0, { pdcs := [.rud] })] }
      carriesFlosy s { tag := 9 } = true ∧ commandOf { fop := 1, ftag := 9, faddr := 8, flen := 8 } [] = some (.regRd 8 8))
    ∧ isWord (.tokenArrival stitch0 .a 0) = false ∧ eventExists (.tokenArrival stitch0 .a 0) = true
    ∧ eventPowered (slotOf stitch0 {}) (.tokenArrival stitch0 .a 0) = true
    ∧ ({ turns := [.issue stitch0] } : State).turns = .issue stitch0 :: [] := by decide +kernel

theorem test_meets_MemoryCanonicalKept : (let s := State.reset.withFetchWord 64 (0x4118002A * 2 ^ 32 + 0x80000000)
    s.memOk ∧ (match step s with
      | .next t => Memory.wf t.mem
      | _ => false) = true) := by
  unfold State.memOk
  decide +kernel


end Sys2Proof.Tests
end

/-! ### What is in flight stays in flight while heads are consumed and traps are taken (R18, R362 to R366) -/

namespace Sys2Proof.Machine
open Sys2Proof

/-- Every plane's operations in flight are unchanged; `Framed` speaks of the registers beside them. -/
def SameOps (s t : State) : Prop := ∀ n l, (t.plane n l).ops = (s.plane n l).ops

theorem sameOps_refl (s : State) : SameOps s s := fun _ _ => rfl

theorem SameOps.trans {s t u : State} (h : SameOps s t) (k : SameOps t u) : SameOps s u :=
  fun n l => (k n l).trans (h n l)

theorem sameOps_of_nodes {s t : State} (h : t.nodes = s.nodes) : SameOps s t :=
  fun n l => by rw [State.plane_congr h]

/-- Changing a plane elsewhere than in its operations. -/
theorem sameOps_updPlane (s : State) (n : NodeId) (l : Letter) (f : Plane → Plane) (h : ∀ p, (f p).ops = p.ops) :
    SameOps s (s.updPlane n l f) := by
  intro m k
  by_cases e : n = m ∧ l = k
  · obtain ⟨rfl, rfl⟩ := e
    simpa using h _
  · rw [State.updPlane_plane_of_ne _ _ e]

theorem sameOps_updIn (s : State) (n : NodeId) (l : Letter) (k : Fin 4) (f : InPort → InPort) :
    SameOps s (s.updIn n l k f) := sameOps_updPlane _ _ _ _ fun _ => rfl

theorem sameOps_updInst (s : State) (i : Nat) (f : Inst → Inst) : SameOps s (s.updInst i f) := sameOps_of_nodes rfl

theorem sameOps_updCore (s : State) (c : Nat) (f : Core → Core) : SameOps s (s.updCore c f) := sameOps_of_nodes rfl

theorem sameOps_fresh (s : State) : SameOps s s.fresh := sameOps_of_nodes rfl

theorem stopPlane_ops (p : Plane) (c : Cls) (id : Nat) (w : Word) : (stopPlane p c id w).ops = p.ops := by
  cases c <;> rfl

theorem poisonBy_ops (w : Word) (p : Plane) : (poisonBy w p).ops = p.ops := by
  unfold poisonBy
  split
  · rfl
  · rfl
  · rfl
  · split <;> rfl

theorem sameOps_noteFault (s : State) (c : Nat) (t : Trap) : SameOps s (noteFault s c t) := by
  unfold noteFault
  dsimp only
  split
  · exact sameOps_of_nodes rfl
  · exact sameOps_refl s

theorem sameOps_waitTrap (s : State) (c id : Nat) (t : Trap) : SameOps s (waitTrap s c id t) :=
  (sameOps_updCore s c _).trans (sameOps_updPlane _ _ _ _ fun _ => by split <;> rfl)

theorem sameOps_queueTrap (s : State) (id : Nat) (t : Trap) : SameOps s (queueTrap s id t) := by
  unfold queueTrap
  dsimp only
  refine (sameOps_of_nodes (t := { s with traps := mset s.traps id t }) rfl).trans ?_
  split
  · split
    · exact sameOps_of_nodes rfl
    · exact sameOps_waitTrap _ _ _ _
  · unfold enqTrap
    dsimp only
    split
    · exact sameOps_updCore _ _ _
    · exact sameOps_waitTrap _ _ _ _

theorem sameOps_abandonReplay (s : State) (i : Nat) : SameOps s (abandonReplay s i) := by
  unfold abandonReplay
  split
  · exact sameOps_refl s
  · intro n l
    simp only [State.plane, State.node, mget, mget?_mmap]
    cases mget? s.nodes n with
    | none => rfl
    | some d => cases l <;> simp only [Option.map_some, Option.getD_some, Node.plane] <;> split <;> rfl

theorem sameOps_takeTrap (s : State) (t : Trap) : SameOps s (takeTrap s t) := by
  have stopped (id : Nat) (w : Word) : SameOps s ((noteFault s (s.inst t.inst).ctx t).updPlane t.node t.letter
      fun p => stopPlane p (causeCls t.cause) id w) :=
    (sameOps_noteFault _ _ _).trans (sameOps_updPlane _ _ _ _ fun p => stopPlane_ops p _ _ _)
  unfold takeTrap
  dsimp only
  split
  · exact (stopped _ _).trans (sameOps_updInst _ _ _)
  · exact ((((stopped _ _).trans (sameOps_abandonReplay _ _)).trans (sameOps_updInst _ _ _)).trans
      (sameOps_fresh _)).trans (sameOps_queueTrap _ _ _)

theorem sameOps_headFault (s : State) (n : NodeId) (l : Letter) (c : Cause) : SameOps s (headFault s n l c) :=
  (sameOps_of_nodes (t := { s with free := s.free + 1 }) rfl).trans (sameOps_takeTrap _ _)

theorem sameOps_settle (s : State) (n : NodeId) (l : Letter) (k : Fin 4) : SameOps s (settle s n l k) := by
  unfold settle
  dsimp only
  split
  · exact sameOps_refl s
  · split
    · exact sameOps_refl s
    · split
      · exact (sameOps_updIn _ _ _ _ _).trans (sameOps_headFault _ _ _ _)
      · split
        · exact (sameOps_updIn _ _ _ _ _).trans (sameOps_headFault _ _ _ _)
        · split
          · exact (sameOps_updIn _ _ _ _ _).trans (sameOps_updPlane _ _ _ _ (poisonBy_ops _))
          · exact sameOps_updIn _ _ _ _ _

theorem sameOps_consume (s : State) (n : NodeId) (l : Letter) (k : Fin 4) : SameOps s (consume s n l k) := by
  have logs (t : Token) (b : Bool) :
      SameOps s (if b then s.updPlane n l fun p => { p with mp := logTok p.mp k t } else s) := by
    split
    · exact sameOps_updPlane _ _ _ _ fun _ => rfl
    · exact sameOps_refl s
  unfold consume
  dsimp only
  split
  · exact sameOps_updPlane _ _ _ _ fun _ => rfl
  · split
    · exact sameOps_refl s
    · split
      · exact (logs _ _).trans (sameOps_updIn _ _ _ _ _)
      · exact (logs _ _).trans ((sameOps_updIn _ _ _ _ _).trans (sameOps_settle _ _ _ _))

theorem sameOps_consumeAll (n : NodeId) (l : Letter) (ps : List (Fin 4)) :
    ∀ s : State, SameOps s (consumeAll s n l ps) := by
  induction ps with
  | nil => exact sameOps_refl
  | cons k t ih => exact fun s => (sameOps_consume s n l k).trans (ih _)

theorem sameOps_reserveOut (s : State) (n : NodeId) (l : Letter) (d : Dst) (id : Nat) :
    SameOps s (reserveOut s n l d id) := by
  cases d with
  | out k => exact sameOps_updPlane _ _ _ _ fun _ => rfl
  | _ => exact sameOps_refl s

/-! ### Ending an issue with a result (R17, R18, R25, R91, R190, R193, R260) -/

@[simp] theorem State.pushOp_ops (s : State) (n : NodeId) (l : Letter) (o : Op) :
    ((s.pushOp n l o).plane n l).ops = (s.plane n l).ops ++ [o] := by
  simp [State.pushOp]

/-- An issued operation is in flight behind those before it; off the stitches its `PE` update, which has no result, may
follow it in place of its own predicate mark (R260). -/
theorem issueOp_ops (s : State) (n : NodeId) (l : Letter) (o : Op) (ps : List (Fin 4)) :
    ∃ mask more, ((issueOp s n l o ps).plane n l).ops = (s.plane n l).ops ++ { o with pmask := mask } :: more
      ∧ (kindOf n = .stitch → more = []) ∧ ∀ q ∈ more, q.toks = [] ∧ q.dst = .disc := by
  have before : SameOps s (if o.queued = true then (consumeAll s n l ps).fresh
      else reserveOut (consumeAll s n l ps).fresh n l o.dst o.id) := by
    have consumed : SameOps s (consumeAll s n l ps).fresh :=
      (sameOps_consumeAll n l ps s).trans (sameOps_fresh _)
    split
    · exact consumed
    · exact consumed.trans (sameOps_reserveOut _ _ _ _ _)
  unfold issueOp
  dsimp only
  generalize (if o.queued = true then (consumeAll s n l ps).fresh
    else reserveOut (consumeAll s n l ps).fresh n l o.dst o.id) = u at before
  split
  case isTrue => exact ⟨o.pmask, [], by rw [State.pushOp_ops, before n l], fun _ => rfl, by simp⟩
  case isFalse off =>
    split
    case isTrue =>
      refine ⟨[], [peOp (u.pushOp n l { o with pmask := [] }) n o], ?_, fun on => absurd on (by simpa using off),
        by simp [peOp]⟩
      rw [State.pushOp_ops, sameOps_fresh _ n l, State.pushOp_ops, before n l, List.append_assoc]
      rfl
    case isFalse => exact ⟨[], [], by rw [State.pushOp_ops, before n l], fun _ => rfl, by simp⟩

open Sys2Proof.Said

/-- A result without a value condition is delivered wherever the acting unit can take one. -/
theorem finish_delivers {s : State} {d : Dst} (h : CanDeliver s d) (lat : Nat) (srcs : List Src) (t : Token) :
    Delivers s (finish s lat d srcs { out := .ok t }) lat d srcs (outTok t) := by
  unfold CanDeliver at h
  unfold Delivers
  cases hc : s.cur with
  | slot n l k =>
    rw [hc] at h
    refine ⟨framed_finish_slot hc _ _ _ _, ?_⟩
    have issued : finish s lat d srcs { out := .ok t } =
        issueOp s n l { newOp s n l k lat d (srcPorts srcs) with toks := [outTok t] } (srcPorts srcs) := by
      simp [finish, hc, show dstUnwired s n l d = false from h, newOp]
    obtain ⟨mask, more, ops, stitch, rest⟩ :=
      issueOp_ops s n l { newOp s n l k lat d (srcPorts srcs) with toks := [outTok t] } (srcPorts srcs)
    exact ⟨_, more, issued ▸ ops, stitch, rest, rfl, rfl, rfl, rfl, rfl, rfl, rfl, rfl⟩
  | micro n l => simp [finish, hc]
  | core c => exact finish_core hc _ _ _ _
  | emul c =>
    rw [hc] at h
    simp [finish, hc, show dstUnwired s _ _ d = false from h]
  | device => rw [hc] at h; exact h

/-- An instruction that ends its issue with a token whose `L` is 0 completes with it. -/
theorem results_of_exec {s : State} {i : Instr} {lat : Nat} {d : Dst} {srcs : List Src} {t : Token} (h : CanDeliver s d)
    (hl : t.l = false) (he : exec i s = .next (finish s lat d srcs { out := .ok t })) : Results s i lat d srcs t := by
  have same : outTok t = t := by rw [outTok, ← hl]
  exact ⟨_, he, same ▸ finish_delivers h lat srcs t⟩

/-! ### Raw operands (R132, R133, R140) -/

theorem condCause_none (pcw : Word) : condCause pcw {} = none := rfl

/-- DATA operands of class raw pass the operand checks, whatever their formats (R132, R133). -/
theorem checkOpds_raw {f : Fmt} {xs : List (Opd × OpCls)} (h : ∀ x ∈ xs, x.1.tok.kind = .data ∧ x.2 = .raw) :
    checkOpds f xs = none := by
  have poison : (xs.any fun x => x.1.tok.kind == .psn && x.2 != .every) = false :=
    List.any_eq_false.mpr fun x hx => by simp [h x hx]
  have kinds : (xs.any fun x => !kindOk x.2 x.1.tok.kind) = false :=
    List.any_eq_false.mpr fun x hx => by simp [h x hx, kindOk]
  have formats : (xs.any fun x => !fmtMeets f x.2 x.1.tok.fmt) = false :=
    List.any_eq_false.mpr fun x hx => by simp [h x hx, fmtMeets]
  simp [checkOpds, poison, kinds, formats]

/-- A bit operation on DATA operands gives its payload, with no scale check and no value condition (R140). -/
theorem laneRes_raw (s : State) {xs : List (Opd × OpCls)} (h : ∀ x ∈ xs, x.1.tok.kind = .data ∧ x.2 = .raw)
    (rf : Fmt) (rs : Bool) (pay : Word) :
    laneRes s .w32 xs false rf rs pay {} none = { out := .ok { fmt := rf, s := rs, payload := pay } } := by
  simp [laneRes, checkOpds_raw h, condCause_none]

section
variable {s : State} {i : Instr} {d : Dst} {a b c : Src}

/-- One raw operand. -/
theorem results_raw1 (hd : CanDeliver s d) (ha : IsRaw s a) (keep : Bool) (g : Word → Word)
    (he : exec i s = .next (finish s 1 d [a] (raw1 s a keep g))) :
    Results s i 1 d [a] { fmt := if keep then (tokAt s .w32 a).fmt else .w32, s := sOf s .w32 a []
                          payload := g (tokAt s .w32 a).payload } := by
  rw [raw1, laneRes_raw s (by simpa [IsRaw, tokAt] using ha)] at he
  exact results_of_exec hd rfl he

/-- Two raw operands. -/
theorem results_raw2 (hd : CanDeliver s d) (ha : IsRaw s a) (hb : IsRaw s b) (g : Word → Word → Word)
    (he : exec i s = .next (finish s 1 d [a, b] (raw2 s a b g))) :
    Results s i 1 d [a, b] { fmt := (tokAt s .w32 a).fmt, s := sOf s .w32 a [b]
                             payload := g (tokAt s .w32 a).payload (tokAt s .w32 b).payload } := by
  rw [raw2, laneRes_raw s (by simpa [IsRaw, tokAt] using And.intro ha hb)] at he
  exact results_of_exec hd rfl he

/-- Three raw operands. -/
theorem results_raw3 (hd : CanDeliver s d) (ha : IsRaw s a) (hb : IsRaw s b) (hc : IsRaw s c) (keep : Bool)
    (g : Word → Word → Word → Word) (he : exec i s = .next (finish s 1 d [a, b, c] (raw3 s a b c keep g))) :
    Results s i 1 d [a, b, c] { fmt := if keep then (tokAt s .w32 a).fmt else .w32, s := sOf s .w32 a [b, c]
                                payload := g (tokAt s .w32 a).payload (tokAt s .w32 b).payload (tokAt s .w32 c).payload } := by
  rw [raw3, laneRes_raw s (by simpa [IsRaw, tokAt] using And.intro ha (And.intro hb hc))] at he
  exact results_of_exec hd rfl he

end

/-! ### The payloads of the bit operations, bit by bit (R140) -/

/-- ROL's two shifts are the rotation, also by 0. -/
theorem rotateLeft_eq_shifts (x : Word) {k : Nat} (h : k < 32) :
    (if k = 0 then x else x <<< k ||| x >>> (32 - k)) = x.rotateLeft k := by
  rw [BitVec.rotateLeft_def, Nat.mod_eq_of_lt h]
  split
  · subst k
    simp [BitVec.ushiftRight_eq_zero]
  · rfl

theorem sigBits_le {v n : Nat} (h : v < 2 ^ n) : sigBits v ≤ n := by
  unfold sigBits flog2
  split
  case isTrue => exact Nat.zero_le n
  case isFalse hv => exact (Nat.log2_lt hv).mpr h

/-- No bit above the significant ones is 1. -/
theorem testBit_of_sigBits_le {v j : Nat} (h : sigBits v ≤ j) : v.testBit j = false := by
  unfold sigBits flog2 at h
  split at h
  case isTrue hv => simp [hv]
  case isFalse hv => exact Nat.testBit_lt_two_pow ((Nat.log2_lt hv).mp h)

/-- The highest significant bit is 1. -/
theorem testBit_sigBits_pred {v : Nat} (h : 0 < sigBits v) : v.testBit (sigBits v - 1) = true := by
  unfold sigBits flog2 at *
  split at h
  case isTrue => exact absurd h (Nat.lt_irrefl 0)
  case isFalse hv => simpa [hv] using Nat.testBit_log2 hv

theorem bitOf_eq_testBit (v i : Nat) : bitOf v i = v.testBit i := by
  rw [Nat.testBit_eq_decide_div_mod_eq]
  rfl

theorem popCount_eq_countP (x : Word) (n : Nat) :
    popCount x.toNat n = (List.range n).countP fun j => x.getLsbD j := by
  induction n with
  | zero => rfl
  | succ n ih =>
    rw [popCount, List.range_succ, List.countP_append, ih, bitOf_eq_testBit, Nat.add_comm]
    cases h : x.toNat.testBit n <;> simp [BitVec.getLsbD, h]

theorem getLsbD_extField (a b c : Word) (j : Nat) :
    (extField a b c).getLsbD j = (decide (j < min (c.toNat % 64) 32) && a.getLsbD (j + b.toNat % 32)) := by
  have narrow : j < min (c.toNat % 64) 32 → j < 32 := fun h => (lt_min_iff.mp h).2
  rw [extField, BitVec.getLsbD_ofNat, Nat.testBit_mod_two_pow, Nat.testBit_div_two_pow, ← Bool.and_assoc]
  by_cases h : j < min (c.toNat % 64) 32 <;> simp [h, narrow, BitVec.getLsbD]

/-- The bits of three fields laid side by side, the middle one `n` bits wide at `p`. -/
theorem testBit_three_fields {low mid p n : Nat} (hl : low < 2 ^ p) (hm : mid < 2 ^ n) (high j : Nat) :
    (low + mid * 2 ^ p + high * 2 ^ (p + n)).testBit j =
      if j < p then low.testBit j else if j < p + n then mid.testBit (j - p) else high.testBit (j - (p + n)) := by
  have nested : low + mid * 2 ^ p + high * 2 ^ (p + n) = 2 ^ p * (2 ^ n * high + mid) + low := by ring
  rw [nested, Nat.testBit_two_pow_mul_add _ hl, Nat.testBit_two_pow_mul_add _ hm]
  by_cases h1 : j < p
  · simp [h1]
  · by_cases h2 : j < p + n
    · simp [h1, h2, show j - p < n by omega]
    · simp [h1, h2, show ¬ j - p < n by omega, Nat.sub_sub]

theorem getLsbD_insField (a b c : Word) {j : Nat} (hj : j < 32) :
    (insField a b c).getLsbD j =
      if c.toNat % 32 ≤ j ∧ j < c.toNat % 32 + min (c.toNat / 256 % 64) 32 then b.getLsbD (j - c.toNat % 32)
      else a.getLsbD j := by
  have hfield : field c.toNat 13 8 = c.toNat / 256 % 64 := rfl
  have hpos : c.toNat % 32 < 32 := Nat.mod_lt _ (by decide)
  simp only [insField, hfield]
  generalize c.toNat % 32 = pos at *
  generalize min (c.toNat / 256 % 64) 32 = len
  obtain ⟨n, top⟩ : ∃ n, min (pos + len) 32 = pos + n := ⟨min (pos + len) 32 - pos, by omega⟩
  rw [top, Nat.add_sub_cancel_left, BitVec.getLsbD_ofNat,
    testBit_three_fields (Nat.mod_lt _ (Nat.two_pow_pos pos)) (Nat.mod_lt _ (Nat.two_pow_pos n)),
    Nat.testBit_mod_two_pow, Nat.testBit_mod_two_pow, Nat.testBit_div_two_pow]
  by_cases below : j < pos
  · simp [hj, below, show ¬ pos ≤ j by omega, BitVec.getLsbD]
  · by_cases inside : j < pos + n
    · simp [hj, below, inside, show pos ≤ j ∧ j < pos + len by omega, show j - pos < n by omega, BitVec.getLsbD]
    · simp [hj, below, inside, show ¬ j < pos + len by omega, show j - (pos + n) + (pos + n) = j by omega, BitVec.getLsbD]

/-- CLZ's count: the bits above it are 0, and the next one, if any, is 1. -/
theorem leadingZeros_spec (x : Word) :
    (∀ j, 32 - (32 - sigBits x.toNat) ≤ j → j < 32 → x.getLsbD j = false)
      ∧ (32 - sigBits x.toNat < 32 → x.getLsbD (31 - (32 - sigBits x.toNat)) = true) := by
  have le : sigBits x.toNat ≤ 32 := sigBits_le x.isLt
  refine ⟨fun j hj _ => testBit_of_sigBits_le (by omega), fun h => ?_⟩
  rw [show 31 - (32 - sigBits x.toNat) = sigBits x.toNat - 1 by omega]
  exact testBit_sigBits_pred (by omega)

/-! ### The obligation -/

/-- ROL on raw operands: the model's two shifts are one rotation. -/
theorem results_rol {s : State} {d : Dst} {a b : Src} (hd : CanDeliver s d) (ha : IsRaw s a) (hb : IsRaw s b) :
    Results s (.rol d a b) 1 d [a, b]
      { fmt := (tokAt s .w32 a).fmt, s := sOf s .w32 a [b]
        payload := (tokAt s .w32 a).payload.rotateLeft ((tokAt s .w32 b).payload.toNat % 32) } := by
  rw [← rotateLeft_eq_shifts _ (Nat.mod_lt _ (by decide))]
  exact results_raw2 hd ha hb
    (fun x y => if y.toNat % 32 = 0 then x else x <<< (y.toNat % 32) ||| x >>> (32 - y.toNat % 32)) rfl

/-- POPC on a raw operand. -/
theorem results_popc {s : State} {d : Dst} {a : Src} (hd : CanDeliver s d) (ha : IsRaw s a) :
    Results s (.popc d a) 1 d [a]
      { s := sOf s .w32 a []
        payload := BitVec.ofNat 32 ((List.range 32).countP fun j => (tokAt s .w32 a).payload.getLsbD j) } := by
  rw [← popCount_eq_countP]
  exact results_raw1 hd ha false (fun x => BitVec.ofNat 32 (popCount x.toNat 32)) rfl

/-- Settles O7: raw DATA operands pass every check, so each operation delivers its function of the payloads, whose bits
the lemmas above give. -/
theorem bitOperations : Obligations.BitOperations := by
  intro s d a b c hd ha x y z keep word
  refine ⟨fun hb => ?two, fun imm => ?immediate, ?clz, results_popc hd ha, fun hb hc => ⟨?ext, ?ins⟩⟩
  case two =>
    exact ⟨results_raw2 hd ha hb (fun x y => x &&& y) rfl, results_raw2 hd ha hb (fun x y => x ||| y) rfl,
      results_raw2 hd ha hb (fun x y => x ^^^ y) rfl, results_raw2 hd ha hb (fun x y => x &&& ~~~y) rfl,
      results_raw2 hd ha hb (fun x y => x <<< (y.toNat % 32)) rfl,
      results_raw2 hd ha hb (fun x y => x >>> (y.toNat % 32)) rfl,
      results_raw2 hd ha hb (fun x y => x.sshiftRight (y.toNat % 32)) rfl, results_rol hd ha hb⟩
  case immediate =>
    exact ⟨results_raw1 hd ha true (fun x => x &&& imm.signExtend 32) rfl,
      results_raw1 hd ha true (fun x => x ||| imm.signExtend 32) rfl⟩
  case clz =>
    obtain ⟨zeros, one⟩ := leadingZeros_spec x
    exact ⟨32 - sigBits x.toNat, Nat.sub_le _ _, zeros, one,
      results_raw1 hd ha false (fun x => BitVec.ofNat 32 (32 - sigBits x.toNat)) rfl⟩
  case ext => exact ⟨extField x y z, getLsbD_extField x y z, results_raw3 hd ha hb hc false extField rfl⟩
  case ins => exact ⟨insField x y z, fun _ => getLsbD_insField x y z, results_raw3 hd ha hb hc true insField rfl⟩

end Sys2Proof.Machine

/-! ### TRAP and BRK (R188, R372, R380) -/

namespace Sys2Proof.Machine
open Sys2Proof Sys2Proof.Said

/-- The trap of a slot's firing that reads no port and records an argument (R188, R370). -/
def argTrap (s : State) (n : NodeId) (l : Letter) (k : Nat) (c : Cause) (arg : Nat) : Trap :=
  { slotTrap s n l k c [] with arg := arg }

theorem raiseArg_slot {s : State} {n : NodeId} {l : Letter} {k : Nat} (h : s.cur = .slot n l k) (c : Cause) (arg : Nat) :
    raiseArg s c arg = takeTrap s (argTrap s n l k c arg) := by
  simp [raiseArg, h, argTrap]

/-- In a handler no record takes the argument: the handler ends by action 3 with the cause (R372). -/
theorem raiseArg_core {s : State} {c : Nat} (h : s.cur = .core c) (cause : Cause) (arg : Nat) :
    raiseArg s cause arg = leaveTrap s c 3 cause := by
  simp [raiseArg, h, raise, handlerFault]

theorem coreCtx_slot {s : State} {n : NodeId} {l : Letter} {k : Nat} (h : s.cur = .slot n l k) :
    coreCtx s = ctxOf s n l := by
  simp [coreCtx, h, actCtx, actInst, actNode, actLetter, ctxOf]

theorem coreCtx_core {s : State} {c : Nat} (h : s.cur = .core c) : coreCtx s = (servedTrap s c).ctx := by
  simp [coreCtx, h]

@[simp] theorem freezeInst_frozen (s : State) (i : Nat) (v : Bool) : ((freezeInst s i v).inst i).frozen = v := by
  simp [freezeInst, State.inst]

theorem exec_trap (s : State) (arg : BitVec 16) : exec (.trap arg) s = .next (raiseArg s .software arg.toNat) := rfl

theorem exec_brk (s : State) (arg : BitVec 16) : exec (.brk arg) s = execBrk arg s := rfl

/-- BRK in a slot whose context has breakpoints enabled also freezes the slot's instance (R380). -/
theorem exec_brk_slot {s : State} {n : NodeId} {l : Letter} {k : Nat} (h : s.cur = .slot n l k)
    (on : bitOf (s.ctx (ctxOf s n l)).dbgen 0 = true) (arg : BitVec 16) :
    exec (.brk arg) s = .next (freezeInst (raiseArg s .breakpoint arg.toNat) (instOf s n l) true) := by
  have inst : actInst s = instOf s n l := by simp [actInst, h, actNode, actLetter]
  rw [← coreCtx_slot h] at on
  simp [exec_brk, execBrk, on, h, inst]

/-- BRK in a handler whose context has breakpoints enabled faults, and freezes nothing (R188, R380). -/
theorem exec_brk_core {s : State} {c : Nat} (h : s.cur = .core c)
    (on : bitOf (s.ctx (servedTrap s c).ctx).dbgen 0 = true) (arg : BitVec 16) :
    exec (.brk arg) s = .next (raiseArg s .breakpoint arg.toNat) := by
  rw [← coreCtx_core h] at on
  simp [exec_brk, execBrk, on, h]

/-- BRK with breakpoints disabled is a NOP, wherever a unit that runs it can take a result (R188). -/
theorem results_brk_of_disabled {s : State} (hd : CanDeliver s .disc)
    (off : bitOf (s.ctx (coreCtx s)).dbgen 0 = false) (arg : BitVec 16) : Results s (.brk arg) 1 .disc [] {} := by
  refine results_of_exec hd rfl ?_
  simp [exec_brk, execBrk, off, w32Res]

theorem canDeliver_disc_slot {s : State} {n : NodeId} {l : Letter} {k : Nat} (h : s.cur = .slot n l k) :
    CanDeliver s .disc := by
  simp [CanDeliver, h, dstUnwired]

theorem canDeliver_core {s : State} {c : Nat} (h : s.cur = .core c) (d : Dst) : CanDeliver s d := by
  simp [CanDeliver, h]

/-- Settles O32: TRAP and an enabled BRK raise their cause with the argument, which a slot takes as the trap of its firing
and a handler as its end; a disabled BRK completes and names no destination. -/
theorem softwareTraps : Obligations.SoftwareTraps := by
  intro s arg
  refine ⟨fun n l k h => ⟨?trap, fun on => ?brk, fun off => ?nop⟩,
    fun c h => ⟨?trapCore, fun on => ?brkCore, fun off => ?nopCore⟩⟩
  case trap =>
    exact ⟨argTrap s n l k .software arg.toNat, by rw [exec_trap, raiseArg_slot h], rfl, rfl, rfl, rfl, rfl, rfl, rfl⟩
  case brk =>
    exact ⟨_, argTrap s n l k .breakpoint arg.toNat, exec_brk_slot h on arg, by rw [raiseArg_slot h],
      rfl, rfl, rfl, rfl, rfl, rfl, freezeInst_frozen _ _ _⟩
  case nop => exact results_brk_of_disabled (canDeliver_disc_slot h) (coreCtx_slot h ▸ off) arg
  case trapCore => rw [exec_trap, raiseArg_core h]
  case brkCore => rw [exec_brk_core h on, raiseArg_core h]
  case nopCore => exact results_brk_of_disabled (canDeliver_core h _) (coreCtx_core h ▸ off) arg

end Sys2Proof.Machine
